-- ==== Sys2Proof/Word.lean ====
section
/-!
DEFINITION. Word types of the model: the widths the manual names (R4, R25, R65, R91) and index types for
the fixed numbers of dies and tiles (R13, R16).
-/
namespace Sys2Proof

/-- A double word (R4). -/
abbrev Word := BitVec 64

/-- A byte. -/
abbrev Byte := BitVec 8

/-- A vector register or stream entry: 512 bytes (R91). -/
abbrev Vec := BitVec 4096

/-- A mask register (R143). -/
abbrev Mask := BitVec 1024

/-- The position of a compute die in the package: lx + 2*ly + 4*lz (R18, R432). -/
abbrev DieIx := Fin 8

/-- A tile of a die: 8*row + column (R16). -/
abbrev TileIx := Fin 64

end Sys2Proof
end

