-- ==== Sys2Proof/Syntax.lean ====
section
/-!
DEFINITION. The syntax of the machine: element types, operand specifiers, the decoded fields of an operation
word (R65) and of a record's tail (R74 to R77), and ONE inductive with a constructor for each row of the table of
operations and events. An operation constructor carries the word's fields; a record constructor carries the tail
as well; a step that no word encodes carries what the outside or the machine gives it.
-/
namespace Sys2Proof

/-- Element types, in the order of their ET codes (R91). -/
inductive ElemType where
  | i4 | n4 | e2m1 | i8 | n8 | e4m3 | e5m2 | i16 | n16 | bf16 | f16 | i32 | n32 | f32 | i64 | f64
  deriving DecidableEq, Repr

/-- The ET code of a type (R91). -/
def ElemType.code : ElemType → Nat
  | .i4 => 0 | .n4 => 1 | .e2m1 => 2 | .i8 => 3 | .n8 => 4 | .e4m3 => 5 | .e5m2 => 6 | .i16 => 7
  | .n16 => 8 | .bf16 => 9 | .f16 => 10 | .i32 => 11 | .n32 => 12 | .f32 => 13 | .i64 => 14 | .f64 => 15

/-- The type of an ET code. -/
def ElemType.ofCode (c : BitVec 4) : ElemType :=
  match c.toNat with
  | 0 => .i4 | 1 => .n4 | 2 => .e2m1 | 3 => .i8 | 4 => .n8 | 5 => .e4m3 | 6 => .e5m2 | 7 => .i16
  | 8 => .n16 | 9 => .bf16 | 10 => .f16 | 11 => .i32 | 12 => .n32 | 13 => .f32 | 14 => .i64 | _ => .f64

/-- Width of an element in bits (R91). -/
def ElemType.width : ElemType → Nat
  | .i4 | .n4 | .e2m1 => 4
  | .i8 | .n8 | .e4m3 | .e5m2 => 8
  | .i16 | .n16 | .bf16 | .f16 => 16
  | .i32 | .n32 | .f32 => 32
  | .i64 | .f64 => 64

/-- Elements of the type in a vector register (R91). -/
def ElemType.lanes (et : ElemType) : Nat := 4096 / et.width

/-- Signed integer types. -/
def ElemType.isSigned : ElemType → Bool
  | .i4 | .i8 | .i16 | .i32 | .i64 => true
  | _ => false

/-- Floating-point types. -/
def ElemType.isFloat : ElemType → Bool
  | .e2m1 | .e4m3 | .e5m2 | .bf16 | .f16 | .f32 | .f64 => true
  | _ => false

/-- The agents of a tile, in the order in which they rank (R298, R394). -/
inductive Agent where
  | cc | ve | me | le | se
  deriving DecidableEq, Repr

/-- An operand specifier: class and index (R67). -/
inductive Operand where
  | x (i : Fin 32)
  | v (i : Fin 32)
  | q (i : Fin 8)
  | s (i : Fin 8)
  | acc (i : Fin 4)
  | plane (i : Fin 2)
  | g (i : Fin 16)
  | n (i : Fin 4)
  | b (i : Fin 4)
  | srseed
  | l (i : Fin 6)
  | k (i : Fin 16)
  | ag (i : Fin 3)
  deriving DecidableEq, Repr

/-- Which specifier LIT replaces (R68). -/
inductive LitSel where
  | none | a | b | c
  deriving DecidableEq, Repr

/-- The fields of an operation word but MAJ and FN (R65). The zero specifier is x0, as its bits read. -/
structure Op where
  et   : ElemType := .i4
  mod  : BitVec 4 := 0
  d    : Operand := .x 0
  a    : Operand := .x 0
  b    : Operand := .x 0
  c    : Operand := .x 0
  pq   : Option (Fin 8) := none
  lsel : LitSel := .none
  lit  : BitVec 32 := 0
  sw   : Option (Fin 16) := none
  sp   : Option (Fin 16) := none
  sub  : BitVec 8 := 0
  deriving DecidableEq, Repr

/-- An address-generator slot (R76). -/
structure AgSlot where
  str3 : BitVec 18 := 0
  str2 : BitVec 18 := 0
  str1 : BitVec 18 := 0
  str0 : BitVec 18 := 0
  off  : BitVec 20 := 0
  bsel : Fin 16 := 0
  deriving DecidableEq, Repr

/-- The control word of a record (R77). -/
structure Ctl where
  plvl  : BitVec 3 := 0
  wlvl  : BitVec 3 := 0
  lslot : Fin 16 := 0
  tchk  : Bool := false
  slen  : BitVec 3 := 0
  spat  : BitVec 8 := 0
  vcen  : Bool := false
  vcsel : Fin 4 := 0
  deriving DecidableEq, Repr

/-- The tail of a record (R74). -/
structure Tail where
  t0  : BitVec 16 := 0
  t1  : BitVec 16 := 0
  t2  : BitVec 16 := 0
  t3  : BitVec 16 := 0
  ag0 : AgSlot := {}
  ag1 : AgSlot := {}
  ag2 : AgSlot := {}
  ctl : Ctl := {}
  deriving DecidableEq, Repr

/-- What boot firmware decides when it brings the package up (R19, R28, R428, R439). -/
structure BootValues where
  px : Fin 8 := 0
  py : Fin 8 := 0
  pz : Fin 8 := 0
  /-- SX/2 - 1, SY/2 - 1 and SZ/2 - 1. -/
  xs : Fin 8 := 0
  ys : Fin 8 := 0
  zs : Fin 8 := 0
  /-- LMAP of each die (position-major) and port 1 to 7, as training leaves it. -/
  lmap : List (BitVec 64) := []
  /-- IDs that fill each die interleave table round robin. -/
  dit : List (BitVec 12) := []
  /-- The entries of the host filter (R432). -/
  filter : List (BitVec 128) := []
  /-- Fabric ports whose training found another die than the expected neighbour (R21). -/
  miscabled : List (DieIx × Fin 8) := []
  deriving DecidableEq, Repr

/-- A firmware image as the host sends it (R439). -/
structure FirmwareImage where
  bytes     : List Byte := []
  version   : BitVec 32 := 0
  publicKey : List Byte := []
  signature : List Byte := []
  boot      : BootValues := {}
  deriving DecidableEq, Repr

/-- How a link training ended: the ID the partner sent and the width each module reached (R21, R425, R428). -/
structure Training where
  partner : BitVec 12 := 0
  /-- The widths the four modules trained at: 0 full, 1 low half, 2 high half, 3 disabled. -/
  widths  : Vector (BitVec 2) 4 := Vector.replicate 4 0
  success : Bool := true
  deriving DecidableEq, Repr

/-- What the power controller measures of one die in an interval (R436). -/
structure PowerMeasure where
  meas : BitVec 16 := 0
  hot  : Bool := false
  deriving DecidableEq, Repr

/-- A host request through an aperture (R432). -/
structure HostAccess where
  /-- A device physical address, or an offset in the register aperture. -/
  addr  : BitVec 52 := 0
  write : Bool := false
  register : Bool := false
  /-- Bytes written, or as many bytes as are read. -/
  data  : List Byte := []
  deriving DecidableEq, Repr

/-- One constructor for each row of the table of operations and events. -/
inductive Instr where
  /-- Writes the 64-bit wrapping sum of two scalar operands to x_d, or to SRSEED when D names it. (R119) -/
  | add (o : Op)
  /-- Writes the 64-bit wrapping difference of two scalar operands to x_d. (R119) -/
  | sub (o : Op)
  /-- Writes the bitwise and of two scalar operands to x_d. (R119) -/
  | and (o : Op)
  /-- Writes the bitwise or of two scalar operands to x_d. (R119) -/
  | or (o : Op)
  /-- Writes the bitwise exclusive or of two scalar operands to x_d. (R119) -/
  | xor (o : Op)
  /-- Writes a AND NOT b to x_d. (R119) -/
  | andn (o : Op)
  /-- Shifts a left by b[5:0] bits and writes the low 64 bits to x_d. (R119) -/
  | sll (o : Op)
  /-- Shifts a logically right by b[5:0] bits and writes the result to x_d. (R119) -/
  | srl (o : Op)
  /-- Shifts a arithmetically right by b[5:0] bits and writes the result to x_d. (R119) -/
  | sra (o : Op)
  /-- Rotates a left by b[5:0] bits and writes the result to x_d. (R119) -/
  | rotl (o : Op)
  /-- Writes the smaller of a and b, read as i64, to x_d. (R119) -/
  | min (o : Op)
  /-- Writes the larger of a and b, read as i64, to x_d. (R119) -/
  | max (o : Op)
  /-- Writes the smaller of a and b, read as n64, to x_d. (R119) -/
  | minn (o : Op)
  /-- Writes the larger of a and b, read as n64, to x_d. (R119) -/
  | maxn (o : Op)
  /-- Writes the low 64 bits of a times b to x_d. (R119) -/
  | mul (o : Op)
  /-- Writes the high 64 bits of the signed 128-bit product to x_d. (R119) -/
  | mulh (o : Op)
  /-- Writes the high 64 bits of the unsigned 128-bit product to x_d. (R119) -/
  | mulhn (o : Op)
  /-- Writes the signed quotient truncated toward zero, with the fixed results of R120 for b = 0 and overflow. (R120) -/
  | div (o : Op)
  /-- Writes the unsigned quotient, or all ones for b = 0. (R120) -/
  | divn (o : Op)
  /-- Writes the signed remainder, or a for b = 0. (R120) -/
  | rem (o : Op)
  /-- Writes the unsigned remainder, or a for b = 0. (R120) -/
  | remn (o : Op)
  /-- Writes the count of leading zero bits of a, or 64 for a = 0. (R119) -/
  | clz (o : Op)
  /-- Writes the count of trailing zero bits of a, or 64 for a = 0. (R119) -/
  | ctz (o : Op)
  /-- Writes the count of one bits of a. (R119) -/
  | popc (o : Op)
  /-- Writes a when c is nonzero and b otherwise. (R119) -/
  | sel (o : Op)
  /-- Writes 1 or 0 according to the SUB condition on a and b. (R120) -/
  | cmp (o : Op)
  /-- Writes the sign-extended 32-bit literal to x_d. (R119) -/
  | li (o : Op)
  /-- Places the literal in bits [63:32] of x_d, keeping its low half. (R119) -/
  | lih (o : Op)
  /-- Writes a plus b shifted by SUB plus the sign-extended literal. (R119) -/
  | lea (o : Op)
  /-- Writes the rounded scalar float sum. (R122) -/
  | fadd (o : Op)
  /-- Writes the rounded scalar float difference. (R122) -/
  | fsub (o : Op)
  /-- Writes the rounded scalar float product. (R122) -/
  | fmul (o : Op)
  /-- Writes the rounded scalar float quotient. (R122) -/
  | fdiv (o : Op)
  /-- Writes the rounded scalar float square root. (R122) -/
  | fsqrt (o : Op)
  /-- Writes a*b+c rounded once. (R122) -/
  | ffma (o : Op)
  /-- Selects the smaller float operand under R96, without rounding. (R122) -/
  | fmin (o : Op)
  /-- Selects the larger float operand under R96, without rounding. (R122) -/
  | fmax (o : Op)
  /-- Writes 1 or 0 according to a float relation or the unordered test. (R122) -/
  | fcmp (o : Op)
  /-- Converts a scalar between float and 64-bit integer types under R104. (R123) -/
  | fcvt (o : Op)
  /-- Writes a PC-relative branch target to a b register and requests its fetch lines. (R125) -/
  | pbr (o : Op)
  /-- Writes x_a plus an offset to a b register. (R125) -/
  | pbrReg (o : Op)
  /-- Branches through a b register when the condition on x_a against zero holds, trapping on a bad target. (R125) -/
  | bcc (o : Op)
  /-- Writes the link and branches to a PC-relative target. (R125) -/
  | jal (o : Op)
  /-- Writes the link and branches through a b register. (R125) -/
  | jalr (o : Op)
  /-- Loads a scratchpad value of ET width into x_d after range, privilege and alignment checks. (R129) -/
  | ld (o : Op)
  /-- Stores the low bits of x_b to the scratchpad after the checks. (R129) -/
  | st (o : Op)
  /-- Loads a value from a landing slot after slot range and alignment checks. (R130) -/
  | ldl (o : Op)
  /-- Checks a stream segment and appends it to an engine queue. (R133) -/
  | enq (o : Op)
  /-- Writes a record base register g_d. (R134) -/
  | wrg (o : Op)
  /-- Writes a valid-count register, saturated to 65,535. (R135) -/
  | wrn (o : Op)
  /-- Writes one entry of the pending nest table. (R136) -/
  | nst (o : Op)
  /-- Copies the pending nest table to the active nest table. (R136) -/
  | mgo (o : Op)
  /-- Reads a status register into x_d, subject to R117 access. (R141) -/
  | rdsr (o : Op)
  /-- Writes a status register, subject to R117 access and its field map. (R141) -/
  | wrsr (o : Op)
  /-- Ends the task: the CC issues nothing further and the task completes under R50. (R137) -/
  | trapEnd (o : Op)
  /-- Raises the system-call trap with the literal code. (R137) -/
  | trapSys (o : Op)
  /-- Raises the breakpoint trap with the literal code. (R137) -/
  | trapBrk (o : Op)
  /-- Returns from a handler, restoring level and PC, reloading the stop record or re-injecting latches as HALT and DEPTH give. (R215) -/
  | eret (o : Op)
  /-- Stalls the CC until an enabled event holds or the limit passes. (R140) -/
  | wfe (o : Op)
  /-- Adds vector elements, wrapping, saturating or rounding by type. (R156) -/
  | vadd (o : Op) (t : Tail)
  /-- Subtracts vector elements. (R156) -/
  | vsub (o : Op) (t : Tail)
  /-- Multiplies vector elements. (R156) -/
  | vmul (o : Op) (t : Tail)
  /-- Writes the high half of each integer element product. (R156) -/
  | vmulh (o : Op) (t : Tail)
  /-- Writes the element-wise minimum. (R156) -/
  | vmin (o : Op) (t : Tail)
  /-- Writes the element-wise maximum. (R156) -/
  | vmax (o : Op) (t : Tail)
  /-- Writes a*b+c rounded once per element. (R156) -/
  | vfma (o : Op) (t : Tail)
  /-- Writes a*b-c rounded once per element. (R156) -/
  | vfms (o : Op) (t : Tail)
  /-- Writes c-a*b rounded once per element. (R156) -/
  | vfnma (o : Op) (t : Tail)
  /-- Writes the absolute value of each element. (R156) -/
  | vabs (o : Op) (t : Tail)
  /-- Writes the negation of each element. (R156) -/
  | vneg (o : Op) (t : Tail)
  /-- Rounds each float element to an integral value. (R157) -/
  | vround (o : Op) (t : Tail)
  /-- Writes min(max(a, b), c) per element. (R156) -/
  | vclamp (o : Op) (t : Tail)
  /-- Writes a mask of an element-wise comparison. (R159) -/
  | vcmp (o : Op) (t : Tail)
  /-- Selects elements of a or b by a mask operand. (R160) -/
  | vsel (o : Op) (t : Tail)
  /-- Bitwise and of two vectors. (R160) -/
  | vand (o : Op) (t : Tail)
  /-- Bitwise or of two vectors. (R160) -/
  | vor (o : Op) (t : Tail)
  /-- Bitwise exclusive or of two vectors. (R160) -/
  | vxor (o : Op) (t : Tail)
  /-- Bitwise a AND NOT b of two vectors. (R160) -/
  | vandn (o : Op) (t : Tail)
  /-- Applies a three-input truth table to every bit. (R160) -/
  | vlop3 (o : Op) (t : Tail)
  /-- Shifts each element left by the amount in b. (R162) -/
  | vshl (o : Op) (t : Tail)
  /-- Shifts each element logically right. (R162) -/
  | vshr (o : Op) (t : Tail)
  /-- Shifts each element arithmetically right. (R162) -/
  | vsra (o : Op) (t : Tail)
  /-- Funnel-shifts joined elements left and keeps the high half. (R163) -/
  | vfsl (o : Op) (t : Tail)
  /-- Funnel-shifts joined elements right and keeps the low half. (R163) -/
  | vfsr (o : Op) (t : Tail)
  /-- Rotates lanes within groups of 2^g lanes. (R164) -/
  | vrot (o : Op) (t : Tail)
  /-- Permutes lanes by an index vector, zeroing out-of-range indices. (R165) -/
  | vperm (o : Op) (t : Tail)
  /-- Copies one lane to every lane. (R165) -/
  | vsplat (o : Op) (t : Tail)
  /-- Repeats the first 2^g lanes across the register. (R165) -/
  | vbcast (o : Op) (t : Tail)
  /-- Writes widened element products to a register pair. (R167) -/
  | vwmul (o : Op) (t : Tail)
  /-- Writes widened element sums to a register pair. (R167) -/
  | vwadd (o : Op) (t : Tail)
  /-- Adds four 8-bit products per lane to an i32 accumulator. (R168) -/
  | vdot4 (o : Op) (t : Tail)
  /-- Converts elements between types, widening or narrowing across register groups. (R169) -/
  | vcvt (o : Op) (t : Tail)
  /-- Converts wider floats to a block-scaled type and writes the scales. (R170) -/
  | vpack (o : Op) (t : Tail)
  /-- Reduces each lane group by a pairwise tree. (R172) -/
  | vred (o : Op) (t : Tail)
  /-- Writes the inclusive prefix of each lane group as a left fold. (R173) -/
  | vscan (o : Op) (t : Tail)
  /-- Marks the k greatest elements of each group in a mask. (R174) -/
  | vtopk (o : Op) (t : Tail)
  /-- Ands two masks. (R175) -/
  | qand (o : Op) (t : Tail)
  /-- Ors two masks. (R175) -/
  | qor (o : Op) (t : Tail)
  /-- Complements a mask. (R175) -/
  | qnot (o : Op) (t : Tail)
  /-- Writes the count of set mask bits to lane 0. (R175) -/
  | qpop (o : Op) (t : Tail)
  /-- Writes the index of the first set mask bit to lane 0. (R175) -/
  | qfirst (o : Op) (t : Tail)
  /-- Copies a vector or literal to a vector or stream. (R176) -/
  | vmov (o : Op) (t : Tail)
  /-- Loads 512 scratchpad bytes after range, alignment and tag checks. (R177) -/
  | vld (o : Op) (t : Tail)
  /-- Stores the masked elements of a vector to the scratchpad. (R178) -/
  | vst (o : Op) (t : Tail)
  /-- Loads elements whose bank words are tag-covered and writes a hit mask. (R179) -/
  | vldt (o : Op) (t : Tail)
  /-- Writes 2^x rounded once. (R180) -/
  | vexp2 (o : Op) (t : Tail)
  /-- Writes log2 x rounded once. (R180) -/
  | vlog2 (o : Op) (t : Tail)
  /-- Writes 1/x rounded once. (R180) -/
  | vrcp (o : Op) (t : Tail)
  /-- Writes 1/sqrt(x) rounded once. (R180) -/
  | vrsqrt (o : Op) (t : Tail)
  /-- Writes sin(pi x) rounded once. (R180) -/
  | vsin (o : Op) (t : Tail)
  /-- Writes cos(pi x) rounded once. (R180) -/
  | vcos (o : Op) (t : Tail)
  /-- Writes tanh x rounded once. (R180) -/
  | vtanh (o : Op) (t : Tail)
  /-- Writes the logistic function of x rounded once. (R180) -/
  | vsigm (o : Op) (t : Tail)
  /-- Loads the shadow weight plane row by row over 128 cycles. (R196) -/
  | mldw (o : Op) (t : Tail)
  /-- Exchanges active and shadow weight planes. (R198) -/
  | mflip (o : Op) (t : Tail)
  /-- Performs one array step accumulating into the rotated accumulator, with optional predicated flip and fused load. (R192) -/
  | mstep (o : Op) (t : Tail)
  /-- Performs one array step that starts from zero instead of the accumulator. (R194) -/
  | mstepz (o : Op) (t : Tail)
  /-- Pushes one accumulator row to a stream, optionally clearing it. (R204) -/
  | mrd (o : Op) (t : Tail)
  /-- Clears an accumulator or a weight plane. (R204) -/
  | mclr (o : Op) (t : Tail)
  /-- Scales each accumulator row by a popped f32 factor. (R204) -/
  | mscMul (o : Op) (t : Tail)
  /-- Loads one accumulator row from a popped stream entry. (R204) -/
  | mscLd (o : Op) (t : Tail)
  /-- Pushes the plane descriptors and ACT to a stream. (R204) -/
  | mstat (o : Op) (t : Tail)
  /-- Copies one item of bytes per iteration, with optional ring wrap. (R340) -/
  | cpy (o : Op) (t : Tail)
  /-- Copies a run of tensor elements through a layout record, with padding. (R341) -/
  | cpyt (o : Op) (t : Tail)
  /-- Gathers one indexed row per item. (R342) -/
  | cpyg (o : Op) (t : Tail)
  /-- Scatters one row per item to an indexed place. (R342) -/
  | cpys (o : Op) (t : Tail)
  /-- Copies strided elements, trapping on overlapping sides. (R343) -/
  | cpyx (o : Op) (t : Tail)
  /-- Copies a sliding window of tensor elements. (R341) -/
  | cpyw (o : Op) (t : Tail)
  /-- Writes a payload and then releases a flag update. (R344) -/
  | putsig (o : Op) (t : Tail)
  /-- Sends one canonical-reduction contribution to a home slice. (R345) -/
  | cred (o : Op) (t : Tail)
  /-- Makes a segment the engine's scheduled segment for the next communication phase. (R346) -/
  | csched (o : Op)
  /-- Increments the copy-schedule stage counter. (R347) -/
  | cstep (o : Op) (t : Tail)
  /-- Moves one 512-byte entry between memory and a stream register. (R340) -/
  | strm (o : Op) (t : Tail)
  /-- As strm, with ring wrap on the memory side. (R340) -/
  | strmq (o : Op) (t : Tail)
  /-- Exchanges a halo face with the neighbouring shard. (R341) -/
  | halo (o : Op) (t : Tail)
  /-- Gathers whole key pages by an index list. (R340) -/
  | kgath (o : Op) (t : Tail)
  /-- Validates a ring image into a chunk-graph slot. (R382) -/
  | fcolLoad (o : Op)
  /-- Starts a ring-collective run of a chunk-graph slot. (R383) -/
  | fcolRun (o : Op)
  /-- Arms a trigger entry from a descriptor and evaluates it. (R387) -/
  | ftrigArm (o : Op)
  /-- Clears a trigger entry. (R387) -/
  | ftrigDisarm (o : Op)
  /-- Returns a trigger entry's armed, fired and failure status. (R387) -/
  | ftrigQuery (o : Op)
  /-- Starts or resumes the thresher on a re-shard plan. (R377) -/
  | rshd (o : Op)
  /-- Returns the byte total of the die's re-shard plan. (R380) -/
  | rshqTotal (o : Op)
  /-- Returns the transfer count of the die's re-shard plan. (R380) -/
  | rshqPairs (o : Op)
  /-- Kills a context: cancels records, stops tiles, drains traffic and frees the entry. (R352) -/
  | kill (o : Op)
  /-- Loads from a virtual address, visible at the due cycle. (R273) -/
  | ldg (o : Op)
  /-- Stores to a virtual address, acknowledged at the due cycle. (R273) -/
  | stg (o : Op)
  /-- Loads as an acquire at the given scope. (R274) -/
  | ldacq (o : Op)
  /-- Stores as a release at the given scope. (R274) -/
  | strel (o : Op)
  /-- Atomically adds and returns the old value. (R284) -/
  | atomAdd (o : Op)
  /-- Atomic signed minimum. (R284) -/
  | atomMin (o : Op)
  /-- Atomic signed maximum. (R284) -/
  | atomMax (o : Op)
  /-- Atomic unsigned minimum. (R284) -/
  | atomMinn (o : Op)
  /-- Atomic unsigned maximum. (R284) -/
  | atomMaxn (o : Op)
  /-- Atomic and. (R284) -/
  | atomAnd (o : Op)
  /-- Atomic or. (R284) -/
  | atomOr (o : Op)
  /-- Atomic exclusive or. (R284) -/
  | atomXor (o : Op)
  /-- Atomic swap. (R284) -/
  | atomSwap (o : Op)
  /-- Compare-and-swap of one word. (R284) -/
  | cas (o : Op)
  /-- Compare-and-swap of two double words. (R284) -/
  | cas2 (o : Op)
  /-- Compare-and-swap of four double words. (R284) -/
  | cas4 (o : Op)
  /-- Enqueues a value into a list queue at its near-memory unit. (R286) -/
  | lenq (o : Op)
  /-- Dequeues a value from a list queue. (R286) -/
  | ldeq (o : Op)
  /-- Follows a linked structure from home to home. (R287) -/
  | nchase (o : Op)
  /-- Looks up a tag in the tag table. (R277) -/
  | tlk (o : Op)
  /-- Writes a valid tag-table entry. (R278) -/
  | tins (o : Op)
  /-- Invalidates one tag-table entry. (R278) -/
  | tinvOne (o : Op)
  /-- Invalidates every tag-table entry. (R278) -/
  | tinvAll (o : Op)
  /-- Invalidates every entry holding a tag. (R278) -/
  | tinvTag (o : Op)
  /-- Bounds key pages by their crusts and writes a gather list. (R292) -/
  | ksel (o : Op)
  /-- Recomputes tight crusts of key pages. (R291) -/
  | kcrust (o : Op)
  /-- Holds later off-tile requests until earlier accesses in scope are performed. (R275) -/
  | fence (o : Op)
  /-- Sets a semaphore's count and ceiling from the literal. (R397) -/
  | kset (o : Op)
  /-- Sets a semaphore's count and ceiling from x_a. (R397) -/
  | ksetReg (o : Op)
  /-- Waits for n on a semaphore. (R397) -/
  | kwait (o : Op) (t : Option Tail)
  /-- Posts n to a semaphore. (R397) -/
  | kpost (o : Op) (t : Option Tail)
  /-- Sets a barrier object's expected bytes and clears arrived and overflow. (R401) -/
  | barinit (o : Op)
  /-- Sets expected bytes, returning the old word, and may flip. (R401) -/
  | barexp (o : Op)
  /-- Reads a barrier object as an acquire and reports its flip. (R401) -/
  | barwait (o : Op)
  /-- Arrives at the superstep barrier and enters the communication phase at S. (R404) -/
  | ssync (o : Op)
  /-- Returns SSNUM and SSARR from the barrier home. (R406) -/
  | sstatBar (o : Op)
  /-- Returns the LE and SE stage counters. (R406) -/
  | sstatStg (o : Op)
  /-- Adds to a trigger counter as a release. (R410) -/
  | tcaddAdd (o : Op)
  /-- Sets a trigger counter as a release. (R410) -/
  | tcaddSet (o : Op)
  /-- Reads a trigger counter as an acquire. (R410) -/
  | tcrd (o : Op)
  /-- Opens an outer loop level of an engine stream. (R442) -/
  | loop (o : Op) (t : Tail)
  /-- Closes an outer loop pass and repeats or falls through. (R442) -/
  | endloop (o : Op) (t : Tail)
  /-- Validates a layout record and stamps V and CHK. (R360) -/
  | lyc (o : Op)
  /-- Returns the box bytes of a layout record. (R363) -/
  | lyqBox (o : Op)
  /-- Returns the virtual address of a shard. (R363) -/
  | lyqShard (o : Op)
  /-- Returns the rank of the upper neighbour along a dimension. (R363) -/
  | lyqNup (o : Op)
  /-- Returns the rank of the lower neighbour along a dimension. (R363) -/
  | lyqNdn (o : Op)
  /-- Loads a pending time-slot table. (R367) -/
  | tsldSlots (o : Op)
  /-- Loads a pending reduction-slot table. (R367) -/
  | tsldRed (o : Op)
  /-- Loads route-table entries from an image. (R373) -/
  | rtld (o : Op)
  /-- Invalidates translations of one page for an ASID across the partition. (R392) -/
  | tlbinvPage (o : Op)
  /-- Invalidates all translations of an ASID across the partition. (R392) -/
  | tlbinvAsid (o : Op)
  /-- Invalidates all translations across the partition. (R392) -/
  | tlbinvAll (o : Op)
  /-- Writes one access-table entry of the die router. (R390) -/
  | atw (o : Op)
  /-- Fills a die interleave table round-robin from a die list. (R389) -/
  | ditwFill (o : Op)
  /-- Loads a die interleave table from an image. (R389) -/
  | ditwLoad (o : Op)
  /-- Pre-empts and swaps a context out to its frames. (R235) -/
  | ctxswOut (o : Op)
  /-- Restores a swapped-out context tile by tile. (R235) -/
  | ctxswIn (o : Op)
  /-- Swaps one context out and another in, tile by tile. (R235) -/
  | ctxswXchg (o : Op)
  /-- Writes shadow bank sets holding the context's image to DRAM and frees them. (R235) -/
  | ctxswSpill (o : Op)
  /-- Writes an in-tile result at the end of active cycle e + L - 1 with its post. (R55) -/
  | resultWriteback
  /-- A stalled agent leaves its stall when its condition no longer holds and issues. (R54) -/
  | stallResume (ag : Agent)
  /-- Off-tile data or an acknowledgement lands at the tile, staged in the silo or ending a freeze. (R30) -/
  | responseLand (req : Nat)
  /-- An off-tile result becomes visible at T + A, or a faulted response raises its due-cycle trap. (R30) -/
  | dueCycle
  /-- At S + CLEN the scheduled segment is spent and the engine resumes its queue. (R346) -/
  | commPhaseEnd
  /-- A refused post raises the semaphore-ceiling trap in the next cycle. (R395) -/
  | semaphoreCeilingTrap
  /-- At the first ME boundary after a stop trigger, captures in-flight results, sets HALT and writes the stop record. (R219) -/
  | stopCut
  /-- A captured result is written, with its post, at the end of cycle R + r. (R220) -/
  | latchReinject
  /-- A tile accepts a pre-emption request and triggers a stop. (R225) -/
  | preemptAccept
  /-- A tile accepts a held interrupt in the first cycle at task level. (R227) -/
  | interruptAccept
  /-- The management controller declares a die lost, faulting its placed records and in-flight requests. (R415) -/
  | dieLossDeclare (d : DieIx)
  /-- TCYC reaches BUDGET; the task ends FAULTED or is suspended by OVP. (R228) -/
  | budgetOverrun
  /-- A wfe limit passes with no enabled event; x_d is 0. (R140) -/
  | wfeTimeout
  /-- An enabled event holds and the wfe ends with its mask. (R140) -/
  | wfeWake
  /-- A requested instruction line lands in the instruction cache. (R127) -/
  | icacheFill (d : DieIx) (t : TileIx) (line : BitVec 64)
  /-- A walker completes a page-table walk and fills a TLB or faults. (R256) -/
  | pageWalk (req : Nat)
  /-- A write of SUBHI submits a graph queue entry under R321. (R420) -/
  | submitGraph (d : DieIx) (q : Fin 16) (hi : BitVec 64)
  /-- A host write of a doorbell page's SUBMIT submits a graph. (R433) -/
  | doorbellSubmit (d : DieIx) (q : Fin 16) (entry : BitVec 128)
  /-- The dispatcher takes the head graph, sets LIVE and submits its records. (R322) -/
  | graphTake (d : DieIx) (q : Fin 16)
  /-- A record forwarded from another die enters the target tile's ready order. (R46) -/
  | recordForward (d : DieIx) (q : Fin 16) (record : Nat)
  /-- When every participant tile is free, all participants are preloaded and started. (R60) -/
  | gangStart (d : DieIx) (q : Fin 16)
  /-- The dispatcher's preload of the image, slot descriptor and ENTRY line completes or faults. (R49) -/
  | preload (d : DieIx) (t : TileIx)
  /-- At the tile-task boundary the bank sets exchange and the preloaded task starts. (R49) -/
  | taskStart (d : DieIx) (t : TileIx)
  /-- A task whose end conditions all hold retires DONE and writes USED. (R50) -/
  | taskComplete (d : DieIx) (t : TileIx)
  /-- A remote plain access is performed at a target tile's bank in a cycle or between cycles. (R299) -/
  | remoteAccess (req : Nat)
  /-- A remote atomic is performed by the target bank's atomic unit. (R282) -/
  | remoteAtomic (req : Nat)
  /-- A request arriving at a die is translated by the ingress MMU or checked by an access table. (R264) -/
  | ingressRequest (req : Nat)
  /-- An off-tile access is performed at its home slice and acknowledged. (R300) -/
  | homeAccess (req : Nat) (evict : List Nat)
  /-- A near-memory unit performs an atomic, list or chase operation indivisibly. (R283) -/
  | nearMemoryOp (req : Nat)
  /-- The crust's home slice applies a widening for a key write. (R290) -/
  | crustWiden (index : Nat)
  /-- A near-memory unit adds bytes to a barrier object or records overflow. (R399) -/
  | barrierAdd (req : Nat)
  /-- A cred contribution arrives at its slot and is folded, held or faulted. (R317) -/
  | contributionArrival (req : Nat)
  /-- A participant's arrival reaches the barrier home and is counted. (R404) -/
  | ssyncArrival (req : Nat)
  /-- The start signal lands at a participant tile, ending any freeze at S. (R62) -/
  | startSignal (d : DieIx) (t : TileIx)
  /-- The firing reaches a die and non-participant tiles take the new SSNUM. (R402) -/
  | ssnumUpdate (d : DieIx) (q : Fin 16)
  /-- The dispatcher performs a trigger-counter change and evaluates armed entries. (R411) -/
  | triggerCounterChange (req : Nat)
  /-- A port sequencer receives a ring chunk, adds and forwards it. (R384) -/
  | chunkArrival (d : DieIx) (q : Fin 16) (slot : Fin 4)
  /-- The thresher reads and sends the next row of its plan. (R375) -/
  | thresherRowSend (d : DieIx)
  /-- A row's write is acknowledged; the cursor advances and bytes are added to BAR. (R378) -/
  | thresherRowAck (d : DieIx)
  /-- The thresher pauses on swap-out or fails on a row and writes its cursor. (R379) -/
  | thresherStop (d : DieIx)
  /-- A slice scan empties closed race records and raises SFLOOR. (R312) -/
  | segmentSweep (d : DieIx)
  /-- The host resolves a non-resident page and the replayed H-class item completes or fails. (R339) -/
  | hostPageResolved (req : Nat) (resident : Bool)
  /-- A host request through the memory aperture is filtered and performed at its home. (R432) -/
  | hostAccess (access : HostAccess)
  /-- After its current task ends, a tile restores a swapped-in context's slot. (R235) -/
  | swapInTile (d : DieIx) (t : TileIx)
  /-- A context swap finishes on every tile and its status lands. (R236) -/
  | swapComplete (req : Nat)
  /-- Every die acknowledges the drain and the kill completes. (R352) -/
  | killComplete (req : Nat)
  /-- No older egress entry remains on any die and the tlbinv completes. (R392) -/
  | tlbinvComplete (req : Nat)
  /-- A packet entering a router takes its output port or is dropped at 64 hops. (R371) -/
  | routerForward (req : Nat)
  /-- A link receiver accepts a packet or drops it and asks for replay. (R350) -/
  | linkPacketReceive (d : DieIx) (p : Fin 8) (good : Bool)
  /-- A cumulative acknowledgement removes egress entries. (R350) -/
  | linkAck (d : DieIx) (p : Fin 8) (upto : BitVec 12)
  /-- A sender resends unacknowledged packets on a replay request and counts the retry. (R350) -/
  | linkReplay (d : DieIx) (p : Fin 8)
  /-- A link trains, exchanges die IDs and is held down on a mismatch. (R21) -/
  | linkTraining (d : DieIx) (p : Fin 8) (result : Training)
  /-- LCTL command 0 does nothing. (R429) -/
  | linkNone (d : DieIx) (p : Fin 8) (word : BitVec 64)
  /-- Finishes the flit in progress and stops sending new flits. (R429) -/
  | linkPause (d : DieIx) (p : Fin 8) (word : BitVec 64)
  /-- Restarts sending and triggers a replay request. (R429) -/
  | linkResume (d : DieIx) (p : Fin 8) (word : BitVec 64)
  /-- Replaces a failed lane by a redundant lane of its half. (R429) -/
  | linkRemap (d : DieIx) (p : Fin 8) (word : BitVec 64)
  /-- Both ends retrain at the LMAP width with the ID check. (R429) -/
  | linkRetrain (d : DieIx) (p : Fin 8) (word : BitVec 64)
  /-- Narrows a module to the half without the failed lane and retrains. (R461) -/
  | linkDegrade (d : DieIx) (p : Fin 8) (word : BitVec 64)
  /-- Restores a module to full width and retrains. (R429) -/
  | linkRestore (d : DieIx) (p : Fin 8) (word : BitVec 64)
  /-- A link command finishes, setting DONE or ERR and clearing BUSY. (R429) -/
  | linkCommandComplete (d : DieIx) (p : Fin 8) (result : Training)
  /-- A context table entry write is accepted or discarded with CTXSTAT set. (R418) -/
  | contextEntryWrite (d : DieIx) (i : Fin 16) (dw : Fin 8) (word : BitVec 64)
  /-- A write of PARTID or the partition die list is accepted or discarded. (R419) -/
  | partitionWrite (d : DieIx) (reg : Fin 65) (word : BitVec 64)
  /-- A write of GQSTAT clears flags and unfreezes the queue. (R323) -/
  | gqstatWrite (d : DieIx) (q : Fin 16) (word : BitVec 64)
  /-- Requests an interrupt on a tile, or is refused with a status bit. (R421) -/
  | irqcmd (d : DieIx) (word : BitVec 64)
  /-- Pre-empts every tile of the die running the context and halts them. (R421) -/
  | precmdStop (d : DieIx) (word : BitVec 64)
  /-- Restores halted tiles of the context from their slots. (R421) -/
  | precmdResume (d : DieIx) (word : BitVec 64)
  /-- Resumes a SUSPENDED record with a new budget on its tile. (R422) -/
  | taskResume (d : DieIx) (word : BitVec 64)
  /-- Reruns a RUNNING, SUSPENDED or FAULTED record of a live graph. (R423) -/
  | taskRerun (d : DieIx) (word : BitVec 64)
  /-- WBCMD.GO starts a writeback of every dirty sector of the die. (R424) -/
  | sliceWriteback (d : DieIx) (word : BitVec 64)
  /-- The slice writeback finishes and sets DONE. (R424) -/
  | writebackComplete (d : DieIx)
  /-- A write of ATMODE switches the ingress MMU between service and bypass. (R265) -/
  | atmodeWrite (d : DieIx) (word : BitVec 64)
  /-- An access-table entry takes effect when its upper double word is written. (R417) -/
  | accessTableWrite (d : DieIx) (p : Fin 7) (e : Fin 16) (upper : Bool) (word : BitVec 64)
  /-- A route-table entry write takes effect per flow between packets. (R372) -/
  | routeTableWrite (d : DieIx) (e : Fin 1024) (word : BitVec 64)
  /-- A die interleave table write through registers, discarded when selected by a present context. (R417) -/
  | ditWrite (d : DieIx) (n : Fin 4) (dw : Fin 1024) (word : BitVec 64)
  /-- A write of a retry threshold re-arms the link event report. (R412) -/
  | thresholdWrite (d : DieIx) (p : Fin 8) (word : BitVec 64)
  /-- A write to a die control register without behaviour of its own. (R417) -/
  | dieRegisterWrite (d : DieIx) (offset : Nat) (word : BitVec 64)
  /-- Resets one die's tiles, slices, TLBs, tables and counters. (R416) -/
  | dieReset (d : DieIx)
  /-- At power-good the I/O die leaves reset and runs the boot ROM. (R439) -/
  | powerGood
  /-- Every item of state takes its Reset value except fuses and the nonvolatile store. (R441) -/
  | packageColdReset
  /-- The ROM verifies a firmware image and boots the compute dies or reports failure. (R439) -/
  | firmwareImageLoad (image : FirmwareImage)
  /-- A nonce write returns a signed attestation report. (R440) -/
  | attestationRequest (nonce : BitVec 256)
  /-- Every 10 us the controller re-allots tokens and steps die clocks. (R437) -/
  | powerInterval (measure : Vector PowerMeasure 8)
  /-- System software writes a die's DSTATE through the I/O die registers, returning a reset die from training to live. (R415) -/
  | dstateWrite (d : DieIx) (value : BitVec 2)
  /-- The module loses power and every item of state except fuses and the nonvolatile store is lost. (R441) -/
  | modulePowerOff
  /-- A write of LCTL with command code 7 to 15 sets ERR and changes nothing. (R429) -/
  | lctlUnassignedCommand (d : DieIx) (p : Fin 8) (word : BitVec 64)
  /-- A write of TCCMD with an OP other than 1 or 2 is refused with result 1. (R422) -/
  | tccmdOtherOp (d : DieIx) (word : BitVec 64)
  deriving DecidableEq, Repr

end Sys2Proof
end

