-- ==== Sys2Proof/Machine/Float.lean ====
section
/-!
DEFINITION. Floating point (R94 to R110): the seven formats, exact values, arithmetic on them, rounding in every
mode, stochastic rounding, overflow, flushing, conversions, and the special functions of R180.
-/
namespace Sys2Proof

/-! ### Formats (R94) -/

/-- A float format: exponent and mantissa width, bias, and its special encodings. -/
structure Fmt where
  e    : Nat
  m    : Nat
  bias : Nat
  /-- E all ones with M = 0 is an infinity, with M not 0 a NaN. -/
  ieee : Bool
  /-- Bit of the format in DAZ and FTZ (R105). -/
  flag : Nat
  deriving DecidableEq, Repr

/-- The format of a float type; f32 stands for every other type, which no caller asks for. -/
def ElemType.fmt : ElemType → Fmt
  | .f64 => ⟨11, 52, 1023, true, 0⟩
  | .bf16 => ⟨8, 7, 127, true, 2⟩
  | .f16 => ⟨5, 10, 15, true, 3⟩
  | .e5m2 => ⟨5, 2, 15, true, 4⟩
  | .e4m3 => ⟨4, 3, 7, false, 5⟩
  | .e2m1 => ⟨2, 1, 1, false, 6⟩
  | _ => ⟨8, 23, 127, true, 1⟩

/-- Width of an encoding. -/
def Fmt.width (f : Fmt) : Nat := 1 + f.e + f.m

/-- Whether the format is e4m3, which has a NaN and no infinity. -/
def Fmt.isE4m3 (f : Fmt) : Bool := f.e == 4

/-- Exponent of the lowest mantissa bit of a subnormal. -/
def Fmt.low (f : Fmt) : Int := 1 - (f.bias : Int) - f.m

/-- Sign bit as a number. -/
def Fmt.signBit (f : Fmt) (neg : Bool) : Nat := if neg then 2 ^ (f.e + f.m) else 0

/-- The largest finite encoding without sign. -/
def Fmt.maxEnc (f : Fmt) : Nat :=
  if f.ieee then 2 ^ (f.e + f.m) - 2 ^ f.m - 1 else if f.isE4m3 then 2 ^ (f.e + f.m) - 2 else 2 ^ (f.e + f.m) - 1

/-- The canonical NaN; +0 for e2m1, which has none (R94, R102). -/
def Fmt.nan (f : Fmt) : Nat :=
  if f.ieee then 2 ^ (f.e + f.m) - 2 ^ (f.m - 1) else if f.isE4m3 then 2 ^ (f.e + f.m) - 1 else 0

/-- A value that an encoding denotes, or an exact result: (-1)^neg * m * 2^e. -/
inductive Num where
  | nan
  | inf (neg : Bool)
  | fin (neg : Bool) (m : Nat) (e : Int)
  deriving DecidableEq, Repr

/-- The value of an encoding (R94). -/
def Fmt.value (f : Fmt) (w : Nat) : Num :=
  let neg := w.testBit (f.e + f.m)
  let ex := w / 2 ^ f.m % 2 ^ f.e
  let ma := w % 2 ^ f.m
  if ex = 2 ^ f.e - 1 ∧ f.ieee then (if ma = 0 then .inf neg else .nan)
  else if f.isE4m3 ∧ ex = 15 ∧ ma = 7 then .nan
  else if ex = 0 then .fin neg ma f.low
  else .fin neg (2 ^ f.m + ma) (f.low + (ex - 1 : Nat))

/-- Whether an encoding is subnormal. -/
def Fmt.subnormal (f : Fmt) (w : Nat) : Bool := w / 2 ^ f.m % 2 ^ f.e == 0 && w % 2 ^ f.m != 0

/-! ### The rounding context (R101, R105 to R109) -/

/-- What an operation reads of FPCTL, SRSEED and its word: mode 0 to 5, SAT, FPCTL, and the stochastic word. -/
structure RoundCtx where
  mode  : Nat := 0
  sat   : Bool := false
  fpctl : BitVec 32 := 0
  z     : Nat := 0
  deriving DecidableEq, Repr

/-- DAZ of a format (R105). -/
def RoundCtx.daz (c : RoundCtx) (f : Fmt) : Bool := c.fpctl.getLsbD (8 + f.flag)

/-- FTZ of a format (R105). -/
def RoundCtx.ftz (c : RoundCtx) (f : Fmt) : Bool := c.fpctl.getLsbD (16 + f.flag)

/-- A float operand as read: a subnormal reads as zero of its sign under DAZ (R103). -/
def RoundCtx.flushIn (c : RoundCtx) (f : Fmt) (w : Nat) : Nat :=
  if f.subnormal w ∧ c.daz f then f.signBit (w.testBit (f.e + f.m)) else w

/-- The value of an operand as read. -/
def RoundCtx.read (c : RoundCtx) (f : Fmt) (w : Nat) : Num := f.value (c.flushIn f w)

/-- A stochastic generator's mixing step (R108). -/
def mix (z0 : Nat) : Nat :=
  let z := z0 ^^^ (z0 >>> 31)
  let z := z * 0x7FB5D329728EA185 % 2 ^ 64
  let z := z ^^^ (z >>> 27)
  let z := z * 0x81DADEF4BC2DD44D % 2 ^ 64
  z ^^^ (z >>> 33)

/-- The random value of a position (R108). -/
def stochastic (seed w1 w2 : Nat) : Nat := mix (mix (seed ^^^ w1) ^^^ w2)

/-- The mode that MOD[2:0] names, FPCTL.RM standing for code 7 (R101). -/
def roundMode (mod : BitVec 4) (fpctl : BitVec 32) : Nat :=
  let k := mod.toNat % 8
  if k = 7 then (let rm := fpctl.toNat % 8; if rm ≤ 5 then rm else 0) else k

/-! ### Exact results and rounding -/

/-- An exact real result: a value, or with `sticky` a real strictly between m * 2^e and (m + 1) * 2^e in magnitude. -/
structure Exact where
  num    : Num
  sticky : Bool := false
  /-- Sign of an exact zero under RDN and under every other mode. -/
  zeroDn : Bool := false
  deriving DecidableEq, Repr

/-- Whether the neighbour of larger magnitude is taken: the discarded part is rem of 2^sh, plus something when
sticky. d is the discarded field width of R109. -/
def roundUp (mode : Nat) (z d : Nat) (neg odd : Bool) (rem sh : Nat) (sticky : Bool) : Bool :=
  let half := 2 ^ (sh - 1)
  match mode with
  | 0 => decide (rem > half) || (rem == half && (sticky || odd))
  | 1 => false
  | 2 => !neg
  | 3 => neg
  | 4 => decide (rem ≥ half)
  | _ => decide (rem * 2 ^ d / 2 ^ sh + z / 2 ^ (64 - d) ≥ 2 ^ d)

/-- The encoding of a magnitude n * 2^q that the format can hold, or more than its largest finite value. -/
def Fmt.encode (f : Fmt) (n : Nat) (q : Int) : Nat :=
  if n = 0 then 0
  else
    let top : Int := (Nat.log2 n : Int) + q
    if top < f.low + f.m then n * 2 ^ (q - f.low).toNat
    else
      let sh := q - (top - f.m)
      let ma := if sh ≥ 0 then n * 2 ^ sh.toNat else n / 2 ^ (-sh).toNat
      (top - (f.low + f.m) + 1).toNat * 2 ^ f.m + (ma - 2 ^ f.m)

/-- What an overflow gives (R102): the neighbour of larger magnitude was taken or not. -/
def Fmt.overflow (f : Fmt) (mode : Nat) (sat neg up : Bool) : Nat :=
  let max := f.signBit neg + f.maxEnc
  let big := if f.ieee then f.signBit neg + (2 ^ (f.e + f.m) - 2 ^ f.m) else if f.isE4m3 then f.nan else max
  if sat then max
  else
    match mode with
    | 0 | 4 => big
    | 1 => max
    | 2 => if neg then max else big
    | 3 => if neg then big else max
    | _ => if up then big else max

/-- Steps 3 to 6 of R103. `src` is the exponent of the lowest source bit and the number of source bits of a
conversion; none for every other operation, whose discarded field width is 32 (R109). DESIGN CHOICE (log 79): under
stochastic rounding without saturation an exact value above the largest finite value, of which no neighbour is taken,
gives the largest finite value (R102). -/
def Fmt.round (f : Fmt) (c : RoundCtx) (x : Exact) (src : Option (Int × Nat) := none) : Nat :=
  match x.num with
  | .nan => f.nan
  | .inf neg =>
    if f.ieee then f.signBit neg + (2 ^ (f.e + f.m) - 2 ^ f.m)
    else if f.isE4m3 ∧ !c.sat then f.nan else f.signBit neg + f.maxEnc
  | .fin neg m e =>
    if m = 0 ∧ !x.sticky then f.signBit (if c.mode = 3 then x.zeroDn else neg)
    else
      let top : Int := (Nat.log2 (max m 1) : Int) + e
      let q : Int := max (top - f.m) f.low
      let r : Nat × Int × Bool :=
        if q ≤ e ∧ !x.sticky then (m, e, false)
        else
          let sh := (q - e).toNat
          let n := m / 2 ^ sh
          let rem := m % 2 ^ sh
          if rem = 0 ∧ !x.sticky then (n, q, false)
          else
            let d := match src with
              | none => 32
              | some (low, bits) => min 32 (min bits (q - low).toNat)
            let up := roundUp c.mode c.z d neg (n % 2 = 1) rem sh x.sticky
            (if up then n + 1 else n, q, up)
      let enc := f.encode r.1 r.2.1
      if enc > f.maxEnc then f.overflow c.mode c.sat neg r.2.2
      else
        let full := f.signBit neg + enc
        if f.subnormal full ∧ c.ftz f then f.signBit neg else full

/-- Rounding to an integer in the mode (R101, R104): the magnitude, exact when nothing is discarded. -/
def roundInt (c : RoundCtx) (x : Exact) (src : Option (Int × Nat)) : Int :=
  match x.num with
  | .fin neg m e =>
    let n : Nat :=
      if e ≥ 0 then m * 2 ^ e.toNat
      else
        let sh := (-e).toNat
        let n := m / 2 ^ sh
        let rem := m % 2 ^ sh
        if rem = 0 then n
        else
          let d := match src with
            | none => 32
            | some (low, bits) => min 32 (min bits (-low).toNat)
          if roundUp c.mode c.z d neg (n % 2 = 1) rem sh false then n + 1 else n
    if neg then -(n : Int) else n
  | _ => 0

/-! ### Arithmetic on exact values (R96, R112) -/

/-- The signed integer that a value is in units of 2^u, u at most its exponent. -/
def Num.scaled (x : Num) (u : Int) : Int :=
  match x with
  | .fin neg m e => let n : Int := (m * 2 ^ (e - u).toNat : Nat); if neg then -n else n
  | _ => 0

/-- The value of an integer in units of 2^u. -/
def Num.ofInt (n : Int) (u : Int) : Num := .fin (decide (n < 0)) n.natAbs u

/-- The sign inverted. -/
def Num.neg : Num → Num
  | .nan => .nan
  | .inf s => .inf !s
  | .fin s m e => .fin (!s) m e

/-- Whether a value is a zero. -/
def Num.isZero : Num → Bool
  | .fin _ 0 _ => true
  | _ => false

/-- The sign of a value. -/
def Num.sign : Num → Bool
  | .nan => false
  | .inf s => s
  | .fin s _ _ => s

/-- The exact sum of two terms, with the sign of an exact zero (R96). -/
def Num.add (x y : Num) : Exact :=
  match x, y with
  | .nan, _ | _, .nan => { num := .nan }
  | .inf a, .inf b => { num := if a = b then .inf a else .nan }
  | .inf a, .fin .. => { num := .inf a }
  | .fin .., .inf b => { num := .inf b }
  | .fin a m e, .fin b n g =>
    let u := min e g
    let t := x.scaled u + y.scaled u
    if t = 0 then
      let same := m = 0 ∧ n = 0 ∧ a = b
      { num := .fin (if same then a else false) 0 0, zeroDn := if same then a else true }
    else { num := Num.ofInt t u }

/-- The exact product (R96). -/
def Num.mul (x y : Num) : Num :=
  match x, y with
  | .nan, _ | _, .nan => .nan
  | .inf a, .inf b => .inf (a != b)
  | .inf a, .fin b m _ => if m = 0 then .nan else .inf (a != b)
  | .fin a m _, .inf b => if m = 0 then .nan else .inf (a != b)
  | .fin a m e, .fin b n g => .fin (a != b) (m * n) (e + g)

/-- A result that is an exact value; a zero keeps its sign in every mode. -/
def Num.exact (x : Num) : Exact := { num := x, zeroDn := x.sign }

/-- The quotient, cut 66 bits below the widest mantissa (R122). -/
def Num.div (x y : Num) : Exact :=
  match x, y with
  | .nan, _ | _, .nan => { num := .nan }
  | .inf _, .inf _ => { num := .nan }
  | .inf a, .fin b _ _ => { num := .inf (a != b) }
  | .fin a _ _, .inf b => (Num.fin (a != b) 0 0).exact
  | .fin a m e, .fin b n g =>
    if n = 0 then { num := if m = 0 then .nan else .inf (a != b) }
    else if m = 0 then (Num.fin (a != b) 0 0).exact
    else
      let t := m * 2 ^ 192
      { num := .fin (a != b) (t / n) (e - g - 192), sticky := t % n != 0, zeroDn := a != b }

/-- The integer square root, bit by bit from bit n down. -/
def isqrt (w : Nat) (n : Nat) (r : Nat) : Nat :=
  match n with
  | 0 => r
  | n + 1 => let t := r + 2 ^ n; isqrt w n (if t * t ≤ w then t else r)

/-- The square root, cut below 128 bits (R122). -/
def Num.sqrt (x : Num) : Exact :=
  match x with
  | .nan => { num := .nan }
  | .inf s => { num := if s then .nan else .inf false }
  | .fin s m e =>
    if m = 0 then x.exact
    else if s then { num := .nan }
    else
      let (m, e) := if e % 2 = 0 then (m, e) else (2 * m, e - 1)
      let t := m * 2 ^ 256
      let r := isqrt t 160 0
      { num := .fin false r (e / 2 - 128), sticky := r * r != t }

/-- The order of two values that are not NaN, -0 below +0 when `zeros` (R96). -/
def Num.lt (x y : Num) (zeros : Bool) : Bool :=
  match x, y with
  | .inf a, .inf b => a && !b
  | .inf a, .fin .. => a
  | .fin .., .inf b => !b
  | .fin a m e, .fin b n g =>
    if m = 0 ∧ n = 0 then zeros && a && !b
    else let u := min e g; decide (x.scaled u < y.scaled u)
  | _, _ => false

/-- The float minimum (`big` false) or maximum of two encodings as read, by R96: a NaN gives way, -0 orders below +0. -/
def Fmt.select (f : Fmt) (c : RoundCtx) (big : Bool) (a b : Nat) : Nat :=
  let a := c.flushIn f a
  let b := c.flushIn f b
  match f.value a, f.value b with
  | .nan, .nan => f.nan
  | .nan, _ => b
  | _, .nan => a
  | x, y => if big then (if x.lt y true then b else a) else (if y.lt x true then b else a)

/-- The integral value of an encoding, in its own format (R157). -/
def Fmt.integral (f : Fmt) (c : RoundCtx) (a : Nat) : Nat :=
  let a := c.flushIn f a
  match f.value a with
  | .nan => f.nan
  | .inf _ => a
  | .fin neg m e =>
    let n := (roundInt c { num := .fin neg m e } none).natAbs
    f.signBit neg + f.encode n 0

/-! ### Special functions (R180), by fixed-point evaluation with far more bits than any result can need -/

/-- Fraction bits of the fixed-point numbers below. -/
def fixBits : Nat := 320

/-- ln 2 in units of 2^-320. -/
def fixLn2 : Nat :=
  0xb17217f7d1cf79abc9e3b39803f2f6af40f343267298b62d8a0d175b8baafa2be7b876206debac98559552fb4afa1b10 / 2 ^ 64

/-- pi in units of 2^-320. -/
def fixPi : Nat :=
  0x3243f6a8885a308d313198a2e03707344a4093822299f31d0082efa98ec4e6c89452821e638d01377be5466cf34e90c6c / 2 ^ 64

/-- log2 e in units of 2^-320. -/
def fixLog2e : Nat := 2 ^ (2 * fixBits) / fixLn2

/-- The sum of the exponential series from its k-th term t on, n terms. -/
def expSeries (g k t : Nat) : Nat → Nat
  | 0 => 0
  | n + 1 => t + expSeries g (k + 1) (t * g / 2 ^ fixBits / (k + 1)) n

/-- 2^f for a fraction f in units of 2^-320. -/
def exp2Fix (f : Nat) : Nat := expSeries (f * fixLn2 / 2 ^ fixBits) 0 (2 ^ fixBits) 80

/-- The sum of t / k + t * u2 / (k + 2) + ... for a series in odd powers, n terms. -/
def atanhSeries (u2 k t : Nat) : Nat → Nat
  | 0 => 0
  | n + 1 => t / k + atanhSeries u2 (k + 2) (t * u2 / 2 ^ fixBits) n

/-- log2 of y in [1, 2), both in units of 2^-320. -/
def log2Fix (y : Nat) : Nat :=
  let u := (y - 2 ^ fixBits) * 2 ^ fixBits / (y + 2 ^ fixBits)
  2 * atanhSeries (u * u / 2 ^ fixBits) 1 u 110 * 2 ^ fixBits / fixLn2

/-- The alternating series of sine (k = 1, t = y) and cosine (k = 0, t = 1) with y2 = y^2: even and odd terms apart. -/
def trigSeries (y2 scale k t : Nat) : Nat → Nat × Nat
  | 0 => (0, 0)
  | n + 1 =>
    let r := trigSeries y2 scale (k + 2) (t * y2 / 2 ^ scale / ((k + 1) * (k + 2))) n
    (t + r.2, r.1)

/-- sin(pi y) for 0 < y <= 1/4 in units of 2^-scale. -/
def sinFix (y scale : Nat) : Nat :=
  let p := y * fixPi / 2 ^ fixBits
  let r := trigSeries (p * p / 2 ^ scale) scale 1 p 60
  r.1 - r.2

/-- cos(pi y) for 0 < y <= 1/4 in units of 2^-scale. -/
def cosFix (y scale : Nat) : Nat :=
  let p := y * fixPi / 2 ^ fixBits
  let r := trigSeries (p * p / 2 ^ scale) scale 0 (2 ^ scale) 60
  r.1 - r.2

/-- The value 1 exactly. -/
def Num.one : Num := .fin false 1 0

/-- A magnitude in units of 2^-scale, not exact. -/
def inexact (neg : Bool) (v scale : Nat) : Exact := { num := .fin neg v (-(scale : Int)), sticky := true, zeroDn := neg }

/-- m * 2^e in units of 2^-320, when its lowest bit is not below. -/
def toFix (m : Nat) (e : Int) : Nat := m * 2 ^ (e + fixBits).toNat

/-- 2^x. -/
def fnExp2 (x : Num) : Exact :=
  match x with
  | .nan => { num := .nan }
  | .inf s => if s then (Num.fin false 0 0).exact else { num := .inf false }
  | .fin s m e =>
    if m = 0 then Num.one.exact
    else if (Nat.log2 m : Int) + e ≥ 12 then
      (if s then inexact false 0 4096 else { num := .fin false 1 4096 })
    else
      let v := toFix m e
      let n := v / 2 ^ fixBits
      let f := v % 2 ^ fixBits
      if f = 0 then { num := .fin false 1 (if s then -(n : Int) else n) }
      else if s then { num := .fin false (exp2Fix (2 ^ fixBits - f)) (-(n : Int) - 1 - fixBits), sticky := true }
      else { num := .fin false (exp2Fix f) ((n : Int) - fixBits), sticky := true }

/-- log2 x. -/
def fnLog2 (x : Num) : Exact :=
  match x with
  | .nan => { num := .nan }
  | .inf s => { num := if s then .nan else .inf false }
  | .fin s m e =>
    if m = 0 then { num := .inf true }
    else if s then { num := .nan }
    else
      let l := Nat.log2 m
      let n : Int := (l : Int) + e
      if m = 2 ^ l then (Num.ofInt n 0).exact
      else
        let t := log2Fix (m * 2 ^ (fixBits - l))
        if n ≥ 0 then inexact false (n.toNat * 2 ^ fixBits + t) fixBits
        else inexact true ((-n).toNat * 2 ^ fixBits - t - 1) fixBits

/-- 1 / x. -/
def fnRcp (x : Num) : Exact := Num.div Num.one x

/-- 1 / sqrt x. -/
def fnRsqrt (x : Num) : Exact :=
  match x with
  | .nan => { num := .nan }
  | .inf s => if s then { num := .nan } else (Num.fin false 0 0).exact
  | .fin s m e =>
    if m = 0 then { num := .inf s }
    else if s then { num := .nan }
    else
      let (m, e) := if e % 2 = 0 then (m, e) else (2 * m, e - 1)
      let t := 2 ^ 320
      let r := isqrt (t / m) 161 0
      { num := .fin false r (-(e / 2) - 160), sticky := r * r * m != t }

/-- sin(pi x) (`cosine` false) or cos(pi x). -/
def fnTrig (cosine : Bool) (x : Num) : Exact :=
  match x with
  | .nan => { num := .nan }
  | .inf _ => { num := .nan }
  | .fin s m e =>
    if m = 0 then (if cosine then Num.one.exact else x.exact)
    else if e ≥ 1 then (if cosine then Num.one.exact else (Num.fin s 0 0).exact)
    else
      let scale := fixBits + (-e).toNat
      let one := 2 ^ scale
      let v := m * 2 ^ (scale - (-e).toNat)
      let v := v % (2 * one)
      -- the quarter k and the distance r from its start, in half-turns; q the distance folded to at most 1/4
      let k := v / (one / 2)
      let r := v % (one / 2)
      let k := if cosine then k + 1 else k
      let neg := (k % 4 ≥ 2) != (!cosine && s)
      if r = 0 then
        (if k % 2 = 0 then (Num.fin (!cosine && s) 0 0).exact else { num := .fin neg 1 0 })
      else
        let small := r ≤ one / 4
        let q := if small then r else one / 2 - r
        inexact neg (if (k % 2 = 0) = small then sinFix q scale else cosFix q scale) scale

/-- e^y for y in units of 2^-320: a mantissa in units of 2^-320 and an exponent. -/
def expFix (y : Nat) : Nat × Nat :=
  let t := y * fixLog2e / 2 ^ fixBits
  (exp2Fix (t % 2 ^ fixBits), t / 2 ^ fixBits)

/-- tanh x. -/
def fnTanh (x : Num) : Exact :=
  match x with
  | .nan => { num := .nan }
  | .inf s => { num := .fin s 1 0 }
  | .fin s m e =>
    let top := (Nat.log2 m : Int) + e
    if m = 0 then x.exact
    else if top < -40 then { num := .fin s (m * 2 ^ 40 - 1) (e - 40), sticky := true }
    else if top ≥ 7 then inexact s (2 ^ fixBits - 1) fixBits
    else
      let (t, n) := expFix (2 * toFix m e)
      let w := t * 2 ^ n
      inexact s ((w - 2 ^ fixBits) * 2 ^ fixBits / (w + 2 ^ fixBits)) fixBits

/-- 1 / (1 + e^-x). -/
def fnSigm (x : Num) : Exact :=
  match x with
  | .nan => { num := .nan }
  | .inf s => if s then (Num.fin false 0 0).exact else Num.one.exact
  | .fin s m e =>
    if m = 0 then { num := .fin false 1 (-1) }
    else if (Nat.log2 m : Int) + e ≥ 12 then
      (if s then inexact false 0 4096 else inexact false (2 ^ fixBits - 1) fixBits)
    else
      let (t, n) := expFix (toFix m e)
      let w := t * 2 ^ n
      let d := w + 2 ^ fixBits
      -- e^x = w for positive x, e^-x = w for negative x
      if s then { num := .fin false (2 ^ (2 * fixBits + n) / d) (-(fixBits + n : Nat) : Int), sticky := true }
      else inexact false (w * 2 ^ fixBits / d) fixBits

end Sys2Proof
end

