-- ==== Sys2Proof/Machine/Flags.lean ====
section
/-!
DEFINITION. The hardware keeps no flags (R97); what other machines put into flags stands here: the conditions of
compares and branches (R120, R122, R159), saturation (R93), element arithmetic, and conversion between types (R104).
-/
namespace Sys2Proof

/-! ### Integer elements (R93) -/

/-- An element's bits read as its integer type says. -/
def readInt (signed : Bool) (w : Nat) (v : Nat) : Int := if signed && v.testBit (w - 1) then (v : Int) - 2 ^ w else v

/-- The low w bits of an integer. -/
def lowBits (w : Nat) (t : Int) : Nat := (t % 2 ^ w).toNat

/-- The value of an integer type nearest to t (R11, R93). -/
def satBits (signed : Bool) (w : Nat) (t : Int) : Nat :=
  let lo : Int := if signed then -(2 ^ (w - 1)) else 0
  let hi : Int := if signed then 2 ^ (w - 1) - 1 else 2 ^ w - 1
  lowBits w (max lo (min hi t))

/-- Low or Sat of an exact result, by MOD (R156). -/
def narrow (sat signed : Bool) (w : Nat) (t : Int) : Nat := if sat then satBits signed w t else lowBits w t

/-- The integer conditions of R120 on 64-bit values, by code. -/
def condInt (code : Nat) (a b : Word) : Bool :=
  match code with
  | 0 => decide (a = b)
  | 1 => decide (a ≠ b)
  | 2 => a.slt b
  | 3 => !(a.slt b)
  | 4 => !(b.slt a)
  | 5 => b.slt a
  | 6 => a.ult b
  | 7 => !(a.ult b)
  | 8 => !(b.ult a)
  | 9 => b.ult a
  | _ => false

/-- The relations of R159 on two integers. -/
def condElem (code : Nat) (a b : Int) : Bool :=
  match code with
  | 0 => decide (a = b)
  | 1 => decide (a ≠ b)
  | 2 => decide (a < b)
  | 3 => decide (a ≥ b)
  | 4 => decide (a ≤ b)
  | 5 => decide (a > b)
  | _ => false

/-- The float relations of R122 and R159: -0 equals +0; with a NaN only `ne` and `un` hold. -/
def condFloat (f : Fmt) (c : RoundCtx) (code a b : Nat) : Bool :=
  match c.read f a, c.read f b with
  | .nan, _ | _, .nan => decide (code = 1) || decide (code = 10)
  | x, y =>
    let lt := x.lt y false
    let gt := y.lt x false
    match code with
    | 0 => !lt && !gt
    | 1 => lt || gt
    | 2 => lt
    | 3 => !lt
    | 4 => !gt
    | 5 => gt
    | _ => false

/-! ### Conversions (R104) -/

/-- The format and kind of a scalar or vector type, with 64-bit integers included (R92). -/
structure ValueType where
  float  : Option Fmt
  signed : Bool
  width  : Nat
  deriving DecidableEq, Repr

/-- A vector element type as a type of values. -/
def ElemType.valueType (et : ElemType) : ValueType :=
  { float := if et.isFloat then some et.fmt else none, signed := et.isSigned, width := et.width }

/-- A scalar type of the control core: ET 0 and 14 are i64, ET 1 is n64 (R92). -/
def ElemType.ccType (et : ElemType) : ValueType :=
  match et with
  | .i4 | .i64 => { float := none, signed := true, width := 64 }
  | .n4 => { float := none, signed := false, width := 64 }
  | _ => et.valueType

/-- Conversion of one element from type st to type dt. DESIGN CHOICE (log 80): all bits of an integer source count as its
mantissa bits, so the discarded field of a stochastic conversion is what lies below the last place (R109). -/
def convert (dt st : ValueType) (c : RoundCtx) (a : Nat) : Nat :=
  match st.float, dt.float with
  | some f, some g =>
    match c.read f a with
    | .fin neg m e => g.round c (Num.fin neg m e).exact (some (e, f.m + 1))
    | x => g.round c x.exact
  | some f, none =>
    match c.read f a with
    | .nan => 0
    | .inf neg =>
      if neg then (if dt.signed then 2 ^ (dt.width - 1) else 0)
      else (if dt.signed then 2 ^ (dt.width - 1) - 1 else 2 ^ dt.width - 1)
    | .fin neg m e => satBits dt.signed dt.width (roundInt c { num := .fin neg m e } (some (e, f.m + 1)))
  | none, some g =>
    let t := readInt st.signed st.width a
    g.round c (Num.ofInt t 0).exact (some (0, 64))
  | none, none =>
    let t := readInt st.signed st.width a
    if dt.width > st.width then lowBits dt.width t else narrow c.sat dt.signed dt.width t

/-! ### Rounding forms (R122, R156) -/

/-- Round(a + b). -/
def floatAdd (f : Fmt) (c : RoundCtx) (a b : Nat) : Nat := f.round c ((c.read f a).add (c.read f b))

/-- Round(a - b). -/
def floatSub (f : Fmt) (c : RoundCtx) (a b : Nat) : Nat := f.round c ((c.read f a).add (c.read f b).neg)

/-- Round(a * b). -/
def floatMul (f : Fmt) (c : RoundCtx) (a b : Nat) : Nat := f.round c ((c.read f a).mul (c.read f b)).exact

/-- Round(a / b). -/
def floatDiv (f : Fmt) (c : RoundCtx) (a b : Nat) : Nat := f.round c ((c.read f a).div (c.read f b))

/-- Round(sqrt a). -/
def floatSqrt (f : Fmt) (c : RoundCtx) (a : Nat) : Nat := f.round c (c.read f a).sqrt

/-- Round(a * b + c), the product and the addend negated as asked (R156). -/
def floatFma (f : Fmt) (c : RoundCtx) (negProduct negAddend : Bool) (a b d : Nat) : Nat :=
  let p := (c.read f a).mul (c.read f b)
  let q := c.read f d
  f.round c ((if negProduct then p.neg else p).add (if negAddend then q.neg else q))

end Sys2Proof
end

