-- ==== Sys2Proof/Machine/Encoding.lean ====
section
/-!
DEFINITION. The encoding tables: the fields of a word as bits, the entry of each assigned MAJ/FN pair (which
operands, element types, MOD, LIT and SUB values it accepts, R81 and the encoding table of each chapter), and the
checks of R71 order 3 on them. WellFormed and Decode read one and the same table.
-/
namespace Sys2Proof

/-! ### Fields as bits -/

/-- The fields of an operation word as they stand in the word (R65). -/
structure Raw where
  et   : BitVec 4
  mod  : BitVec 4
  d    : BitVec 8
  a    : BitVec 8
  b    : BitVec 8
  c    : BitVec 8
  pq   : BitVec 4
  lsel : BitVec 2
  res62 : BitVec 2
  lit  : BitVec 32
  sw   : BitVec 8
  sp   : BitVec 8
  sub  : BitVec 8
  res120 : BitVec 8
  deriving DecidableEq, Repr

/-- A record's tail as it stands in the record: its fields and the reserved bits of CTL (R74, R77). -/
structure RawTail where
  tail : Tail
  res  : BitVec 7
  deriving DecidableEq, Repr

/-- A specifier's bits (R67). -/
def Operand.code : Operand → BitVec 8
  | .x i => BitVec.ofNat 8 i.val
  | .v i => BitVec.ofNat 8 (0x20 + i.val)
  | .q i => BitVec.ofNat 8 (0x40 + i.val)
  | .s i => BitVec.ofNat 8 (0x60 + i.val)
  | .acc i => BitVec.ofNat 8 (0x80 + i.val)
  | .plane i => BitVec.ofNat 8 (0x84 + i.val)
  | .g i => BitVec.ofNat 8 (0xA0 + i.val)
  | .n i => BitVec.ofNat 8 (0xC0 + i.val)
  | .b i => BitVec.ofNat 8 (0xC4 + i.val)
  | .srseed => 0xC8
  | .l i => BitVec.ofNat 8 (0xCA + i.val)
  | .k i => BitVec.ofNat 8 (0xD0 + i.val)
  | .ag i => BitVec.ofNat 8 (0xE0 + i.val)

/-- The operand that bits name, when class and index exist (R67). -/
def Operand.ofCode (w : BitVec 8) : Option Operand :=
  let i := w.toNat % 32
  match w.toNat / 32 with
  | 0 => some (.x (Fin.ofNat 32 i))
  | 1 => some (.v (Fin.ofNat 32 i))
  | 2 => if i < 8 then some (.q (Fin.ofNat 8 i)) else none
  | 3 => if i < 8 then some (.s (Fin.ofNat 8 i)) else none
  | 4 => if i < 4 then some (.acc (Fin.ofNat 4 i)) else if i < 6 then some (.plane (Fin.ofNat 2 (i - 4))) else none
  | 5 => if i < 16 then some (.g (Fin.ofNat 16 i)) else none
  | 6 =>
    if i < 4 then some (.n (Fin.ofNat 4 i)) else if i < 8 then some (.b (Fin.ofNat 4 (i - 4)))
    else if i = 8 then some .srseed else if i = 9 then none
    else if i < 16 then some (.l (Fin.ofNat 6 (i - 10))) else some (.k (Fin.ofNat 16 (i - 16)))
  | _ => if i < 3 then some (.ag (Fin.ofNat 3 i)) else none

/-- LSEL as bits (R65). -/
def LitSel.code : LitSel → BitVec 2
  | .none => 0 | .a => 1 | .b => 2 | .c => 3

/-- The selection that bits name. -/
def LitSel.ofCode (w : BitVec 2) : LitSel :=
  match w.toNat with
  | 0 => .none | 1 => .a | 2 => .b | _ => .c

/-- PQ as bits: an enabled mask carries bit 3 (R65, R69). -/
def pqCode : Option (Fin 8) → BitVec 4
  | none => 0
  | some i => BitVec.ofNat 4 (8 + i.val)

/-- The mask that PQ enables. -/
def pqOfCode (w : BitVec 4) : Option (Fin 8) :=
  if 8 ≤ w.toNat then some (Fin.ofNat 8 (w.toNat % 8)) else none

/-- SW or SP as bits: an enabled semaphore carries bit 7 (R65, R70). -/
def semCode : Option (Fin 16) → BitVec 8
  | none => 0
  | some i => BitVec.ofNat 8 (0x80 + i.val)

/-- The semaphore that SW or SP enables. -/
def semOfCode (w : BitVec 8) : Option (Fin 16) :=
  if 0x80 ≤ w.toNat then some (Fin.ofNat 16 (w.toNat % 16)) else none

/-- The bits of an operation's fields. -/
def Op.raw (o : Op) : Raw :=
  { et := BitVec.ofNat 4 o.et.code, mod := o.mod, d := o.d.code, a := o.a.code, b := o.b.code, c := o.c.code
    pq := pqCode o.pq, lsel := o.lsel.code, res62 := 0, lit := o.lit
    sw := semCode o.sw, sp := semCode o.sp, sub := o.sub, res120 := 0 }

/-- The fields that bits name; a specifier that names nothing reads as x0, which the checks never let pass. -/
def Raw.op (r : Raw) : Op :=
  { et := ElemType.ofCode r.et, mod := r.mod
    d := (Operand.ofCode r.d).getD (.x 0), a := (Operand.ofCode r.a).getD (.x 0)
    b := (Operand.ofCode r.b).getD (.x 0), c := (Operand.ofCode r.c).getD (.x 0)
    pq := pqOfCode r.pq, lsel := LitSel.ofCode r.lsel, lit := r.lit
    sw := semOfCode r.sw, sp := semOfCode r.sp, sub := r.sub }

/-! ### Failures -/

/-- A failed check: the bit number reported and the reason (R72). -/
structure Failure where
  bit    : Nat
  reason : Nat
  deriving DecidableEq, Repr

/-- The number of the lowest bit set in w, counting from bit i, within n bits. -/
def lowestBit (w : Nat) (i : Nat) : Nat → Nat
  | 0 => i
  | n + 1 => if w.testBit i then i else lowestBit w (i + 1) n

/-- Reason 2 at the lowest bit set of w, when some bit is set (R66, R72). -/
def reservedAt (base width : Nat) (w : Nat) : Option Failure :=
  if w % 2 ^ width = 0 then none else some ⟨base + lowestBit w 0 width, 2⟩

/-- What a specifier field accepts (R67, R147, R203, R334). -/
inductive Accept where
  /-- Unused: must be zero. -/
  | zero
  /-- A scalar register. -/
  | x
  /-- A scalar register whose index is a multiple of 2 or of 4 (R280). -/
  | x2 | x4
  /-- A scalar register or SRSEED (R118). -/
  | xs
  /-- A vector register; a vector or stream register; a pair; a quad (R145, R147). -/
  | v | vs | v2 | v4
  | q | s | ag | g | n | b | k
  /-- Zero or an address-generator slot; zero or a base register. -/
  | agz | gz
  /-- An accumulator; an accumulator or a plane (R203). -/
  | acc | accPlane
  deriving DecidableEq, Repr

/-- Whether class `cls` is accepted, and then whether index `i` is (R67). -/
def Accept.takes (ac : Accept) (cls i : Nat) : Bool × Bool :=
  match ac with
  | .zero => (false, false)
  | .x => (cls == 0, true)
  | .x2 => (cls == 0, i % 2 == 0)
  | .x4 => (cls == 0, i % 4 == 0)
  | .xs => (cls == 0 || cls == 6, cls == 0 || i == 8)
  | .v => (cls == 1, true)
  | .vs => (cls == 1 || cls == 3, cls == 1 || decide (i < 8))
  | .v2 => (cls == 1, i % 2 == 0)
  | .v4 => (cls == 1, i % 4 == 0)
  | .q => (cls == 2, decide (i < 8))
  | .s => (cls == 3, decide (i < 8))
  | .ag | .agz => (cls == 7, decide (i < 3))
  | .g | .gz => (cls == 5, decide (i < 16))
  | .n => (cls == 6, decide (i < 4))
  | .b => (cls == 6, decide (4 ≤ i) && decide (i < 8))
  | .k => (cls == 6, decide (16 ≤ i))
  | .acc => (cls == 4, decide (i < 4))
  | .accPlane => (cls == 4, decide (i < 6))

/-- Whether a specifier names an address-generator slot (R67). -/
def namesSlot (w : BitVec 8) : Bool := decide (0xE0 ≤ w.toNat) && decide (w.toNat < 0xE3)

/-- Whether a specifier names a loop index (R67). -/
def namesLoop (w : BitVec 8) : Bool := decide (0xCA ≤ w.toNat) && decide (w.toNat < 0xD0)

/-- The check of a specifier field that must be zero: a slot or a loop index there is a class that the field does not
accept (reason 3, R67, R75, R150), anything else a nonzero reserved field (reason 2, R66). -/
def unusedFailure (bit : Nat) (w : BitVec 8) : Option Failure :=
  if namesSlot w || namesLoop w then some ⟨bit, 3⟩ else reservedAt bit 8 w.toNat

/-- The check of one specifier field at bit `bit`: reason 2 or 3 for an unused field, 3 for the class, 4 for the
index; `loop` allows a loop index (R150). -/
def specifierFailure (ac : Accept) (loop : Bool) (bit : Nat) (w : BitVec 8) : Option Failure :=
  let cls := w.toNat / 32
  let i := w.toNat % 32
  if ac = .zero then unusedFailure bit w
  else if (ac = .agz ∨ ac = .gz) ∧ w = 0 then none
  else if loop && cls == 6 && decide (10 ≤ i) && decide (i < 16) then none
  else if !(ac.takes cls i).1 then some ⟨bit, 3⟩
  else if !(ac.takes cls i).2 then some ⟨bit, 4⟩
  else none

/-- What SW and SP may hold. -/
inductive SemUse where
  /-- A wait and a post (R70). -/
  | free
  /-- Zero; a nonzero field is reported at its first bit (R396). -/
  | barred
  /-- Zero as every other field; a nonzero field is reported at its lowest nonzero bit (R139, R404). -/
  | unused
  deriving DecidableEq, Repr

/-- The entry of an operation: everything its word may hold. -/
structure Shape where
  agents : List Agent
  /-- Flag M: accepts masking (R81). -/
  masked : Bool := false
  /-- Flag S: system level only (R81). -/
  system : Bool := false
  ets    : List Nat := [0]
  mods   : List Nat := [0]
  d      : Accept := .zero
  a      : Accept := .zero
  b      : Accept := .zero
  c      : Accept := .zero
  /-- The specifiers that LIT may replace (R68). -/
  lits   : List LitSel := []
  /-- Bits of a literal operand that may be set. -/
  litW   : Nat := 32
  /-- Bits of LIT that the operation itself reads, with LSEL = 0. -/
  own    : Nat := 0
  /-- Whether the operation's literal-capable operands have an integer type, so that a VE record may name a loop
  index there (R150). -/
  loops  : Bool := false
  /-- none: SUB is unused; some ok: SUB is used and its value is or is not accepted. -/
  sub    : Option Bool := none
  sem    : SemUse := .free
  /-- ET and MOD are fields that the operation does not use: nonzero bits are reserved bits (R66, R72), where every
  other entry states the values it accepts (reasons 5 and 6). -/
  bare   : Bool := false
  /-- SPAT and SLEN are used (R189). -/
  stage  : Bool := false

/-- MOD values of the rounding codes R (R147). -/
def modsR : List Nat := [0, 1, 2, 3, 4, 5, 7, 8, 9, 10, 11, 12, 13, 15]
/-- MOD values of code R′ (R147). -/
def modsR' : List Nat := [0, 1, 2, 3, 4, 7, 8, 9, 10, 11, 12, 15]
/-- MOD values of code W (R147). -/
def modsW : List Nat := [0, 8]
/-- ET A: any vector element type (R147). -/
def etsA : List Nat := [0, 1, 2, 3, 4, 5, 6, 7, 8, 9, 10, 11, 12, 13]
/-- ET I (R147). -/
def etsI : List Nat := [0, 1, 3, 4, 7, 8, 11, 12]
/-- ET F (R147). -/
def etsF : List Nat := [9, 10, 13]
/-- ET I and F. -/
def etsIF : List Nat := etsI ++ etsF
/-- The types a scalar memory access accepts (R128). -/
def etsMem : List Nat := [0, 1, 3, 4, 7, 8, 9, 10, 11, 12, 13, 14, 15]

/-- log2 of the element count of a type (R161). -/
def lgLanes (et : BitVec 4) : Nat := 12 - Nat.log2 (ElemType.ofCode et).width

/-- The engines of a record that every sequencer decodes. -/
def engines : List Agent := [.ve, .me, .le, .se]

/-- SUB of a copy-family record (R333). -/
def copySubOk (ag : Agent) (maj fn : Nat) (r : Raw) : Bool :=
  let s := r.sub.toNat
  let vsrc := s.testBit 0
  let land := s.testBit 1
  let cls := s / 4 % 4
  let vidx := s.testBit 5
  let memSide := (maj == 0xA0 && (fn == 1 || fn == 5)) || maj == 0xB0
  decide (s < 64) && cls != 3
    && (ag != .se || (!vsrc && !land))
    && (ag != .le || vsrc || (cls == 0 && !memSide))
    && (!land || r.d.toNat / 32 == 7)
    && (!vidx || (maj == 0xA0 && (fn == 2 || fn == 3)) || (maj == 0xB0 && fn == 1))

/-- The groups of a conversion by the ratio of widths (R169). DEDUCED (log 73): R169 gives a destination of one register
as v/s, where the table of R166 writes v alone; a stream destination is accepted. -/
def cvtGroups (dt st : Nat) : Option (Accept × Accept) :=
  if dt = st then some (.vs, .vs)
  else if dt = 2 * st then some (.v2, .vs)
  else if dt = 4 * st then some (.v4, .vs)
  else if st = 2 * dt then some (.vs, .v2)
  else if st = 4 * dt then some (.vs, .v4)
  else none

/-- The width of the literal of a vector operation, LIT[31:w] being zero (R68). -/
def vlitW (r : Raw) : Nat := min 32 (ElemType.ofCode r.et).width

/-- A scalar O operation with x operands: LIT[15:0] holds the arrival offset (R81). -/
def offTile : Shape := { agents := [.cc], own := 0xFFFF }

/-- A vector operation on elements. -/
def vecOp : Shape := { agents := [.ve], masked := true, d := .vs, a := .vs }

/-- The entry of the pair MAJ, FN for the agent that decodes it; none when the pair is not assigned (R81). -/
def shape (ag : Agent) (maj fn : Nat) (r : Raw) : Option Shape :=
  let isF := (ElemType.ofCode r.et).isFloat
  let sub := r.sub.toNat
  let sub4 := some (decide (sub < 16))
  let lanesOk := some (decide (sub < 16) && decide (sub ≤ lgLanes r.et))
  match maj with
  | 0x01 => if fn ≤ 0x0D then some { agents := [.cc], d := .xs, a := .x, b := .x, lits := [.b] } else none
  | 0x02 => if fn ≤ 6 then some { agents := [.cc], d := .x, a := .x, b := .x, lits := [.b] } else none
  | 0x03 => if fn ≤ 2 then some { agents := [.cc], d := .x, a := .x } else none
  | 0x04 => if fn = 0 then some { agents := [.cc], d := .x, a := .x, b := .x, c := .x, lits := [.a, .b] } else none
  | 0x05 =>
    if fn = 0 then some { agents := [.cc], d := .x, a := .x, b := .x, lits := [.b], sub := some (decide (sub ≤ 9)) }
    else none
  | 0x06 => if fn ≤ 1 then some { agents := [.cc], d := .x, own := 0xFFFFFFFF } else none
  | 0x07 =>
    if fn = 0 then
      some { agents := [.cc], d := .x, a := .x, b := .x, own := 0xFFFFFFFF, sub := some (decide (sub ≤ 6)) }
    else none
  | 0x10 =>
    let f : Shape :=
      { agents := [.cc], ets := [9, 10, 13, 15], mods := modsR, d := .x, a := .x
        litW := if r.et = 9 ∨ r.et = 10 then 16 else 32 }
    match fn with
    | 0 | 1 | 2 | 3 => some { f with b := .x, lits := [.b] }
    | 4 => some f
    | 5 => some { f with b := .x, c := .x, lits := [.b, .c] }
    | 6 | 7 => some { f with b := .x, lits := [.b], mods := [0] }
    | 8 => some { f with b := .x, lits := [.b], mods := [0], sub := some (decide (sub ≤ 5) || sub == 10) }
    | 9 => some { f with ets := [1, 9, 10, 13, 14, 15], sub := some ([1, 9, 10, 13, 14, 15].contains sub) }
    | _ => none
  | 0x20 =>
    if fn = 0 then
      some { agents := [.cc], mods := [0, 1], d := .b, a := if r.mod = 1 then .x else .zero, own := 0xFFFFFFFF }
    else none
  | 0x21 =>
    if fn = 0 then
      some { agents := [.cc], a := .b, b := if sub = 15 then .zero else .x
             sub := some (decide (sub ≤ 5) || sub == 15) }
    else none
  | 0x22 => if fn = 0 then some { agents := [.cc], d := .x, own := 0xFFFFFFFF } else none
  | 0x23 => if fn = 0 then some { agents := [.cc], d := .x, a := .b } else none
  | 0x28 =>
    match fn with
    | 0 => some { agents := [.cc], ets := etsMem, d := .x, a := .x, own := 0xFFFFFFFF }
    | 1 => some { agents := [.cc], ets := etsMem, a := .x, b := .x, own := 0xFFFFFFFF }
    | 2 => some { agents := [.cc], ets := etsMem, d := .x, a := .x, own := 0xFFFFFFFF, sub := sub4 }
    | _ => none
  | 0x30 =>
    match fn with
    | 0 => some { agents := [.cc], a := .x, b := .x, lits := [.b], sub := some (decide (sub ≤ 3)) }
    | 1 => some { agents := [.cc], d := .g, a := .x, lits := [.a] }
    | 2 => some { agents := [.cc], d := .n, a := .x, lits := [.a] }
    | 3 => some { agents := [.cc], a := .x, lits := [.a], sub := some (decide (sub ≤ 5)) }
    | 4 => some { agents := [.cc] }
    | _ => none
  | 0x38 =>
    let sregOk := some ([0, 1, 2, 3, 4, 5, 6, 7, 8, 0x10, 0x11, 0x12, 0x13, 0x14, 0x18].contains sub)
    match fn with
    | 0 => some { agents := [.cc], d := .x, sub := sregOk }
    | 1 => some { agents := [.cc], a := .x, lits := [.a], sub := sregOk }
    | 2 => some { agents := [.cc], own := if sub = 0 then 0 else 0xFFFFFFFF, sub := some (decide (sub ≤ 2)) }
    | 3 => some { agents := [.cc], system := true, bare := true, sem := .unused }
    | 4 =>
      some { agents := [.cc], bare := true, d := .x, own := 0xFFFFFFFF, sub := some (decide (sub < 16) && (sub != 0 || r.lit != 0)) }
    | _ => none
  | 0x40 =>
    let f : Shape := { vecOp with b := .vs, lits := [.b], litW := vlitW r, loops := !isF }
    match fn with
    | 0 | 1 | 2 => some { f with ets := etsIF, mods := if isF then modsR else modsW }
    | 3 => some { f with ets := etsI }
    | 4 | 5 => some { f with ets := etsIF }
    | _ => none
  | 0x41 =>
    if fn ≤ 2 then
      some { vecOp with b := .vs, c := .vs, lits := [.b, .c], litW := vlitW r, ets := etsF, mods := modsR }
    else none
  | 0x42 =>
    match fn with
    | 0 | 1 =>
      some { vecOp with lits := [.a], litW := vlitW r, loops := !isF, ets := etsIF
                        mods := if isF then [0] else modsW }
    | 2 => some { vecOp with ets := etsF, mods := [0, 1, 2, 3, 4, 5, 7] }
    | 3 => some { vecOp with b := .vs, c := .vs, lits := [.b, .c], litW := vlitW r, loops := !isF, ets := etsIF }
    | _ => none
  | 0x44 =>
    if fn = 0 then
      some { vecOp with d := .q, b := .vs, lits := [.b], litW := vlitW r, loops := !isF, ets := etsIF
                        sub := some (decide (sub ≤ 5) || (isF && sub == 10)) }
    else none
  | 0x45 =>
    if fn = 0 then
      some { vecOp with masked := false, b := .vs, c := .q, lits := [.a, .b], litW := vlitW r, loops := !isF
                        ets := etsA }
    else none
  | 0x46 =>
    let f : Shape := { vecOp with b := .vs, litW := vlitW r, loops := !isF, ets := etsA }
    if fn ≤ 3 then some { f with lits := [.b] }
    else if fn = 4 then some { f with c := .vs, lits := [.b, .c], sub := some true }
    else none
  | 0x48 =>
    match fn with
    | 0 | 1 | 2 => some { vecOp with b := .vs, lits := [.b], litW := vlitW r, loops := true, ets := etsI }
    | 3 | 4 => some { vecOp with b := .vs, c := .vs, lits := [.c], litW := vlitW r, loops := true, ets := etsI }
    -- DEDUCED (log 73): the amount of vrot is an unsigned value (R164), so B may be a loop index whatever ET is.
    | 5 => some { vecOp with b := .vs, lits := [.b], litW := vlitW r, loops := true, ets := etsA, sub := lanesOk }
    | _ => none
  | 0x49 =>
    match fn with
    | 0 => some { vecOp with b := .vs, ets := etsA }
    | 1 => some { vecOp with own := 0x3FF, ets := etsA }
    | 2 => some { vecOp with ets := etsA, sub := lanesOk }
    | _ => none
  | 0x4C =>
    match fn with
    | 0 | 1 =>
      some { vecOp with d := .v2, b := .vs, lits := [.b], litW := vlitW r, loops := !isF
                        ets := [0, 1, 3, 4, 5, 6, 7, 8, 9, 10], mods := if isF then modsR else [0] }
    | 2 =>
      some { vecOp with b := .vs, c := .vs, lits := [.b, .c], litW := if r.lsel = 3 then 32 else 8, loops := true
                        ets := [3, 4], mods := modsW }
    | _ => none
  | 0x4D =>
    let w := (ElemType.ofCode r.et).width
    let sw := (ElemType.ofCode (BitVec.ofNat 4 sub)).width
    match fn with
    | 0 =>
      let gr := if sub ≤ 13 then cvtGroups w sw else none
      some { vecOp with d := (gr.getD (.vs, .vs)).1, a := (gr.getD (.vs, .vs)).2, ets := etsA, mods := modsR
                        sub := some gr.isSome }
    | 1 =>
      some { vecOp with d := .v, a := if sub = 13 ∨ r.et = 2 then .v4 else .v2, c := .v, ets := [2, 5], mods := modsR
                        sub := some ((r.et == 5 && [9, 10, 13].contains sub) || (r.et == 2 && [9, 10].contains sub)) }
    | _ => none
  | 0x50 =>
    let op := sub / 16
    let redOk := some (decide (sub < 128) && decide (sub % 16 ≤ lgLanes r.et) && decide (op ≤ if isF then 2 else 5))
    let redMods := if op % 8 = 0 then (if isF then modsR' else modsW) else [0]
    match fn with
    | 0 | 1 => some { vecOp with ets := etsIF, mods := redMods, sub := redOk }
    | 2 => some { vecOp with d := .q, ets := etsIF, own := 0x7FF, sub := lanesOk }
    | _ => none
  | 0x54 =>
    match fn with
    | 0 => some { vecOp with lits := [.a], litW := vlitW r, loops := !isF, ets := etsA }
    | 1 => some { vecOp with a := .ag, ets := etsA }
    | 2 => some { vecOp with d := .zero, a := .ag, b := .vs, lits := [.b], litW := vlitW r, loops := !isF, ets := etsA }
    | 3 => some { vecOp with a := .ag, c := .q, ets := etsA }
    | _ => none
  | 0x58 =>
    match fn with
    | 0 | 1 => some { agents := [.ve], d := .q, a := .q, b := .q }
    | 2 => some { agents := [.ve], d := .q, a := .q }
    | 3 | 4 => some { agents := [.ve], d := .vs, a := .q, ets := etsA }
    | _ => none
  | 0x60 => if fn ≤ 7 then some { vecOp with lits := [.a], litW := vlitW r, ets := etsF } else none
  | 0x80 =>
    let blk := if r.et = 2 ∨ r.et = 5 then [0, 1] else [0]
    match fn with
    | 0 =>
      some { agents := [.me], a := .ag, ets := [2, 3, 5, 6, 9, 10], mods := blk, own := 0xFFFF
             sub := some (!sub.testBit 7 && !sub.testBit 3) }
    | 1 | 7 => some { agents := [.me], d := if fn = 7 then .s else .zero, sub := some (sub == 0) }
    | 2 | 3 =>
      some { agents := [.me], d := .acc, a := .ag, b := .agz, c := if r.mod = 1 then .s else .zero
             ets := [2, 3, 5, 6, 9, 10], mods := if r.et = 3 then [0, 8] else blk
             own := if r.b = 0 then 0xFFFF else 0xFFFFFFFF, sub := some (decide (sub < 8)), stage := true }
    | 4 =>
      some { agents := [.me], d := .s, a := .acc, ets := [9, 10, 11, 13]
             mods := if r.et = 9 ∨ r.et = 10 then modsR else [0], own := 0x7F, sub := some (decide (sub < 2)) }
    | 5 => some { agents := [.me], d := .accPlane, sub := some (sub == 0) }
    | 6 =>
      some { agents := [.me], d := .acc, a := .s, ets := if sub = 0 then [13] else [11, 13]
             mods := if sub = 0 then modsR' else [0], own := if sub = 0 then 0 else 0x7F
             sub := some (decide (sub < 2)) }
    | _ => none
  | 0xA0 =>
    let f : Shape :=
      { agents := [.le, .se], ets := etsA, mods := [0, 1, 2, 3, 4, 5, 6], own := 0xFFFF, d := .ag, a := .ag, c := .g
        sub := some (copySubOk ag maj fn r) }
    let oneSided : Shape := { f with d := if ag = .se then .zero else .ag, a := if ag = .se then .ag else .zero }
    match fn with
    | 0 => some { f with c := .gz }
    | 1 => some oneSided
    | 2 | 3 => some { f with b := .ag }
    | 4 => some { f with ets := [3, 4, 5, 6, 7, 8, 9, 10, 11, 12, 13] }
    | 5 => some { oneSided with mods := [0] }
    | _ => none
  | 0xA8 =>
    let f : Shape :=
      { agents := [.se], ets := etsA, mods := [0, 1, 2, 3, 4, 5, 6], own := 0xFFFF, d := .ag, a := .ag, c := .g
        sub := some (copySubOk ag maj fn r) }
    match fn with
    | 0 => some f
    | 1 => some { f with ets := [9, 11, 13] }
    | _ => none
  | 0xAA =>
    match fn with
    | 0 => some { offTile with d := .x, a := .x, b := .x, sub := some (sub == 2 || sub == 3) }
    | 1 => some { agents := [.le, .se], bare := true }
    | _ => none
  | 0xAC =>
    if fn ≤ 1 then
      some { agents := [.le, .se], ets := etsA, mods := [3], own := 0xFFFF
             d := if ag = .se then .ag else .s, a := if ag = .se then .s else .ag
             c := if fn = 0 then .gz else .g, sub := some (copySubOk ag maj fn r) }
    else none
  | 0xB0 =>
    match fn with
    | 0 =>
      some { agents := [.le, .se], ets := etsA, mods := [0, 1, 2, 3, 4, 5, 6], own := 0xFFFF
             d := if ag = .se then .zero else .ag, a := if ag = .se then .ag else .zero, c := .g
             sub := some (copySubOk ag maj fn r) }
    | 1 => some { agents := [.le], own := 0xFFFF, d := .ag, a := .ag, b := .ag, c := .g
                  sub := some (copySubOk ag maj fn r) }
    | _ => none
  | 0xB4 =>
    match fn with
    | 0 => some { offTile with d := .x, a := .x, b := .x, sub := some (decide (sub ≤ 1)) }
    | 1 => some { offTile with d := .x, a := .x, b := .x, sub := some (decide (sub ≤ 2)) }
    | _ => none
  | 0xB8 =>
    match fn with
    | 0 => some { offTile with d := .x, a := .x, b := .x, c := .x, sub := some (sub == 0) }
    | 1 => some { offTile with d := .x, a := .x, b := .x, sub := some (decide (sub ≤ 1)) }
    | _ => none
  | 0xBC => if fn = 0 then some { offTile with system := true, d := .x, a := .x } else none
  | 0xC0 =>
    let scopeOk := some (decide (sub < 4))
    match fn with
    | 0 => some { offTile with ets := etsMem, d := .x, a := .x, b := .x, sub := some (sub == 0) }
    | 1 => some { offTile with ets := etsMem, a := .x, b := .x, c := .x, sub := some (sub == 0) }
    | 2 => some { offTile with ets := etsMem, d := .x, a := .x, b := .x, sub := scopeOk }
    | 3 => some { offTile with ets := etsMem, a := .x, b := .x, c := .x, sub := scopeOk }
    | _ => none
  | 0xC4 =>
    if fn ≤ 8 then
      some { offTile with d := .x, a := .x, b := .x, ets := [0, 12], own := if sub % 2 = 0 then 0 else 0xFFFF
                          sub := some (atomSub sub) }
    else none
  | 0xC5 =>
    let f : Shape := { offTile with own := if sub % 2 = 0 then 0 else 0xFFFF, sub := some (atomSub sub), a := .x }
    match fn with
    | 0 => some { f with d := .x, b := .x, c := .x, ets := [0, 12] }
    | 1 => some { f with d := .x2, b := .x2, c := .x2 }
    | 2 => some { f with d := .x4, b := .x4, c := .x4 }
    | _ => none
  | 0xC6 =>
    let ok := some (atomSub sub && sub % 2 == 1)
    match fn with
    | 0 => some { offTile with d := .x, a := .x, b := .x, sub := ok, own := if sub % 2 = 0 then 0 else 0xFFFF }
    | 1 => some { offTile with d := .x2, a := .x, sub := ok, own := if sub % 2 = 0 then 0 else 0xFFFF }
    | _ => none
  | 0xC7 =>
    if fn = 0 then
      some { offTile with d := .x2, a := .x, b := .x, c := .x, own := if sub % 2 = 0 then 0 else 0xFFFF
                          sub := some (atomSub sub && sub % 2 == 1 && sub / 4 % 4 < 2) }
    else none
  | 0xC8 =>
    match fn with
    | 0 => some { agents := [.cc], d := .x, a := .x, lits := [.a], sub := some (sub == 0) }
    | 1 => some { agents := [.cc], a := .x, b := .x, c := .x, lits := [.a], sub := some (sub == 0) }
    | 2 =>
      some { agents := [.cc], a := if sub = 1 then .zero else .x, lits := if sub = 1 then [] else [.a]
             sub := some (decide (sub ≤ 2)) }
    | _ => none
  | 0xCA =>
    match fn with
    | 0 => some { offTile with d := .x, a := .x, ets := [9, 13] }
    | 1 => some { offTile with d := .x, a := .x, b := .x }
    | _ => none
  | 0xCF =>
    if fn = 0 then some { offTile with own := if sub % 4 = 0 then 0 else 0xFFFF, sub := some (decide (sub < 4)) }
    else none
  | 0xD0 =>
    if fn = 0 then
      some { agents := [.cc], d := .k, a := if r.mod = 1 then .x else .zero, mods := [0, 1]
             own := if r.mod = 1 then 0 else 0xFFFF, sub := some (sub == 0), sem := .barred }
    else none
  | 0xD1 => if fn ≤ 1 then some { agents := .cc :: engines, a := .k, sub := some (sub != 0), sem := .barred } else none
  | 0xD4 =>
    match fn with
    | 0 => some { offTile with a := .x, b := .x, sub := some (sub == 0) }
    | 1 | 2 => some { offTile with d := .x, a := .x, b := .x, sub := some (sub == 0) }
    | _ => none
  | 0xD8 =>
    match fn with
    | 0 => some { offTile with bare := true, sem := .unused }
    | 1 => some { offTile with bare := true, d := .x, sub := some (decide (sub ≤ 1)) }
    | _ => none
  | 0xDC =>
    match fn with
    | 0 => some { offTile with d := .x, a := .x, b := .x, sub := some (decide (sub ≤ 1)) }
    | 1 => some { offTile with d := .x, a := .x, sub := some (sub == 0) }
    | _ => none
  | 0xDF => if fn ≤ 1 then some { agents := engines, bare := true } else none
  | 0xE0 =>
    match fn with
    | 0 => some { offTile with d := .x, a := .x, sub := some (sub == 0) }
    | 1 => some { offTile with d := .x, a := .x, b := .x, sub := some (decide (sub ≤ 3)) }
    | _ => none
  | 0xE2 =>
    match fn with
    | 0 => some { offTile with d := .x, a := .x, sub := some (decide (sub ≤ 1)) }
    | 1 => some { offTile with system := true, d := .x, a := .x, b := .x, sub := some (sub == 0) }
    | _ => none
  | 0xE4 =>
    let f : Shape := { offTile with system := true, d := .x, a := .x, b := .x }
    match fn with
    | 0 => some { f with sub := some (decide (sub ≤ 2)) }
    | 1 => some { f with c := .x, sub := some (sub == 0) }
    | 2 => some { f with sub := some (decide (sub ≤ 1)) }
    | 3 => some { f with b := if sub = 2 then .x else .zero, sub := some (decide (sub ≤ 3)) }
    | _ => none
  | _ => none
where
  /-- SUB of an atomic operation: no reserved bit, and alone when SPACE = 0 (R280). -/
  atomSub (sub : Nat) : Bool :=
    decide (sub < 64) && !sub.testBit 1 && (sub % 2 == 1 || sub == 0)

/-! ### The checks of R71, order 3 -/

/-- Whether LSEL selects literal-capable field `f`. -/
def Shape.replaces (sh : Shape) (r : Raw) (f : LitSel) : Bool :=
  LitSel.ofCode r.lsel == f && sh.lits.contains f

/-- The check of a source field: zero when LIT replaces it (R68), a specifier otherwise. -/
def sourceFailure (sh : Shape) (ag : Agent) (r : Raw) (f : LitSel) (ac : Accept) (bit : Nat) (w : BitVec 8) :
    Option Failure :=
  if sh.replaces r f then (if namesSlot w then some ⟨bit, 3⟩ else reservedAt bit 8 w.toNat)
  else specifierFailure ac (ag == .ve && sh.loops && sh.lits.contains f) bit w

/-- The check of SW or SP: reserved bits, and the index while not enabled (R65, R66, R396). -/
def semFailure (use : SemUse) (bit : Nat) (w : BitVec 8) : Option Failure :=
  match use with
  | .free => reservedAt bit 8 (if w.toNat < 0x80 then w.toNat else w.toNat &&& 0x70)
  | .barred => if w = 0 then none else some ⟨bit, 2⟩
  | .unused => reservedAt bit 8 w.toNat

/-- The first failure of an operation word's fields, taken in increasing order of their lowest bit (R71). -/
def fieldFailure (sh : Shape) (ag : Agent) (maj fn : Nat) (r : Raw) : Option Failure :=
  let sel := LitSel.ofCode r.lsel
  let litOk := if sel ≠ .none then 2 ^ sh.litW - 1 else sh.own
  (if sh.bare then reservedAt 16 4 r.et.toNat else if sh.ets.contains r.et.toNat then none else some ⟨16, 5⟩)
  <|> (if sh.bare then reservedAt 20 4 r.mod.toNat else if sh.mods.contains r.mod.toNat then none else some ⟨20, 6⟩)
  <|> specifierFailure sh.d false 24 r.d
  <|> sourceFailure sh ag r .a sh.a 32 r.a
  <|> sourceFailure sh ag r .b sh.b 40 r.b
  <|> sourceFailure sh ag r .c sh.c 48 r.c
  <|> (if maj = 0x4D ∧ fn = 1 ∧ r.c = r.d then some ⟨48, 4⟩ else none)
  <|> (if sh.masked && decide (8 ≤ r.pq.toNat) then none else reservedAt 56 4 r.pq.toNat)
  <|> (if sel ≠ .none ∧ !sh.lits.contains sel then some ⟨60, 7⟩ else none)
  <|> reservedAt 62 2 r.res62.toNat
  <|> (if sel ≠ .none ∧ sh.agents = [.cc] ∧ sh.litW = 16 ∧ 65536 ≤ r.lit.toNat then some ⟨80, 2⟩ else none)
  <|> reservedAt 64 32 (r.lit.toNat &&& (0xFFFFFFFF - litOk))
  <|> semFailure sh.sem 96 r.sw
  <|> semFailure sh.sem 104 r.sp
  <|> (match sh.sub with
       | none => reservedAt 112 8 r.sub.toNat
       | some ok => if ok then none else some ⟨112, 8⟩)
  <|> reservedAt 120 8 r.res120.toNat

/-- An address-generator slot as a number, bit 0 lowest (R76). -/
def AgSlot.bits (s : AgSlot) : BitVec 96 :=
  s.str3 ++ s.str2 ++ s.str1 ++ s.str0 ++ s.off ++ BitVec.ofNat 4 s.bsel.val

/-- Reason 9 at the lowest bit of a slot that no specifier names (R75). -/
def slotFailure (used : Bool) (k : Nat) (s : AgSlot) : Option Failure :=
  if used then none
  else if s.bits = 0 then none else some ⟨192 + 96 * k + lowestBit s.bits.toNat 0 96, 9⟩

/-- The check of a level code at bit `bit` (R77): 7 is accepted nowhere (reason 8), and without the semaphore
operation whose level it gives the field is unused (R66). -/
def levelFailure (used : Bool) (bit : Nat) (w : BitVec 3) : Option Failure :=
  if w = 7 then some ⟨bit, 8⟩ else if used then none else reservedAt bit 3 w.toNat

/-- The first failure of a record's tail (R66, R75, R77, R79, R189, R333, R347). -/
def tailFailure (sh : Shape) (ag : Agent) (maj fn : Nat) (r : Raw) (rt : RawTail) : Option Failure :=
  let t := rt.tail
  let names (k : Nat) : Bool :=
    r.d.toNat == 0xE0 + k || r.a.toNat == 0xE0 + k || r.b.toNat == 0xE0 + k || r.c.toNat == 0xE0 + k
  let slots : Option Failure :=
    slotFailure (names 0) 0 t.ag0 <|> slotFailure (names 1) 1 t.ag1 <|> slotFailure (names 2) 2 t.ag2
  let rest : Option Failure :=
    reservedAt 144 16 t.t1.toNat <|> reservedAt 160 16 t.t2.toNat <|> reservedAt 176 16 t.t3.toNat <|> slots
    <|> reservedAt 480 25 (ctlBits t.ctl) <|> reservedAt 505 7 rt.res.toNat
  let lands := ag = .le ∧ (maj = 0xA0 ∨ maj = 0xAC ∨ maj = 0xB0) ∧ r.sub.getLsbD 1
  if maj = 0xDF ∧ fn = 0 then (if t.t0 = 0 then some ⟨128, 9⟩ else none) <|> rest
  else if maj = 0xDF ∨ maj = 0xAA then reservedAt 128 16 t.t0.toNat <|> rest
  else
    (if t.t1 ≠ 0 ∧ t.t0 = 0 then some ⟨144, 9⟩ else none)
    <|> (if t.t2 ≠ 0 ∧ (t.t0 = 0 ∨ t.t1 = 0) then some ⟨160, 9⟩ else none)
    <|> (if t.t3 ≠ 0 ∧ (t.t0 = 0 ∨ t.t1 = 0 ∨ t.t2 = 0) then some ⟨176, 9⟩ else none)
    <|> slots
    <|> (if t.ctl.vcen then none else reservedAt 480 2 t.ctl.vcsel.val)
    <|> (if sh.stage then none else reservedAt 483 8 t.ctl.spat.toNat <|> reservedAt 491 3 t.ctl.slen.toNat)
    <|> (if names 0 || names 1 || names 2 then none else reservedAt 494 1 (if t.ctl.tchk then 1 else 0))
    <|> (if lands then none else reservedAt 495 4 t.ctl.lslot.val)
    <|> levelFailure (semOfCode r.sw).isSome 499 t.ctl.wlvl
    <|> levelFailure (semOfCode r.sp).isSome 502 t.ctl.plvl
    <|> reservedAt 505 7 rt.res.toNat
where
  /-- CTL as a number without its reserved bits. -/
  ctlBits (c : Ctl) : Nat :=
    (c.plvl ++ c.wlvl ++ BitVec.ofNat 4 c.lslot.val ++ BitVec.ofBool c.tchk ++ c.slen ++ c.spat ++ BitVec.ofBool c.vcen
      ++ BitVec.ofNat 2 c.vcsel.val).toNat

/-- The outcome of the checks of a word that agent `ag` decodes, in the order of R71: the pair, the agent, the
fields, the tail. Loop nesting (reason 11) is a rule of the segment and is made by the sequencer; no accepted word
has an innermost iteration above 256 cycles, so reason 10 never arises (R78). -/
def wordFailure (ag : Agent) (maj fn : Nat) (r : Raw) (rt : Option RawTail) : Option Failure :=
  match shape ag maj fn r with
  | none => some ⟨0, 1⟩
  | some sh =>
    if !sh.agents.contains ag then some ⟨0, 12⟩
    else
      fieldFailure sh ag maj fn r
      <|> (match rt with
           | none => none
           | some rt => tailFailure sh ag maj fn r rt)

/-! ### Instructions as words -/

/-- What an operation constructor stands for: its pair, its fields and, in a record, its tail. -/
structure Coded where
  maj  : Nat
  fn   : Nat
  op   : Op
  tail : Option Tail
  deriving DecidableEq, Repr

/-- The pair and fields of an operation; none for a step that no word encodes (R81). -/
def Instr.coded : Instr → Option Coded
  | .add o => some ⟨0x01, 0, o, none⟩
  | .sub o => some ⟨0x01, 1, o, none⟩
  | .and o => some ⟨0x01, 2, o, none⟩
  | .or o => some ⟨0x01, 3, o, none⟩
  | .xor o => some ⟨0x01, 4, o, none⟩
  | .andn o => some ⟨0x01, 5, o, none⟩
  | .sll o => some ⟨0x01, 6, o, none⟩
  | .srl o => some ⟨0x01, 7, o, none⟩
  | .sra o => some ⟨0x01, 8, o, none⟩
  | .rotl o => some ⟨0x01, 9, o, none⟩
  | .min o => some ⟨0x01, 10, o, none⟩
  | .max o => some ⟨0x01, 11, o, none⟩
  | .minn o => some ⟨0x01, 12, o, none⟩
  | .maxn o => some ⟨0x01, 13, o, none⟩
  | .mul o => some ⟨0x02, 0, o, none⟩
  | .mulh o => some ⟨0x02, 1, o, none⟩
  | .mulhn o => some ⟨0x02, 2, o, none⟩
  | .div o => some ⟨0x02, 3, o, none⟩
  | .divn o => some ⟨0x02, 4, o, none⟩
  | .rem o => some ⟨0x02, 5, o, none⟩
  | .remn o => some ⟨0x02, 6, o, none⟩
  | .clz o => some ⟨0x03, 0, o, none⟩
  | .ctz o => some ⟨0x03, 1, o, none⟩
  | .popc o => some ⟨0x03, 2, o, none⟩
  | .sel o => some ⟨0x04, 0, o, none⟩
  | .cmp o => some ⟨0x05, 0, o, none⟩
  | .li o => some ⟨0x06, 0, o, none⟩
  | .lih o => some ⟨0x06, 1, o, none⟩
  | .lea o => some ⟨0x07, 0, o, none⟩
  | .fadd o => some ⟨0x10, 0, o, none⟩
  | .fsub o => some ⟨0x10, 1, o, none⟩
  | .fmul o => some ⟨0x10, 2, o, none⟩
  | .fdiv o => some ⟨0x10, 3, o, none⟩
  | .fsqrt o => some ⟨0x10, 4, o, none⟩
  | .ffma o => some ⟨0x10, 5, o, none⟩
  | .fmin o => some ⟨0x10, 6, o, none⟩
  | .fmax o => some ⟨0x10, 7, o, none⟩
  | .fcmp o => some ⟨0x10, 8, o, none⟩
  | .fcvt o => some ⟨0x10, 9, o, none⟩
  | .pbr o => some ⟨0x20, 0, o, none⟩
  | .pbrReg o => some ⟨0x20, 0, o, none⟩
  | .bcc o => some ⟨0x21, 0, o, none⟩
  | .jal o => some ⟨0x22, 0, o, none⟩
  | .jalr o => some ⟨0x23, 0, o, none⟩
  | .ld o => some ⟨0x28, 0, o, none⟩
  | .st o => some ⟨0x28, 1, o, none⟩
  | .ldl o => some ⟨0x28, 2, o, none⟩
  | .enq o => some ⟨0x30, 0, o, none⟩
  | .wrg o => some ⟨0x30, 1, o, none⟩
  | .wrn o => some ⟨0x30, 2, o, none⟩
  | .nst o => some ⟨0x30, 3, o, none⟩
  | .mgo o => some ⟨0x30, 4, o, none⟩
  | .rdsr o => some ⟨0x38, 0, o, none⟩
  | .wrsr o => some ⟨0x38, 1, o, none⟩
  | .trapEnd o => some ⟨0x38, 2, o, none⟩
  | .trapSys o => some ⟨0x38, 2, o, none⟩
  | .trapBrk o => some ⟨0x38, 2, o, none⟩
  | .eret o => some ⟨0x38, 3, o, none⟩
  | .wfe o => some ⟨0x38, 4, o, none⟩
  | .vadd o t => some ⟨0x40, 0, o, some t⟩
  | .vsub o t => some ⟨0x40, 1, o, some t⟩
  | .vmul o t => some ⟨0x40, 2, o, some t⟩
  | .vmulh o t => some ⟨0x40, 3, o, some t⟩
  | .vmin o t => some ⟨0x40, 4, o, some t⟩
  | .vmax o t => some ⟨0x40, 5, o, some t⟩
  | .vfma o t => some ⟨0x41, 0, o, some t⟩
  | .vfms o t => some ⟨0x41, 1, o, some t⟩
  | .vfnma o t => some ⟨0x41, 2, o, some t⟩
  | .vabs o t => some ⟨0x42, 0, o, some t⟩
  | .vneg o t => some ⟨0x42, 1, o, some t⟩
  | .vround o t => some ⟨0x42, 2, o, some t⟩
  | .vclamp o t => some ⟨0x42, 3, o, some t⟩
  | .vcmp o t => some ⟨0x44, 0, o, some t⟩
  | .vsel o t => some ⟨0x45, 0, o, some t⟩
  | .vand o t => some ⟨0x46, 0, o, some t⟩
  | .vor o t => some ⟨0x46, 1, o, some t⟩
  | .vxor o t => some ⟨0x46, 2, o, some t⟩
  | .vandn o t => some ⟨0x46, 3, o, some t⟩
  | .vlop3 o t => some ⟨0x46, 4, o, some t⟩
  | .vshl o t => some ⟨0x48, 0, o, some t⟩
  | .vshr o t => some ⟨0x48, 1, o, some t⟩
  | .vsra o t => some ⟨0x48, 2, o, some t⟩
  | .vfsl o t => some ⟨0x48, 3, o, some t⟩
  | .vfsr o t => some ⟨0x48, 4, o, some t⟩
  | .vrot o t => some ⟨0x48, 5, o, some t⟩
  | .vperm o t => some ⟨0x49, 0, o, some t⟩
  | .vsplat o t => some ⟨0x49, 1, o, some t⟩
  | .vbcast o t => some ⟨0x49, 2, o, some t⟩
  | .vwmul o t => some ⟨0x4c, 0, o, some t⟩
  | .vwadd o t => some ⟨0x4c, 1, o, some t⟩
  | .vdot4 o t => some ⟨0x4c, 2, o, some t⟩
  | .vcvt o t => some ⟨0x4d, 0, o, some t⟩
  | .vpack o t => some ⟨0x4d, 1, o, some t⟩
  | .vred o t => some ⟨0x50, 0, o, some t⟩
  | .vscan o t => some ⟨0x50, 1, o, some t⟩
  | .vtopk o t => some ⟨0x50, 2, o, some t⟩
  | .qand o t => some ⟨0x58, 0, o, some t⟩
  | .qor o t => some ⟨0x58, 1, o, some t⟩
  | .qnot o t => some ⟨0x58, 2, o, some t⟩
  | .qpop o t => some ⟨0x58, 3, o, some t⟩
  | .qfirst o t => some ⟨0x58, 4, o, some t⟩
  | .vmov o t => some ⟨0x54, 0, o, some t⟩
  | .vld o t => some ⟨0x54, 1, o, some t⟩
  | .vst o t => some ⟨0x54, 2, o, some t⟩
  | .vldt o t => some ⟨0x54, 3, o, some t⟩
  | .vexp2 o t => some ⟨0x60, 0, o, some t⟩
  | .vlog2 o t => some ⟨0x60, 1, o, some t⟩
  | .vrcp o t => some ⟨0x60, 2, o, some t⟩
  | .vrsqrt o t => some ⟨0x60, 3, o, some t⟩
  | .vsin o t => some ⟨0x60, 4, o, some t⟩
  | .vcos o t => some ⟨0x60, 5, o, some t⟩
  | .vtanh o t => some ⟨0x60, 6, o, some t⟩
  | .vsigm o t => some ⟨0x60, 7, o, some t⟩
  | .mldw o t => some ⟨0x80, 0, o, some t⟩
  | .mflip o t => some ⟨0x80, 1, o, some t⟩
  | .mstep o t => some ⟨0x80, 2, o, some t⟩
  | .mstepz o t => some ⟨0x80, 3, o, some t⟩
  | .mrd o t => some ⟨0x80, 4, o, some t⟩
  | .mclr o t => some ⟨0x80, 5, o, some t⟩
  | .mscMul o t => some ⟨0x80, 6, o, some t⟩
  | .mscLd o t => some ⟨0x80, 6, o, some t⟩
  | .mstat o t => some ⟨0x80, 7, o, some t⟩
  | .cpy o t => some ⟨0xa0, 0, o, some t⟩
  | .cpyt o t => some ⟨0xa0, 1, o, some t⟩
  | .cpyg o t => some ⟨0xa0, 2, o, some t⟩
  | .cpys o t => some ⟨0xa0, 3, o, some t⟩
  | .cpyx o t => some ⟨0xa0, 4, o, some t⟩
  | .cpyw o t => some ⟨0xa0, 5, o, some t⟩
  | .putsig o t => some ⟨0xa8, 0, o, some t⟩
  | .cred o t => some ⟨0xa8, 1, o, some t⟩
  | .csched o => some ⟨0xaa, 0, o, none⟩
  | .cstep o t => some ⟨0xaa, 1, o, some t⟩
  | .strm o t => some ⟨0xac, 0, o, some t⟩
  | .strmq o t => some ⟨0xac, 1, o, some t⟩
  | .halo o t => some ⟨0xb0, 0, o, some t⟩
  | .kgath o t => some ⟨0xb0, 1, o, some t⟩
  | .fcolLoad o => some ⟨0xb4, 0, o, none⟩
  | .fcolRun o => some ⟨0xb4, 0, o, none⟩
  | .ftrigArm o => some ⟨0xb4, 1, o, none⟩
  | .ftrigDisarm o => some ⟨0xb4, 1, o, none⟩
  | .ftrigQuery o => some ⟨0xb4, 1, o, none⟩
  | .rshd o => some ⟨0xb8, 0, o, none⟩
  | .rshqTotal o => some ⟨0xb8, 1, o, none⟩
  | .rshqPairs o => some ⟨0xb8, 1, o, none⟩
  | .kill o => some ⟨0xbc, 0, o, none⟩
  | .ldg o => some ⟨0xc0, 0, o, none⟩
  | .stg o => some ⟨0xc0, 1, o, none⟩
  | .ldacq o => some ⟨0xc0, 2, o, none⟩
  | .strel o => some ⟨0xc0, 3, o, none⟩
  | .atomAdd o => some ⟨0xc4, 0, o, none⟩
  | .atomMin o => some ⟨0xc4, 1, o, none⟩
  | .atomMax o => some ⟨0xc4, 2, o, none⟩
  | .atomMinn o => some ⟨0xc4, 3, o, none⟩
  | .atomMaxn o => some ⟨0xc4, 4, o, none⟩
  | .atomAnd o => some ⟨0xc4, 5, o, none⟩
  | .atomOr o => some ⟨0xc4, 6, o, none⟩
  | .atomXor o => some ⟨0xc4, 7, o, none⟩
  | .atomSwap o => some ⟨0xc4, 8, o, none⟩
  | .cas o => some ⟨0xc5, 0, o, none⟩
  | .cas2 o => some ⟨0xc5, 1, o, none⟩
  | .cas4 o => some ⟨0xc5, 2, o, none⟩
  | .lenq o => some ⟨0xc6, 0, o, none⟩
  | .ldeq o => some ⟨0xc6, 1, o, none⟩
  | .nchase o => some ⟨0xc7, 0, o, none⟩
  | .tlk o => some ⟨0xc8, 0, o, none⟩
  | .tins o => some ⟨0xc8, 1, o, none⟩
  | .tinvOne o => some ⟨0xc8, 2, o, none⟩
  | .tinvAll o => some ⟨0xc8, 2, o, none⟩
  | .tinvTag o => some ⟨0xc8, 2, o, none⟩
  | .ksel o => some ⟨0xca, 0, o, none⟩
  | .kcrust o => some ⟨0xca, 1, o, none⟩
  | .fence o => some ⟨0xcf, 0, o, none⟩
  | .kset o => some ⟨0xd0, 0, o, none⟩
  | .ksetReg o => some ⟨0xd0, 0, o, none⟩
  | .kwait o t => some ⟨0xd1, 0, o, t⟩
  | .kpost o t => some ⟨0xd1, 1, o, t⟩
  | .barinit o => some ⟨0xd4, 0, o, none⟩
  | .barexp o => some ⟨0xd4, 1, o, none⟩
  | .barwait o => some ⟨0xd4, 2, o, none⟩
  | .ssync o => some ⟨0xd8, 0, o, none⟩
  | .sstatBar o => some ⟨0xd8, 1, o, none⟩
  | .sstatStg o => some ⟨0xd8, 1, o, none⟩
  | .tcaddAdd o => some ⟨0xdc, 0, o, none⟩
  | .tcaddSet o => some ⟨0xdc, 0, o, none⟩
  | .tcrd o => some ⟨0xdc, 1, o, none⟩
  | .loop o t => some ⟨0xdf, 0, o, some t⟩
  | .endloop o t => some ⟨0xdf, 1, o, some t⟩
  | .lyc o => some ⟨0xe0, 0, o, none⟩
  | .lyqBox o => some ⟨0xe0, 1, o, none⟩
  | .lyqShard o => some ⟨0xe0, 1, o, none⟩
  | .lyqNup o => some ⟨0xe0, 1, o, none⟩
  | .lyqNdn o => some ⟨0xe0, 1, o, none⟩
  | .tsldSlots o => some ⟨0xe2, 0, o, none⟩
  | .tsldRed o => some ⟨0xe2, 0, o, none⟩
  | .rtld o => some ⟨0xe2, 1, o, none⟩
  | .tlbinvPage o => some ⟨0xe4, 0, o, none⟩
  | .tlbinvAsid o => some ⟨0xe4, 0, o, none⟩
  | .tlbinvAll o => some ⟨0xe4, 0, o, none⟩
  | .atw o => some ⟨0xe4, 1, o, none⟩
  | .ditwFill o => some ⟨0xe4, 2, o, none⟩
  | .ditwLoad o => some ⟨0xe4, 2, o, none⟩
  | .ctxswOut o => some ⟨0xe4, 3, o, none⟩
  | .ctxswIn o => some ⟨0xe4, 3, o, none⟩
  | .ctxswXchg o => some ⟨0xe4, 3, o, none⟩
  | .ctxswSpill o => some ⟨0xe4, 3, o, none⟩
  | .resultWriteback => none
  | .stallResume _ => none
  | .responseLand _ => none
  | .dueCycle => none
  | .commPhaseEnd => none
  | .semaphoreCeilingTrap => none
  | .stopCut => none
  | .latchReinject => none
  | .preemptAccept => none
  | .interruptAccept => none
  | .dieLossDeclare _ => none
  | .budgetOverrun => none
  | .wfeTimeout => none
  | .wfeWake => none
  | .icacheFill _ _ _ => none
  | .pageWalk _ => none
  | .submitGraph _ _ _ => none
  | .doorbellSubmit _ _ _ => none
  | .graphTake _ _ => none
  | .recordForward _ _ _ => none
  | .gangStart _ _ => none
  | .preload _ _ => none
  | .taskStart _ _ => none
  | .taskComplete _ _ => none
  | .remoteAccess _ => none
  | .remoteAtomic _ => none
  | .ingressRequest _ => none
  | .homeAccess _ _ => none
  | .nearMemoryOp _ => none
  | .crustWiden _ => none
  | .barrierAdd _ => none
  | .contributionArrival _ => none
  | .ssyncArrival _ => none
  | .startSignal _ _ => none
  | .ssnumUpdate _ _ => none
  | .triggerCounterChange _ => none
  | .chunkArrival _ _ _ => none
  | .thresherRowSend _ => none
  | .thresherRowAck _ => none
  | .thresherStop _ => none
  | .segmentSweep _ => none
  | .hostPageResolved _ _ => none
  | .hostAccess _ => none
  | .swapInTile _ _ => none
  | .swapComplete _ => none
  | .killComplete _ => none
  | .tlbinvComplete _ => none
  | .routerForward _ => none
  | .linkPacketReceive _ _ _ => none
  | .linkAck _ _ _ => none
  | .linkReplay _ _ => none
  | .linkTraining _ _ _ => none
  | .linkNone _ _ _ => none
  | .linkPause _ _ _ => none
  | .linkResume _ _ _ => none
  | .linkRemap _ _ _ => none
  | .linkRetrain _ _ _ => none
  | .linkDegrade _ _ _ => none
  | .linkRestore _ _ _ => none
  | .linkCommandComplete _ _ _ => none
  | .contextEntryWrite _ _ _ _ => none
  | .partitionWrite _ _ _ => none
  | .gqstatWrite _ _ _ => none
  | .irqcmd _ _ => none
  | .precmdStop _ _ => none
  | .precmdResume _ _ => none
  | .taskResume _ _ => none
  | .taskRerun _ _ => none
  | .sliceWriteback _ _ => none
  | .writebackComplete _ => none
  | .atmodeWrite _ _ => none
  | .accessTableWrite _ _ _ _ _ => none
  | .routeTableWrite _ _ _ => none
  | .ditWrite _ _ _ _ => none
  | .thresholdWrite _ _ _ => none
  | .dieRegisterWrite _ _ _ => none
  | .dieReset _ => none
  | .powerGood => none
  | .packageColdReset => none
  | .firmwareImageLoad _ => none
  | .attestationRequest _ => none
  | .powerInterval _ => none
  | .dstateWrite _ _ => none
  | .modulePowerOff => none
  | .lctlUnassignedCommand _ _ _ => none
  | .tccmdOtherOp _ _ => none

/-- The operation of an assigned pair with its fields; rows that share a pair are told apart by MOD or SUB. -/
def Instr.build (maj fn : Nat) (o : Op) (t : Option Tail) : Option Instr :=
  match maj, fn with
  | 0x01, 0 => some (.add o)
  | 0x01, 1 => some (.sub o)
  | 0x01, 2 => some (.and o)
  | 0x01, 3 => some (.or o)
  | 0x01, 4 => some (.xor o)
  | 0x01, 5 => some (.andn o)
  | 0x01, 6 => some (.sll o)
  | 0x01, 7 => some (.srl o)
  | 0x01, 8 => some (.sra o)
  | 0x01, 9 => some (.rotl o)
  | 0x01, 10 => some (.min o)
  | 0x01, 11 => some (.max o)
  | 0x01, 12 => some (.minn o)
  | 0x01, 13 => some (.maxn o)
  | 0x02, 0 => some (.mul o)
  | 0x02, 1 => some (.mulh o)
  | 0x02, 2 => some (.mulhn o)
  | 0x02, 3 => some (.div o)
  | 0x02, 4 => some (.divn o)
  | 0x02, 5 => some (.rem o)
  | 0x02, 6 => some (.remn o)
  | 0x03, 0 => some (.clz o)
  | 0x03, 1 => some (.ctz o)
  | 0x03, 2 => some (.popc o)
  | 0x04, 0 => some (.sel o)
  | 0x05, 0 => some (.cmp o)
  | 0x06, 0 => some (.li o)
  | 0x06, 1 => some (.lih o)
  | 0x07, 0 => some (.lea o)
  | 0x10, 0 => some (.fadd o)
  | 0x10, 1 => some (.fsub o)
  | 0x10, 2 => some (.fmul o)
  | 0x10, 3 => some (.fdiv o)
  | 0x10, 4 => some (.fsqrt o)
  | 0x10, 5 => some (.ffma o)
  | 0x10, 6 => some (.fmin o)
  | 0x10, 7 => some (.fmax o)
  | 0x10, 8 => some (.fcmp o)
  | 0x10, 9 => some (.fcvt o)
  | 0x20, 0 =>
    match o.mod.toNat with
    | 0 => some (.pbr o)
    | _ => some (.pbrReg o)
  | 0x21, 0 => some (.bcc o)
  | 0x22, 0 => some (.jal o)
  | 0x23, 0 => some (.jalr o)
  | 0x28, 0 => some (.ld o)
  | 0x28, 1 => some (.st o)
  | 0x28, 2 => some (.ldl o)
  | 0x30, 0 => some (.enq o)
  | 0x30, 1 => some (.wrg o)
  | 0x30, 2 => some (.wrn o)
  | 0x30, 3 => some (.nst o)
  | 0x30, 4 => some (.mgo o)
  | 0x38, 0 => some (.rdsr o)
  | 0x38, 1 => some (.wrsr o)
  | 0x38, 2 =>
    match o.sub.toNat with
    | 0 => some (.trapEnd o)
    | 1 => some (.trapSys o)
    | _ => some (.trapBrk o)
  | 0x38, 3 => some (.eret o)
  | 0x38, 4 => some (.wfe o)
  | 0x40, 0 => some (.vadd o (t.getD {}))
  | 0x40, 1 => some (.vsub o (t.getD {}))
  | 0x40, 2 => some (.vmul o (t.getD {}))
  | 0x40, 3 => some (.vmulh o (t.getD {}))
  | 0x40, 4 => some (.vmin o (t.getD {}))
  | 0x40, 5 => some (.vmax o (t.getD {}))
  | 0x41, 0 => some (.vfma o (t.getD {}))
  | 0x41, 1 => some (.vfms o (t.getD {}))
  | 0x41, 2 => some (.vfnma o (t.getD {}))
  | 0x42, 0 => some (.vabs o (t.getD {}))
  | 0x42, 1 => some (.vneg o (t.getD {}))
  | 0x42, 2 => some (.vround o (t.getD {}))
  | 0x42, 3 => some (.vclamp o (t.getD {}))
  | 0x44, 0 => some (.vcmp o (t.getD {}))
  | 0x45, 0 => some (.vsel o (t.getD {}))
  | 0x46, 0 => some (.vand o (t.getD {}))
  | 0x46, 1 => some (.vor o (t.getD {}))
  | 0x46, 2 => some (.vxor o (t.getD {}))
  | 0x46, 3 => some (.vandn o (t.getD {}))
  | 0x46, 4 => some (.vlop3 o (t.getD {}))
  | 0x48, 0 => some (.vshl o (t.getD {}))
  | 0x48, 1 => some (.vshr o (t.getD {}))
  | 0x48, 2 => some (.vsra o (t.getD {}))
  | 0x48, 3 => some (.vfsl o (t.getD {}))
  | 0x48, 4 => some (.vfsr o (t.getD {}))
  | 0x48, 5 => some (.vrot o (t.getD {}))
  | 0x49, 0 => some (.vperm o (t.getD {}))
  | 0x49, 1 => some (.vsplat o (t.getD {}))
  | 0x49, 2 => some (.vbcast o (t.getD {}))
  | 0x4c, 0 => some (.vwmul o (t.getD {}))
  | 0x4c, 1 => some (.vwadd o (t.getD {}))
  | 0x4c, 2 => some (.vdot4 o (t.getD {}))
  | 0x4d, 0 => some (.vcvt o (t.getD {}))
  | 0x4d, 1 => some (.vpack o (t.getD {}))
  | 0x50, 0 => some (.vred o (t.getD {}))
  | 0x50, 1 => some (.vscan o (t.getD {}))
  | 0x50, 2 => some (.vtopk o (t.getD {}))
  | 0x54, 0 => some (.vmov o (t.getD {}))
  | 0x54, 1 => some (.vld o (t.getD {}))
  | 0x54, 2 => some (.vst o (t.getD {}))
  | 0x54, 3 => some (.vldt o (t.getD {}))
  | 0x58, 0 => some (.qand o (t.getD {}))
  | 0x58, 1 => some (.qor o (t.getD {}))
  | 0x58, 2 => some (.qnot o (t.getD {}))
  | 0x58, 3 => some (.qpop o (t.getD {}))
  | 0x58, 4 => some (.qfirst o (t.getD {}))
  | 0x60, 0 => some (.vexp2 o (t.getD {}))
  | 0x60, 1 => some (.vlog2 o (t.getD {}))
  | 0x60, 2 => some (.vrcp o (t.getD {}))
  | 0x60, 3 => some (.vrsqrt o (t.getD {}))
  | 0x60, 4 => some (.vsin o (t.getD {}))
  | 0x60, 5 => some (.vcos o (t.getD {}))
  | 0x60, 6 => some (.vtanh o (t.getD {}))
  | 0x60, 7 => some (.vsigm o (t.getD {}))
  | 0x80, 0 => some (.mldw o (t.getD {}))
  | 0x80, 1 => some (.mflip o (t.getD {}))
  | 0x80, 2 => some (.mstep o (t.getD {}))
  | 0x80, 3 => some (.mstepz o (t.getD {}))
  | 0x80, 4 => some (.mrd o (t.getD {}))
  | 0x80, 5 => some (.mclr o (t.getD {}))
  | 0x80, 6 =>
    match o.sub.toNat with
    | 0 => some (.mscMul o (t.getD {}))
    | _ => some (.mscLd o (t.getD {}))
  | 0x80, 7 => some (.mstat o (t.getD {}))
  | 0xa0, 0 => some (.cpy o (t.getD {}))
  | 0xa0, 1 => some (.cpyt o (t.getD {}))
  | 0xa0, 2 => some (.cpyg o (t.getD {}))
  | 0xa0, 3 => some (.cpys o (t.getD {}))
  | 0xa0, 4 => some (.cpyx o (t.getD {}))
  | 0xa0, 5 => some (.cpyw o (t.getD {}))
  | 0xa8, 0 => some (.putsig o (t.getD {}))
  | 0xa8, 1 => some (.cred o (t.getD {}))
  | 0xaa, 0 => some (.csched o)
  | 0xaa, 1 => some (.cstep o (t.getD {}))
  | 0xac, 0 => some (.strm o (t.getD {}))
  | 0xac, 1 => some (.strmq o (t.getD {}))
  | 0xb0, 0 => some (.halo o (t.getD {}))
  | 0xb0, 1 => some (.kgath o (t.getD {}))
  | 0xb4, 0 =>
    match o.sub.toNat with
    | 0 => some (.fcolLoad o)
    | _ => some (.fcolRun o)
  | 0xb4, 1 =>
    match o.sub.toNat with
    | 0 => some (.ftrigArm o)
    | 1 => some (.ftrigDisarm o)
    | _ => some (.ftrigQuery o)
  | 0xb8, 0 => some (.rshd o)
  | 0xb8, 1 =>
    match o.sub.toNat with
    | 0 => some (.rshqTotal o)
    | _ => some (.rshqPairs o)
  | 0xbc, 0 => some (.kill o)
  | 0xc0, 0 => some (.ldg o)
  | 0xc0, 1 => some (.stg o)
  | 0xc0, 2 => some (.ldacq o)
  | 0xc0, 3 => some (.strel o)
  | 0xc4, 0 => some (.atomAdd o)
  | 0xc4, 1 => some (.atomMin o)
  | 0xc4, 2 => some (.atomMax o)
  | 0xc4, 3 => some (.atomMinn o)
  | 0xc4, 4 => some (.atomMaxn o)
  | 0xc4, 5 => some (.atomAnd o)
  | 0xc4, 6 => some (.atomOr o)
  | 0xc4, 7 => some (.atomXor o)
  | 0xc4, 8 => some (.atomSwap o)
  | 0xc5, 0 => some (.cas o)
  | 0xc5, 1 => some (.cas2 o)
  | 0xc5, 2 => some (.cas4 o)
  | 0xc6, 0 => some (.lenq o)
  | 0xc6, 1 => some (.ldeq o)
  | 0xc7, 0 => some (.nchase o)
  | 0xc8, 0 => some (.tlk o)
  | 0xc8, 1 => some (.tins o)
  | 0xc8, 2 =>
    match o.sub.toNat with
    | 0 => some (.tinvOne o)
    | 1 => some (.tinvAll o)
    | _ => some (.tinvTag o)
  | 0xca, 0 => some (.ksel o)
  | 0xca, 1 => some (.kcrust o)
  | 0xcf, 0 => some (.fence o)
  | 0xd0, 0 =>
    match o.mod.toNat with
    | 0 => some (.kset o)
    | _ => some (.ksetReg o)
  | 0xd1, 0 => some (.kwait o t)
  | 0xd1, 1 => some (.kpost o t)
  | 0xd4, 0 => some (.barinit o)
  | 0xd4, 1 => some (.barexp o)
  | 0xd4, 2 => some (.barwait o)
  | 0xd8, 0 => some (.ssync o)
  | 0xd8, 1 =>
    match o.sub.toNat with
    | 0 => some (.sstatBar o)
    | _ => some (.sstatStg o)
  | 0xdc, 0 =>
    match o.sub.toNat with
    | 0 => some (.tcaddAdd o)
    | _ => some (.tcaddSet o)
  | 0xdc, 1 => some (.tcrd o)
  | 0xdf, 0 => some (.loop o (t.getD {}))
  | 0xdf, 1 => some (.endloop o (t.getD {}))
  | 0xe0, 0 => some (.lyc o)
  | 0xe0, 1 =>
    match o.sub.toNat with
    | 0 => some (.lyqBox o)
    | 1 => some (.lyqShard o)
    | 2 => some (.lyqNup o)
    | _ => some (.lyqNdn o)
  | 0xe2, 0 =>
    match o.sub.toNat with
    | 0 => some (.tsldSlots o)
    | _ => some (.tsldRed o)
  | 0xe2, 1 => some (.rtld o)
  | 0xe4, 0 =>
    match o.sub.toNat with
    | 0 => some (.tlbinvPage o)
    | 1 => some (.tlbinvAsid o)
    | _ => some (.tlbinvAll o)
  | 0xe4, 1 => some (.atw o)
  | 0xe4, 2 =>
    match o.sub.toNat with
    | 0 => some (.ditwFill o)
    | _ => some (.ditwLoad o)
  | 0xe4, 3 =>
    match o.sub.toNat with
    | 0 => some (.ctxswOut o)
    | 1 => some (.ctxswIn o)
    | 2 => some (.ctxswXchg o)
    | _ => some (.ctxswSpill o)
  | _, _ => none

end Sys2Proof
end

