-- ==== Sys2Proof/WellFormed.lean ====
section
/-!
DEFINITION. Which instructions are well formed: those whose word passes every check of decoding (R71) for the agent
that is to decode it, and names the instruction's own row.
-/
namespace Sys2Proof

/-- Whether agent `ag` decodes the operation's word without a trap, and the word names this very row: every field
passes the checks of R71, a record's agent is a sequencer and a word without a tail is the control core's. A step
that no word encodes is not well formed for any agent. -/
def Instr.wellFormedFor (ag : Agent) (i : Instr) : Bool :=
  match i.coded with
  | none => false
  | some c =>
    decide (c.tail.isSome = (ag != .cc))
    && decide (Instr.build c.maj c.fn c.op c.tail = some i)
    && (wordFailure ag c.maj c.fn c.op.raw (c.tail.map fun t => ⟨t, 0⟩)).isNone

/-- Well formed for some agent. -/
def Instr.wellFormed (i : Instr) : Bool :=
  [Agent.cc, .ve, .me, .le, .se].any fun ag => i.wellFormedFor ag

end Sys2Proof
end

