-- ==== Sys2Proof/Decode.lean ====
section
/-!
DEFINITION. The decoder and the encoder of operation words and records (R65, R71, R74). The decoder is total on any
bits: it answers the instruction, or the failure that the illegal-encoding trap reports (R72). The encoder writes the
words of a well-formed instruction from the same tables.
-/
namespace Sys2Proof

/-- MAJ of a word (R65). -/
def wordMaj (w : BitVec 128) : Nat := (w.extractLsb' 0 8).toNat

/-- FN of a word (R65). -/
def wordFn (w : BitVec 128) : Nat := (w.extractLsb' 8 8).toNat

/-- The fields of a word above FN (R65). -/
def splitWord (w : BitVec 128) : Raw :=
  { et := w.extractLsb' 16 4, mod := w.extractLsb' 20 4, d := w.extractLsb' 24 8, a := w.extractLsb' 32 8
    b := w.extractLsb' 40 8, c := w.extractLsb' 48 8, pq := w.extractLsb' 56 4, lsel := w.extractLsb' 60 2
    res62 := w.extractLsb' 62 2, lit := w.extractLsb' 64 32, sw := w.extractLsb' 96 8, sp := w.extractLsb' 104 8
    sub := w.extractLsb' 112 8, res120 := w.extractLsb' 120 8 }

/-- The word of a pair and fields (R65). -/
def joinWord (maj fn : Nat) (r : Raw) : BitVec 128 :=
  r.res120 ++ r.sub ++ r.sp ++ r.sw ++ r.lit ++ r.res62 ++ r.lsel ++ r.pq ++ r.c ++ r.b ++ r.a ++ r.d ++ r.mod ++ r.et
    ++ BitVec.ofNat 8 fn ++ BitVec.ofNat 8 maj

/-- Slot k of a record's address generators (R74, R76). -/
def splitSlot (s : BitVec 96) : AgSlot :=
  { str3 := s.extractLsb' 78 18, str2 := s.extractLsb' 60 18, str1 := s.extractLsb' 42 18, str0 := s.extractLsb' 24 18
    off := s.extractLsb' 4 20, bsel := Fin.ofNat 16 (s.extractLsb' 0 4).toNat }

/-- The control word's fields (R77). -/
def splitCtl (c : BitVec 32) : Ctl :=
  { plvl := c.extractLsb' 22 3, wlvl := c.extractLsb' 19 3, lslot := Fin.ofNat 16 (c.extractLsb' 15 4).toNat
    tchk := c.getLsbD 14, slen := c.extractLsb' 11 3, spat := c.extractLsb' 3 8, vcen := c.getLsbD 2
    vcsel := Fin.ofNat 4 (c.extractLsb' 0 2).toNat }

/-- The control word of its fields, reserved bits given (R77). -/
def joinCtl (res : BitVec 7) (c : Ctl) : BitVec 32 :=
  res ++ c.plvl ++ c.wlvl ++ BitVec.ofNat 4 c.lslot.val ++ BitVec.ofBool c.tchk ++ c.slen ++ c.spat
    ++ BitVec.ofBool c.vcen ++ BitVec.ofNat 2 c.vcsel.val

/-- The tail of a record: its bits [511:128] (R74). -/
def splitTail (w : BitVec 384) : RawTail :=
  { tail :=
      { t0 := w.extractLsb' 0 16, t1 := w.extractLsb' 16 16, t2 := w.extractLsb' 32 16, t3 := w.extractLsb' 48 16
        ag0 := splitSlot (w.extractLsb' 64 96), ag1 := splitSlot (w.extractLsb' 160 96)
        ag2 := splitSlot (w.extractLsb' 256 96), ctl := splitCtl (w.extractLsb' 352 32) }
    res := w.extractLsb' 377 7 }

/-- The bits of a tail (R74). -/
def joinTail (rt : RawTail) : BitVec 384 :=
  joinCtl rt.res rt.tail.ctl ++ rt.tail.ag2.bits ++ rt.tail.ag1.bits ++ rt.tail.ag0.bits ++ rt.tail.t3 ++ rt.tail.t2
    ++ rt.tail.t1 ++ rt.tail.t0

/-- What decoding answers: the instruction, or the failure the trap reports. -/
inductive Decoded where
  | ok (i : Instr)
  | bad (f : Failure)
  deriving DecidableEq, Repr

/-- Decoding of a pair and fields by agent `ag` (R71). -/
def decodeFields (ag : Agent) (maj fn : Nat) (r : Raw) (rt : Option RawTail) : Decoded :=
  match wordFailure ag maj fn r rt with
  | some f => .bad f
  | none =>
    match Instr.build maj fn r.op (rt.map (·.tail)) with
    | some i => .ok i
    | none => .bad ⟨0, 1⟩

/-- The control core's decoding of a 128-bit operation word. -/
def decodeWord (w : BitVec 128) : Decoded := decodeFields .cc (wordMaj w) (wordFn w) (splitWord w) none

/-- A sequencer's decoding of a 512-bit record (R74). -/
def decodeRecord (ag : Agent) (w : BitVec 512) : Decoded :=
  let op := w.extractLsb' 0 128
  decodeFields ag (wordMaj op) (wordFn op) (splitWord op) (some (splitTail (w.extractLsb' 128 384)))

/-- The operation word of an instruction: bits [127:0]; zero for a step that no word encodes. -/
def encodeWord (i : Instr) : BitVec 128 :=
  match i.coded with
  | some c => joinWord c.maj c.fn c.op.raw
  | none => 0

/-- The record of an instruction: its operation word and its tail. -/
def encodeRecord (i : Instr) : BitVec 512 :=
  match i.coded with
  | some c => joinTail ⟨c.tail.getD {}, 0⟩ ++ joinWord c.maj c.fn c.op.raw
  | none => 0

/-- The encoder: the words of an instruction, a record for a sequencer and one operation word for the control core. -/
def encode (i : Instr) : List (BitVec 128) :=
  match i.coded with
  | none => []
  | some c =>
    match c.tail with
    | none => [encodeWord i]
    | some _ =>
      let r := encodeRecord i
      [r.extractLsb' 0 128, r.extractLsb' 128 128, r.extractLsb' 256 128, r.extractLsb' 384 128]

/-- The bytes of an n-byte value, lowest first (R2). -/
def bytesOf (n : Nat) (w : Nat) : List Byte :=
  match n with
  | 0 => []
  | n + 1 => BitVec.ofNat 8 w :: bytesOf n (w / 256)

/-- The value of bytes, lowest first (R2). -/
def valueOf : List Byte → Nat
  | [] => 0
  | b :: bs => b.toNat + 256 * valueOf bs

/-- Decoding by agent `ag` of bytes as they stand in memory: 16 bytes for the control core, 64 for a sequencer. -/
def decodeBytes (ag : Agent) (bs : List Byte) : Decoded :=
  if ag = .cc then decodeWord (BitVec.ofNat 128 (valueOf (bs.take 16)))
  else decodeRecord ag (BitVec.ofNat 512 (valueOf (bs.take 64)))

/-- The sequencer that decodes the pair of a record: the first that the opcode map lists (R81). -/
def recordAgent (maj : Nat) : Agent :=
  if maj < 0x80 then .ve else if maj < 0xA0 then .me else if maj = 0xA8 then .se else if maj = 0xDF then .ve else .le

/-- The instruction that the decoder reads from bits numbered as the table numbers them. An instruction of at most
16 bytes whose pair the control core decodes is an operation word, laid out at the lowest address; every other is a
record, whose bits above `nbits` are zero. -/
def decodeTableWord (nbits w : Nat) : Option Instr :=
  let v := w % 2 ^ nbits
  match decodeBytes .cc (bytesOf 16 v) with
  | .ok i => if nbits ≤ 128 then some i else record v
  | .bad _ => record v
where
  /-- The record that the bits are, decoded by the engine the map lists, or by the store copy engine when the load
  copy engine refuses it. -/
  record (v : Nat) : Option Instr :=
    match decodeBytes (recordAgent (v % 256)) (bytesOf 64 v) with
    | .ok i => some i
    | .bad _ =>
      match decodeBytes .se (bytesOf 64 v) with
      | .ok i => some i
      | .bad _ => none

end Sys2Proof
end

