-- ==== Sys2Proof/Machine/State.lean ====
section
/-!
DEFINITION. The state of the package as plain data: eight compute dies of 64 tiles, the I/O die, the host memory
behind the Oshel window, the requests in flight, and the agenda that says which of the package's agents moves next
and what arrives from outside. The manual's state cards (R8) name every item; the model's own fields say so.
-/
namespace Sys2Proof.Machine

/-! ### Why a step stops -/

/-- A reason for which the machine stops. -/
inductive Fault where
  /-- The agenda names a step whose conditions the state does not meet: the package never takes it there. Raised by
  every step without a word. Safe: nothing is claimed of a step that cannot come about. -/
  | notEnabled
  deriving DecidableEq, Repr

/-- A reason for which a step has no meaning. -/
inductive Refusal where
  /-- The instruction has no meaning in this model yet. Raised by its arm of exec only. Safe. -/
  | notModelled (mnemonic : String)
  /-- The agenda holds an operation word: words come from memory through an agent's fetch, never from outside.
  Raised by step. Safe. -/
  | wordInAgenda
  deriving DecidableEq, Repr

/-! ### Memories -/

/-- A memory: the bytes that differ from what an unlisted address reads as (0x00), addresses strictly rising. -/
abbrev Mem := List Host.Cell

/-! ### Results in flight -/

/-- A post of n to semaphore k (R70, R396). -/
structure Post where
  k : Fin 16
  n : BitVec 8 := 1
  deriving DecidableEq, Repr

/-- The types, scales and limits of an array step (R192 to R195). -/
structure StepInfo where
  et     : ElemType
  pt     : ElemType
  scaled : Bool
  sat    : Bool
  zero   : Bool
  kv     : Nat
  nv     : Nat
  plane  : Fin 2
  fpctl  : BitVec 32
  deriving DecidableEq, Repr

/-- What an atomic operation does with the old value (R284). -/
inductive AtomOp where
  | add | min | max | minn | maxn | and | or | xor | swap
  deriving DecidableEq, Repr

/-- A memory-side atomic: read-modify-write, or compare and swap of one, two or four words (R284). -/
inductive AtomKind where
  | rmw (op : AtomOp) (w : Nat) (operand : Word)
  | cas (w : Nat) (expected new : Word)
  | casN (expected new : List Word)
  deriving DecidableEq, Repr

/-- What the write of a result changes. -/
inductive Effect where
  | x (i : Fin 32) (v : Word)
  | seed (v : Word)
  | b (i : Fin 4) (v : Word)
  | g (i : Fin 16) (v : Word)
  | n (i : Fin 4) (v : BitVec 16)
  | nest (j : Fin 6) (v : Word)
  | nestGo
  | sreg (num : BitVec 8) (v : Word)
  /-- Bytes of the scratchpad; offsets from 0x20_0000 name the shadow set (R129). -/
  | sp (off : Nat) (bytes : List Byte)
  /-- The bits of `mask` within 512 bytes of the active set (R178). -/
  | spBits (off : Nat) (data mask : Vec)
  | slot (off : Nat) (bytes : List Byte)
  /-- Half a byte of the scratchpad or of the silo (R341). -/
  | half (silo : Bool) (off : Nat) (high : Bool) (v : Byte)
  /-- The STATUS update of a command block by an item: its cause when it failed, the flags it sets, its t (R337). -/
  | status (off : Nat) (cause : Option (BitVec 16)) (flags : BitVec 8) (t : Nat)
  | tagIns (e : Nat) (tag : Word) (sbase : BitVec 15) (slen : BitVec 16)
  | tagInv (e : Nat)
  | tagInvAll
  | tagInvTag (tag : Word)
  /-- The bits of `mask` of vector register d (R148). -/
  | vreg (d : Fin 32) (data mask : Vec)
  | qreg (d : Fin 8) (data mask : Mask)
  | stream (s : Fin 8) (slot : Fin 4) (data : Vec)
  | accRow (q : Fin 4) (r : Fin 128) (data mask : Vec)
  /-- The sums of an array step's row, added to the accumulator row as it stands at the start of the cycle of the
  write (R192, R194): one vector of f32 group sums for each group, or the exact integer totals. -/
  | accStep (q : Fin 4) (r : Fin 128) (groups : List Vec) (totals : List Int) (info : StepInfo)
  | accClear (q : Fin 4)
  | accMul (q : Fin 4) (rows : List Vec)
  | planeRow (p : Fin 2) (r : Fin 128) (data : BitVec 2048)
  | planeScales (p : Fin 2) (data : Vec)
  | planeDesc (p : Fin 2) (desc : BitVec 24)
  | planeClear (p : Fin 2)
  | actFlip
  | kset (k : Fin 16) (count ceil : BitVec 8)
  | enq (engine : Agent) (off count : Nat)
  | stage (engine : Agent)
  deriving DecidableEq, Repr

/-- What a result reads of the tile's memories in its sample cycle, before the writes of that cycle (R297). -/
inductive Sample where
  | ld (d : Fin 32) (off : Nat) (et : ElemType)
  | ldl (d : Fin 32) (off : Nat) (et : ElemType)
  /-- The bits of `keep` of the 512 bytes at off, the rest zero, written under `mask`. -/
  | vld (d : Operand) (slot : Fin 4) (off : Nat) (keep mask : Vec)
  | tlk (d : Fin 32) (tag : Word)
  | atom (d : List (Fin 32)) (off : Nat) (kind : AtomKind)
  /-- Row r of an array step: the activation row at `off` (R192). -/
  | stepRow (q : Fin 4) (r : Fin 128) (off : Nat) (scales : BitVec 32) (info : StepInfo)
  | planeRow (p : Fin 2) (r : Fin 128) (off : Nat) (bytes : Nat)
  | planeScales (p : Fin 2) (off : Nat)
  deriving DecidableEq, Repr

/-- A result of an operation in flight (R55): in how many active cycles of its agent it is written, counting the
current one, and what it writes. -/
structure Result where
  agent   : Agent
  left    : Nat
  /-- The tile cycle of issue, for the order of writes (R56). -/
  issued  : Nat
  effects : List Effect := []
  post    : Option Post := none
  /-- The sample still to be taken and in how many active cycles. -/
  sample  : Option (Nat × Sample) := none
  /-- It counts tile cycles: the post of a request at its due cycle (R70). -/
  timed   : Bool := false
  /-- Element width of its vector writes, as the frame counts elements (R233). -/
  ew      : Nat := 32
  /-- Address or scratchpad offset of the posting word, and l0 to l3 of its iteration (R395). -/
  fpc     : Word := 0
  fidx    : Word := 0
  deriving DecidableEq, Repr

/-- A result captured at a cut, with its offset r (R219, R233); a sample not yet taken at the cut is taken when the
result is written after return. -/
structure Latch where
  r       : Nat
  agent   : Agent
  issued  : Nat
  effects : List Effect
  post    : Option Post := none
  sample  : Option (Nat × Sample) := none
  fpc     : Word := 0
  fidx    : Word := 0
  ew      : Nat := 32
  /-- In a latch bank that a pre-emption has added to: it was there before, and belongs to the handler below. -/
  below   : Bool := false
  deriving DecidableEq, Repr

/-- An entry of a pending arrival or of a sub-queue as the device has written it into a frame slot: its request, its offset
in the slot, its bytes. -/
structure FrameEntry where
  req   : Nat
  off   : Nat
  bytes : List Byte
  deriving DecidableEq, Repr

/-- The parts of a stop record that may differ from what the tile goes on to hold, as they were written: the entries of
requests, the vector and the matrix latches (runs of bytes at offsets), and COUNTS. What software edits differs from it. -/
structure WrittenRecord where
  entries : List FrameEntry := []
  ve      : List (Nat × List Byte) := []
  me      : List (Nat × List Byte) := []
  counts  : Nat := 0
  deriving DecidableEq, Repr

/-! ### A tile -/

/-- Privilege levels (R9). -/
inductive Level where
  | task | system
  deriving DecidableEq, Repr

/-- A counting semaphore (R393). -/
structure Sem where
  count : BitVec 8 := 0
  ceil  : BitVec 8 := 255
  deriving DecidableEq, Repr

/-- The condition of a stream entry (R151). -/
inductive EntryState where
  | free | reserved | written
  deriving DecidableEq, Repr

/-- An entry of a stream register. -/
structure StreamEntry where
  st   : EntryState := .free
  data : Vec := 0
  deriving DecidableEq, Repr

/-- A stream register: a queue of four entries (R143, R151 to R153). -/
structure Stream where
  entries : Vector StreamEntry 4 := Vector.replicate 4 {}
  head    : Fin 4 := 0
  /-- Entries reserved or written, from head on. -/
  used    : Nat := 0
  /-- Whether an agent has popped or reserved in this tile cycle (R153). -/
  popped  : Bool := false
  claimed : Bool := false
  deriving DecidableEq, Repr

/-- A weight plane (R182, R183). -/
structure Plane where
  rows   : Vector (BitVec 2048) 128 := Vector.replicate 128 0
  scales : Vec := 0
  desc   : BitVec 24 := 0
  deriving DecidableEq, Repr

/-- The matrix engine (R182). -/
structure MatrixState where
  planes  : Vector Plane 2 := Vector.replicate 2 {}
  act     : Fin 2 := 0
  acc     : Vector (Vector Vec 128) 4 := Vector.replicate 4 (Vector.replicate 128 0)
  pending : Vector Word 6 := Vector.replicate 6 0
  active  : Vector Word 6 := Vector.replicate 6 0
  deriving DecidableEq, Repr

/-- A tag-table entry (R244). -/
structure TagEntry where
  valid : Bool := false
  slen  : BitVec 16 := 0
  sbase : BitVec 15 := 0
  tag   : Word := 0
  deriving DecidableEq, Repr

/-- A bank set with its tag table and owner (R240, R243). -/
structure BankSet where
  bytes : Mem := []
  tags  : List (Nat × TagEntry) := []
  owner : BitVec 16 := 0
  deriving DecidableEq, Repr

/-- The trap registers (R209). -/
structure TrapRegs where
  tstat  : Word := 0
  tcause : Word := 0
  tval   : Word := 0
  tepc   : Word := 0
  tvec   : Word := 0
  deriving DecidableEq, Repr

/-- A wfe in progress (R140): remaining limit, none for no limit; its post is made when it ends (R70). -/
structure Wfe where
  d     : Fin 32
  mask  : BitVec 4
  limit : Option Nat
  post  : Option Post := none
  /-- It has issued in this very cycle, which is no stall (R140). -/
  fresh : Bool := true
  deriving DecidableEq, Repr

/-- Kinds of trap delivery (R210, R212). -/
inductive TrapKind where
  | precise | iteration | dueCycle | asynchronous | taskEnding
  deriving DecidableEq, Repr

/-- A trap to be delivered: code, value, source and where it stood. -/
structure Trap where
  code  : BitVec 16
  value : Word
  kind  : TrapKind
  /-- Source agent; none for TSTAT.AGENT 5. -/
  agent : Option Agent
  offs  : BitVec 16 := 0
  fpc   : Word := 0
  fidx  : Word := 0
  /-- The level that PLV takes, when it is not that of the cycle of entry (R228). -/
  level : Option Level := none
  deriving DecidableEq, Repr

/-- What the control core is doing. -/
inductive CcMode where
  /-- It issues in this cycle. -/
  | ready
  /-- It issues after n more cycles: return from a handler, or first operation after a cut (R83, R219). -/
  | wait (n : Nat)
  /-- As wait, after the return from a stop's handler: the sequencers are held until then (R220). -/
  | resume (n : Nat)
  /-- A precise trap has been taken: its registers are written at the end of the n-th cycle from now (R213). -/
  | entering (n : Nat) (trap : Trap) (tepc : Word)
  /-- A wfe is in progress. -/
  | wfe (w : Wfe)
  /-- trap end has issued, or a trap without handler: it issues nothing further (R137, R213). -/
  | ended
  deriving DecidableEq, Repr

/-- The control core's registers (R115, R105, R107). -/
structure CcState where
  /-- x1 to x31 at their index; x0 reads as zero whatever is held here. -/
  x      : Vector Word 32 := Vector.replicate 32 0
  b      : Vector Word 4 := Vector.replicate 4 0
  pc     : Word := 0
  level  : Level := .system
  tcyc   : Word := 0
  tscr   : Word := 0
  g      : Vector Word 16 := Vector.replicate 16 0
  n      : Vector (BitVec 16) 4 := Vector.replicate 4 0
  fpctl  : BitVec 32 := 0
  srseed : Word := 0
  trap   : TrapRegs := {}
  ctxid  : BitVec 16 := 0
  asid   : BitVec 16 := 0
  ssnum  : BitVec 32 := 0
  mode   : CcMode := .ready
  /-- Remaining limit, 0 for none, of a wfe that a cut interrupted: the wfe at PC takes it up again (R140, R231). -/
  wfeBack : Option Nat := none
  deriving DecidableEq, Repr

/-- The vector engine's registers (R143). -/
structure VectorState where
  v : Vector Vec 32 := Vector.replicate 32 0
  q : Vector Mask 8 := Vector.replicate 8 0
  deriving DecidableEq, Repr

/-- A segment entry of an engine queue (R328). -/
structure Seg where
  off   : Nat
  count : Nat
  /-- Tile cycles still to pass before the first record may issue (R133, R83). -/
  delay : Nat := 0
  deriving DecidableEq, Repr

/-- An open loop of a segment (R79, R232). -/
structure OpenLoop where
  first : Nat
  trips : Nat
  index : Nat
  deriving DecidableEq, Repr

/-- What a copy record fixes in its first iteration (R335, R336). -/
structure CopyFixed where
  /-- The command block's bytes 16 to 63; none without a block. -/
  block : Option (BitVec 512) := none
  /-- Scratchpad offset of the block. -/
  off   : Nat := 0
  /-- The tensor layout record that LROFF names, as sampled with the block (R361). -/
  layout : Option (BitVec 512) := none
  /-- The block is malformed: later iterations do nothing. -/
  dead  : Bool := false
  /-- Number of the record's first request, which names this run of the record. -/
  run   : Option Nat := none
  /-- Item bytes of kgath with KD and KT of the fixing leaf, or the cause that left them without a value. -/
  kps   : Option (Nat × BitVec 3) := none
  kfail : BitVec 16 := 0
  deriving DecidableEq, Repr

/-- The record in issue (R74 to R80, R232). -/
structure Running where
  off    : Nat
  word   : BitVec 512
  instr  : Instr
  l0     : Nat := 0
  l1     : Nat := 0
  l2     : Nat := 0
  l3     : Nat := 0
  /-- The first iteration has issued: valid count, nest table and copy state are fixed. -/
  began  : Bool := false
  valid  : Option Nat := none
  nest   : Vector Word 6 := Vector.replicate 6 0
  copy   : CopyFixed := {}
  /-- The wait of the current WLVL iteration has been made. -/
  waited : Bool := false
  deriving DecidableEq, Repr

/-- Why an agent stalls in this cycle (R53). -/
inductive Stall where
  | sem (k : Fin 16) (n : Nat := 1)
  | streamEmpty (s : Fin 8)
  | streamFull (s : Fin 8)
  | queueFull (engine : Agent)
  | subQueueFull (cls : Nat)
  | event
  deriving DecidableEq, Repr

/-- A sequencer with its engine queue (R328, R232, R407, R346). -/
structure Seq where
  queue   : List Seg := []
  /-- Index within the head segment of the next record to issue. -/
  idx     : Nat := 0
  cur     : Option Running := none
  /-- Active cycles of occupancy left before the next issue. -/
  gap     : Nat := 0
  loops   : List OpenLoop := []
  stalled : Option Stall := none
  /-- Held by its own trap until the cut (R218). -/
  held    : Bool := false
  stg     : Byte := 0
  /-- Scheduled segment accepted by csched, and the one in use with the slots it has taken (R346, R369). -/
  sched   : Option Seg := none
  phase   : Option (Seg × Nat) := none
  /-- The engine queue's position set aside while a scheduled segment runs. -/
  aside   : Option (List Seg × Nat × Option Running × List OpenLoop) := none
  deriving DecidableEq, Repr

/-- The running task of a tile (R35, R49). -/
structure Task where
  home   : DieIx
  q      : Fin 16
  index  : Nat
  ctxid  : BitVec 16
  /-- Virtual address of the record. -/
  record : Word
  entry  : Word
  image  : Word
  imglen : BitVec 16
  arg    : Word
  budget : BitVec 32
  ssp    : Bool
  ovp    : Bool
  /-- AFF and FLAGS, as the READY transition read them (R326). -/
  aff    : Word := 0
  flags  : BitVec 16 := 0
  /-- Cycles counted before this run of the task (R51: a resume counts from zero). -/
  base   : Word := 0
  deriving DecidableEq, Repr

/-- A record placed on a tile, in the order in which it reached the tile (R47). -/
structure Placed where
  task   : Task
  /-- Restored from its frame slot by a resume ordered by system software (R422). -/
  resume : Bool := false
  /-- Preloaded while its record is still WAITING for the running task (R326). -/
  chain  : Bool := false
  deriving DecidableEq, Repr

/-- What the cycle before a cut has left for the next one to see, which is the first after the return (R221): bytes changed
at its end with their former and their new values (R80), registers written at its end (R56), posts that it refused
(R395). -/
structure CutEdge where
  undo    : List (Nat × Byte × Byte) := []
  wroteX  : List (Fin 32 × Nat) := []
  refused : List (Agent × Fin 16 × Word × Word) := []
  deriving DecidableEq, Repr

/-- What a stop does at its cut (R217, R225, R228). -/
inductive StopKind where
  /-- Enter the handler with the trap (reason 2), or end the task with it when TVEC is 0 (reason 3). -/
  | handler (trap : Trap)
  /-- End the task (reason 3) with the trap's registers already written (R213). -/
  | ending (code : BitVec 16) (fpc fidx : Word)
  /-- Pre-emption (reason 1), with a fault recorded in its shadow if any (R223); `suspend` for OVP = 1. -/
  | preempt (fault : Option Trap) (suspend : Bool)
  /-- kill and rerun: stop without a frame; the record to be placed again (R352, R423). -/
  | discard (again : Option Placed)
  deriving DecidableEq, Repr

/-- What a tile is doing. -/
inductive TileMode where
  | idle
  | running
  /-- Conditions of R50 are awaited after trap end. -/
  | ending
  /-- Halted by a pre-emption whose frame is written: by ctxsw or PRECMD. -/
  | halted
  deriving DecidableEq, Repr

/-- The phases of a tile cycle, in the model's order: events found at the start (R222), issue of the agents in the
order in which waits are taken (R394), the end of the cycle, and what is decided by its outcome (R140). -/
inductive Phase where
  | start | cc | ve | me | le | se | finish | close
  deriving DecidableEq, Repr

/-- The superstep phase of a tile (R62): S, whether the start signal has landed, and CLEN of the phase. -/
structure SuperPhase where
  s       : Nat
  started : Bool := false
  inComm  : Bool := false
  clen    : Nat := 0
  deriving DecidableEq, Repr

/-- A leaf held by a TLB (R262). -/
structure TlbEntry where
  asid : BitVec 16
  gen  : BitVec 16
  /-- Page base and size. -/
  va   : Word
  size : Nat
  leaf : Word
  deriving DecidableEq, Repr

/-- One tile (R15). -/
structure Tile where
  cc      : CcState := {}
  ve      : VectorState := {}
  me      : MatrixState := {}
  streams : Vector Stream 8 := Vector.replicate 8 {}
  sems    : Vector Sem 16 := Vector.replicate 16 {}
  /-- Sequencers of VE, ME, LE and SE. -/
  seqs    : Vector Seq 4 := Vector.replicate 4 {}
  posn    : BitVec 32 := 0
  setA    : BankSet := {}
  setB    : BankSet := {}
  /-- ROLE: true when set B is active (R240). -/
  roleB   : Bool := false
  silo    : Mem := []
  /-- Slot table: base and size in 64-byte units (R247). -/
  slots   : Vector (BitVec 32) 16 := Vector.replicate 16 0
  tlb     : List TlbEntry := []
  /-- Lines of the instruction cache: line address and 64 bytes (R127). -/
  icache  : List (Word × BitVec 512) := []
  lineBuf : Option (Word × BitVec 512) := none
  /-- Lines requested ahead and not yet landed (R127). -/
  fetch   : List Word := []
  /-- Lines whose fetch has failed, with the cause that their use reports (R237, R238). -/
  fetchBad : List (Word × BitVec 16) := []
  /-- Issue cycles of the fences at scope tile whose writes may still be in flight (R275). -/
  tileFence : List Nat := []
  flight  : List Result := []
  bank1   : List Latch := []
  bank2   : List Latch := []
  engLatches : List Latch := []
  /-- Latches to be re-injected in the cycle in which the first operation after a return issues (R220). -/
  inject  : List Latch := []
  /-- The condition on which the control core stalls. -/
  stalled : Option Stall := none
  /-- Posts refused at the end of the previous cycle, in order (R395). -/
  refused : List (Agent × Fin 16 × Word × Word) := []
  stop    : Option (Nat × StopKind) := none
  /-- Cycle of the cut of the stop whose handler runs; the remaining limit of the wfe that it interrupted, 0 for none. -/
  cutAt   : Nat := 0
  stopWfe : Option Nat := none
  /-- What that cut has kept of the cycle before it. -/
  cutLeft : CutEdge := {}
  /-- A die-loss trap whose stop has been withdrawn is held (R223). -/
  lossHeld : Bool := false
  /-- The stop record that it has last written. -/
  record  : WrittenRecord := {}
  /-- The cycle in which an iteration trap or a due-cycle fault was last taken (R222). -/
  faultAt : Option Nat := none
  /-- The remaining limit of a wfe of the first handler that the second one interrupts. -/
  innerWfe : Option Nat := none
  irq     : Option Word := none
  preempt : Option Bool := none
  dieLost : List (BitVec 12) := []
  super   : Option SuperPhase := none
  /-- A start signal is on its way to the tile (R61). -/
  signal  : Bool := false
  mode    : TileMode := .idle
  task    : Option Task := none
  /-- The queue index of the context drawn for the next preload (R325). -/
  drawn   : Option (Fin 16) := none
  /-- The record that a chain preload may take, as the last draw found it: home, queue and index (R326). -/
  chain   : Option (DieIx × Fin 16 × Nat) := none
  /-- The context whose preload a rerun has discarded: it is preloaded again when the rerun starts (R327). -/
  redraw  : Option (Fin 16) := none
  preload : Option Placed := none
  /-- The slot descriptor that came with the preload (R247). -/
  preSlots : Vector (BitVec 32) 16 := Vector.replicate 16 0
  placed  : List Placed := []
  /-- Runs of putsig records of which a payload item has failed (R344). -/
  failedRuns : List Nat := []
  phase   : Phase := .start
  /-- The model's count of tile cycles. -/
  now     : Nat := 0
  /-- Bytes changed at the end of the previous cycle with their former values (R80). -/
  undo    : List (Nat × Byte) := []
  /-- The same of bytes that remote writes have changed between the previous cycle and this one (R80, R299). -/
  undoNext : List (Nat × Byte) := []
  /-- Scalar registers written at the end of the previous cycle and the issue cycle of the writer (R56). -/
  wroteX  : List (Fin 32 × Nat) := []
  /-- Remote writes performed in this cycle, in order of arrival (R299). -/
  remote  : List (Nat × Byte) := []
  /-- The end of the present cycle has been held open for bytes that were to land with it (R30). -/
  heldOpen : Bool := false
  /-- The tile is frozen before a segment close (R312). -/
  closing : Bool := false
  /-- A post completed in this cycle (R140). -/
  posted  : Bool := false
  seg     : BitVec 32 := 0
  sfloor  : BitVec 32 := 0
  /-- The model's own: SEG of the tile at the last completed scan of each die's slices (R312), and the activity counters at
  the last power interval (R437). -/
  scans   : Vector (BitVec 32) 8 := Vector.replicate 8 0
  counted : Vector (BitVec 32) 5 := Vector.replicate 5 0
  fetchce : BitVec 32 := 0
  activity : Vector (BitVec 32) 5 := Vector.replicate 5 0
  deriving DecidableEq, Repr

/-! ### Requests beyond the tile -/

/-- One item of a copy record (R335, R340). -/
structure CopyItem where
  op      : Op
  tail    : Tail
  /-- MAJ and FN of the record. -/
  maj     : Nat
  fn      : Nat
  engine  : Agent
  /-- Scratchpad offset of the record, number of its run and linear iteration index (R331). -/
  record  : Nat
  run     : Nat
  t       : Nat
  l0      : Nat
  l1      : Nat
  l2      : Nat
  l3      : Nat
  /-- The stage counter of the engine at issue (R408). -/
  stg     : Nat
  /-- The command block as fixed by the record's first iteration, with its offset. -/
  block   : Option (Nat × BitVec 512)
  layout  : Option (BitVec 512)
  /-- Addresses that the destination and source sides yield, and the base registers of their slots (R340). -/
  dst     : Word
  src     : Word
  dstBase : Word
  srcBase : Word
  /-- First byte of the landing slot in the silo, for an item that lands there. -/
  slot    : Option Nat
  bytes   : Nat
  /-- KD and KT of the leaf that fixed KPS; the cause that left KPS without a value (R335). -/
  key     : BitVec 3
  keyFail : BitVec 16
  /-- What an edit of its entry has added to the memory-side addresses of a tensor item (R331). -/
  shift   : Word := 0
  /-- The index entry: its value when in the scratchpad, its address when in memory (R342). -/
  index   : Option Nat
  indexVa : Option Word
  /-- Bytes read from the scratchpad or the popped stream entry in the issue cycle. -/
  data    : List Byte
  /-- The scratchpad as the issue cycle reads it, for an item that takes from it the row that an index entry in memory
  selects (R335, R342). -/
  rows    : Option Mem := none
  /-- The stream entry that a load item fills (R340). -/
  stream  : Option (Fin 8 × Fin 4)
  deriving DecidableEq, Repr

/-- What a request asks for. -/
inductive ReqKind where
  | load (et : ElemType) (va : Word)
  | store (va : Word) (bytes : List Byte)
  | atom (va : Word) (kind : AtomKind)
  | lenq (va value : Word)
  | ldeq (va : Word)
  /-- The node that is next, the hops made, and whether the read is that of the next pointer (R287). -/
  | nchase (node control key : Word) (hops : Nat) (link : Bool)
  | ksel (et : ElemType) (off : Nat)
  | kcrust (va n : Word)
  | fence (scope : BitVec 2)
  | barinit (va n : Word)
  | barexp (va n : Word)
  | barwait (va phase : Word)
  | ssync
  /-- Nothing leaves the tile: a delay until the due cycle, or a trap there (R336, R405). -/
  | delay (fault : Option (BitVec 16 × Word))
  | sstatBar
  | sstatStg
  | tcadd (sel operand : Word) (set : Bool)
  | tcrd (sel : Word)
  | csched (status : Word)
  | lyc (off : Word)
  | lyq (off arg : Word) (what : BitVec 8)
  | tsld (va : Word) (red : Bool)
  | rtld (va first : Word)
  | tlbinv (va asid : Word) (what : BitVec 8)
  | atw (sel lo hi : Word)
  | ditw (sel va : Word) (load : Bool)
  | fcolLoad (slot va : Word)
  | fcolRun (slot va : Word)
  | ftrigArm (entry va : Word)
  | ftrigDisarm (entry : Word)
  | ftrigQuery (entry : Word)
  | rshd (src dst cursor : Word)
  | rshq (src dst : Word) (pairs : Bool)
  | kill (ctxid : Word)
  | ctxsw (a b : Word) (what : BitVec 8)
  | copy (item : CopyItem)
  /-- The flag update of a putsig (R344): its run, its record, its block and the last item's t. -/
  | signal (run record block t : Nat) (va value : Word) (store : Bool)
  deriving DecidableEq, Repr

/-- Where a request stands. -/
inductive Stage where
  /-- Issued, held by a release, acquire or fence, or not yet translated. -/
  | issued
  /-- Translated at the source; in the fabric at a die, with its hop count. -/
  | fabric (at_ : DieIx) (hops : Nat)
  /-- Waiting in the egress queue of a port. -/
  | egress (at_ : DieIx) (port : Fin 8) (hops : Nat)
  /-- At the target die, before translation or access check there. -/
  | ingress (at_ : DieIx)
  /-- At its home, to be performed. -/
  | home
  /-- Performed in part: a copy item whose barrier addition is still to be made (R465). -/
  | adding
  /-- Begun, and waiting for more than its own progress: kill, swap, tlbinv, a host page. -/
  | waiting
  /-- Performed; the response travels back. -/
  | done
  /-- The response has landed at the tile. -/
  | landed
  /-- Its due cycle is in progress; it goes with the end of that cycle (R330). -/
  | retired
  deriving DecidableEq, Repr

/-- What a response carries (R248, R269). -/
structure Response where
  x      : List (Fin 32 × Word) := []
  sp     : List (Nat × List Byte) := []
  slot   : List (Nat × List Byte) := []
  /-- Half bytes that land: in the silo, offset, high half, value. -/
  edges  : List (Bool × Nat × Bool × Byte) := []
  stream : Option (Fin 8 × Fin 4 × Vec) := none
  /-- A fault: cause and TVAL. -/
  fault  : Option (BitVec 16 × Word) := none
  /-- The update of a command block's STATUS: block offset, cause of the item if it failed, flags, t (R337). -/
  status : Option (Nat × Option (BitVec 16) × BitVec 8 × Nat) := none
  deriving DecidableEq, Repr

/-- A translated access: die and local address of a byte, the leaf used and its page size (R256, R260). -/
structure Place where
  die   : BitVec 12
  local_ : Nat
  leaf  : Word
  size  : Nat
  deriving DecidableEq, Repr

/-- One access of a request: n bytes at a virtual address, and where translation has placed them. -/
structure Piece where
  va    : Word
  n     : Nat
  write : Bool
  read  : Bool
  place : Option Place := none
  deriving DecidableEq, Repr

/-- A request that leaves a tile, in flight (R269). -/
structure Req where
  id      : Nat
  die     : DieIx
  tile    : TileIx
  agent   : Agent
  level   : Level
  ctxid   : BitVec 16
  asid    : BitVec 16
  /-- Issue and due tile cycle, arrival offset. -/
  issued  : Nat
  due     : Nat
  offs    : BitVec 16
  kind    : ReqKind
  d       : List (Fin 32) := []
  post    : Option Post := none
  fpc     : Word := 0
  fidx    : Word := 0
  /-- Release scope and acquire (R274, R275). -/
  release : Option (BitVec 2) := none
  acquire : Bool := false
  seg     : BitVec 32 := 0
  gen     : BitVec 16 := 0
  stage   : Stage := .issued
  /-- Whether the request travels back as a response. -/
  back    : Bool := false
  /-- Its accesses, the barrier object of a copy item's BAR first (R465). -/
  pieces  : List Piece := []
  /-- The die it travels to; the dies to which it carries physical addresses (R265); the home that has sent an nchase on
  (R287). -/
  target  : DieIx := 0
  phys    : List (BitVec 12) := []
  via     : Option DieIx := none
  /-- It has crossed its home's I/O port (R17, R348). -/
  crossed : Bool := false
  /-- The die of another package to which it goes (R1, R25). -/
  away    : Option (BitVec 12) := none
  /-- Scratchpad ranges still to be sampled, and the bytes taken in the sample cycle (R292, R360, R363). -/
  sampling : List (Nat × Nat) := []
  operand : List Byte := []
  resp    : Response := {}
  /-- Offset r while captured by a cut (R219). -/
  captured : Option Nat := none
  /-- Its task has ended or has been stopped for good: nothing of it comes back to the tile. -/
  orphan  : Bool := false
  deriving DecidableEq, Repr

/-! ### A die -/

/-- A context table entry (R207). -/
structure CtxEntry where
  ctxid   : BitVec 16 := 0
  asid    : BitVec 16 := 0
  tickets : Byte := 0
  ditsel  : BitVec 2 := 0
  /-- STATE: 0 free, 1 resident, 2 swapped out, 3 swap in progress. -/
  state   : BitVec 2 := 0
  partid  : Byte := 0
  lotseed : BitVec 32 := 0
  ssnum   : BitVec 32 := 0
  sspart  : BitVec 18 := 0
  fpctl   : BitVec 32 := 0
  srseed  : Word := 0
  ptroot  : Word := 0
  tvec    : Word := 0
  fbase   : BitVec 12 := 0
  deriving DecidableEq, Repr

/-- Task states (R48). -/
inductive TaskState where
  | waiting | ready | placed | running | done | cancelled | faulted | suspended
  deriving DecidableEq, Repr

/-- The device's own copy of a record's state (R36, R38). -/
structure Record where
  state : TaskState := .waiting
  wait  : Nat := 0
  npred : Nat := 0
  nsucc : Nat := 0
  succ  : Word := 0
  cause : BitVec 16 := 0
  /-- Where the record is placed, and where its task last ran. -/
  die   : BitVec 12 := 0
  tile  : BitVec 6 := 0
  ranDie : BitVec 12 := 0
  ranTile : BitVec 6 := 0
  ssp   : Bool := false
  /-- A participant that counts as arrived in the current superstep (R404); one whose completion the present barrier home
  has counted (R403). -/
  arrived : Bool := false
  counted : Bool := false
  /-- The fields read when the record became READY. -/
  task  : Option Task := none
  deriving DecidableEq, Repr

/-- A live graph (R40, R322). -/
structure Graph where
  gbase   : Word
  records : List Record
  /-- Participants wait for the gang start (R60). -/
  gang    : Bool := false
  deriving DecidableEq, Repr

/-- GQSTAT's own bits (R321). -/
structure Gqstat where
  cause : BitVec 16 := 0
  ridx  : BitVec 20 := 0
  wlost : Bool := false
  err   : Bool := false
  frz   : Bool := false
  deriving DecidableEq, Repr

/-- A time-slot table (R365, R366). -/
structure TimeSlots where
  clen    : Nat := 0
  entries : List Word := []
  deriving DecidableEq, Repr

/-- A reduction slot (R316, R317, R366). -/
structure RedSlot where
  tbase   : Word := 0
  tlen    : BitVec 32 := 0
  et      : Byte := 0
  mode    : Byte := 0
  g       : BitVec 32 := 0
  next    : Nat := 0
  failed  : Bool := false
  /-- Contributions held for their turn: grain, destination, element bytes and the request. -/
  waiting : List (Nat × Word × List Byte × Nat) := []
  /-- Running value of each element folded so far, by element index. -/
  acc     : List (Nat × BitVec 32) := []
  deriving DecidableEq, Repr

/-- A collective chunk-graph slot (R381 to R384). -/
structure ChunkSlot where
  op    : Byte := 0
  et    : Byte := 0
  chunk : Nat := 0
  ring  : List (BitVec 12) := []
  pos   : Nat := 0
  runs  : Nat := 0
  /-- The run block of the run in progress: VA, SRC, DST, BAR. -/
  run   : Option (Word × Word × Word × Word) := none
  /-- Steps of the run already made on this die. -/
  step  : Nat := 0
  /-- Chunks of SRC read at the first step: number, the cause for which it has no bytes, bytes. -/
  src   : List (Nat × Option (BitVec 16) × List Byte) := []
  /-- Chunks that have arrived from the ring predecessor: number, the cause for which it has no bytes, bytes. -/
  inbox : List (Nat × Option (BitVec 16) × List Byte) := []
  /-- The arming or issuing tile, its level and segment. -/
  tile  : TileIx := 0
  level : Level := .task
  seg   : BitVec 32 := 0
  loaded : Bool := false
  deriving DecidableEq, Repr

/-- A trigger entry (R385 to R387). -/
structure Trigger where
  armed : Bool := false
  fired : Bool := false
  cause : BitVec 16 := 0
  /-- The descriptor. -/
  desc  : BitVec 512 := 0
  tile  : TileIx := 0
  level : Level := .task
  seg   : BitVec 32 := 0
  deriving DecidableEq, Repr

/-- What the frame slot of a swapped-out tile stands for, with what its format does not say: widths of masks, order of
issue, record words. It is used where the slot's bytes are still those it was written as. -/
structure Parked where
  bank1  : List Latch := []
  bank2  : List Latch := []
  eng    : List Latch := []
  seqs   : Vector Seq 4 := Vector.replicate 4 {}
  streams : Vector Stream 8 := Vector.replicate 8 {}
  task   : Task
  super  : Option SuperPhase := none
  signal : Bool := false
  failedRuns : List Nat := []
  slots  : Vector (BitVec 32) 16 := Vector.replicate 16 0
  /-- What the control core was doing. -/
  mode   : CcMode := .ready
  wfeBack : Option Nat := none
  ssnum  : BitVec 32 := 0
  tileFence : List Nat := []
  /-- The tile cycle of the cut; what an outer stop whose handler runs has left (R219). -/
  cut    : Nat := 0
  cutAt  : Nat := 0
  stopWfe : Option Nat := none
  /-- What the cycle before the cut has left, and the same of an outer stop's cut. -/
  last    : CutEdge := {}
  cutLeft : CutEdge := {}
  innerWfe : Option Nat := none
  /-- HALT after the resume; whether what the cut captured goes on its way again at once (R215, R219, R220, R223). -/
  halt   : Bool := false
  fresh  : Bool := true
  /-- The stop record as the device has written it. -/
  record : WrittenRecord := {}
  /-- The requests that this cut captured. -/
  reqs   : List Nat := []
  /-- An interrupt held at the cut, and dies lost meanwhile (R227, R229). -/
  irq    : Option Word := none
  dieLost : List (BitVec 12) := []
  lossHeld : Bool := false
  deriving DecidableEq, Repr

/-- One transfer of a re-shard plan (R375): step, destination shard, source shard, and the box in global coordinates: low
corner and sizes. -/
structure Transfer where
  s    : Nat
  b    : Nat
  a    : Nat
  lo   : List Nat
  size : List Nat
  deriving DecidableEq, Repr

/-- The running re-shard of a thresher (R374 to R379). -/
structure Thresher where
  q      : Fin 16
  ctxid  : BitVec 16
  src    : BitVec 512
  dst    : BitVec 512
  cursor : Word
  bar    : Word
  /-- The plan formed at its start (R377). -/
  plan   : List Transfer
  /-- Position: transfer number in the plan, row; next row to send. -/
  transfer : Nat
  row    : Nat
  sent   : List (Nat × Nat × Option (BitVec 16))
  nextT  : Nat
  nextR  : Nat
  tile   : TileIx
  level  : Level
  seg    : BitVec 32
  deriving DecidableEq, Repr

/-- What a die holds for one context: its table entry and everything indexed by it. -/
structure CtxDie where
  entry    : CtxEntry := {}
  touched  : BitVec 4096 := 0
  queue    : List (BitVec 128) := []
  gq       : Gqstat := {}
  sublo    : Word := 0
  live     : Option Graph := none
  caddr    : Word := 0
  graphs   : Word := 0
  slots    : TimeSlots := {}
  slotsNew : Option TimeSlots := none
  red      : List (Nat × RedSlot) := []
  redNew   : Option (List (Nat × RedSlot)) := none
  chunks   : Vector ChunkSlot 4 := Vector.replicate 4 {}
  triggers : Vector Trigger 16 := Vector.replicate 16 {}
  counters : Vector (BitVec 32) 8 := Vector.replicate 8 0
  ssarr    : BitVec 18 := 0
  ssdone   : BitVec 18 := 0
  /-- A firing has been made and this die's non-participant tiles have not taken the new SSNUM (R402). -/
  ssnews   : Bool := false
  /-- Records forwarded from other dies, waiting to enter their tile's order (R46). -/
  forwarded : List (TileIx × Placed) := []
  /-- PRECMD has halted the context here (R421). -/
  precmd   : Bool := false
  /-- The ticket count and the lottery seed in use until the next tile-task boundary, after a write to the entry while a
  task of the context runs or is suspended (R34). -/
  oldTickets : Option Byte := none
  oldSeed    : Option (BitVec 32) := none
  /-- The model's own: tiles whose frame slot has been restored, or its task run again, since the device last wrote it. -/
  usedSlots : BitVec 64 := 0
  /-- A re-shard that a swap-out has paused (R379). -/
  paused   : Option Thresher := none
  parked   : List (TileIx × Parked) := []
  deriving DecidableEq, Repr

/-- A race record (R309); segments are the low 11 bits. -/
structure RaceRec where
  /-- The last writer, when WV = 1, and AT. -/
  writer    : Option (BitVec 18 × BitVec 11) := none
  sync      : Bool := false
  readers   : List (BitVec 18 × BitVec 11) := []
  /-- The published form: writer tile, physical address of the barrier object, phase. -/
  published : Option (BitVec 18 × Nat × Bool) := none
  /-- The record stands in the spill area (R310). -/
  spilled   : Bool := false
  deriving DecidableEq, Repr

/-- A sector held by a home slice: its number and, when dirty, the bytes DRAM still holds (R249), with the marks that these
still bear: poisoned, and an error in one symbol (R250, R416). -/
structure CacheSector where
  sector : Nat
  old    : Option (BitVec 256) := none
  bad    : Bool := false
  flaw   : Bool := false
  deriving DecidableEq, Repr

/-- An egress entry (R348): the request, its direction, how many packets it makes, and the sequence number of the first
once sent. -/
structure Egress where
  req  : Nat
  gen  : BitVec 16
  packets : Nat := 1
  sent : Option (BitVec 12) := none
  /-- Packets that the far end has accepted. -/
  got  : Nat := 0
  /-- Dropped at the far end, which has asked for a replay. -/
  lost : Bool := false
  /-- Arrived and accepted at the far end; awaiting its acknowledgement. -/
  received : Bool := false
  deriving DecidableEq, Repr

/-- A flow with packets in flight: the tile whose requests or responses they are, the dies between which they travel, and
the route that they keep (R372). -/
structure Flow where
  die  : DieIx
  tile : TileIx
  src  : BitVec 12
  dest : BitVec 12
  ports : List (DieIx × Fin 8)
  deriving DecidableEq, Repr

/-- A fabric or I/O port (R348, R350, R412, R428). -/
structure Port where
  egress    : List Egress := []
  /-- The number of the next packet sent, and the one that the far end's next packet is expected to have; on the I/O port
  the second is that of the I/O die for what the port sends, and the third that of the port for what the I/O die sends. -/
  seqOut    : BitVec 12 := 0
  seqIn     : BitVec 12 := 0
  hostIn    : BitVec 12 := 0
  replays   : BitVec 32 := 0
  run       : Nat := 0
  down      : Bool := false
  threshold : BitVec 32 := 0
  armed     : Bool := false
  /-- LCTL command in progress, LSTAT's bits, LMAP. -/
  command   : Option (BitVec 64) := none
  last      : BitVec 4 := 0
  doneBit   : Bool := false
  err       : Bool := false
  paused    : Bool := false
  busy      : Bool := false
  lmap      : BitVec 64 := 0
  deriving DecidableEq, Repr

/-- A crust widening on its way to the crust's slice (R290): element value and place. -/
structure Widening where
  /-- The request whose acknowledgement waits for it. -/
  req    : Option Nat
  /-- The home of the write, and the die of the crust. -/
  home   : DieIx := 0
  die    : DieIx
  crust  : Nat
  dh     : Nat
  chan   : Nat
  value  : BitVec 16
  /-- The virtual address of the crust under the write's leaf. -/
  va     : Word := 0
  deriving DecidableEq, Repr

/-- A compute die (R13). -/
structure Die where
  id      : BitVec 12 := 0
  tiles   : Vector Tile 64
  dram    : Mem := []
  /-- Sectors marked poisoned; sectors with an error in one symbol, which the next fill corrects and counts (R250). -/
  poison  : List Nat := []
  flaws   : List Nat := []
  slices  : List CacheSector := []
  races   : List (Nat × RaceRec) := []
  ctxs    : Vector CtxDie 16 := Vector.replicate 16 {}
  dits    : Vector (Vector (BitVec 12) 4096) 4 := Vector.replicate 4 (Vector.replicate 4096 0)
  partid  : Byte := 0
  plist   : BitVec 4096 := 0
  /-- The barrier home chosen since the loss of the first one (R403). -/
  homeId  : Option (BitVec 12) := none
  ctxstat : Word := 0
  irqval  : Word := 0
  /-- REQSTAT bits IBUSY, IDROP, NOTASK, PBAD, PDONE. -/
  ibusy   : Bool := false
  idrop   : Bool := false
  notask  : Bool := false
  pbad    : Bool := false
  pbusy   : Bool := false
  pdone   : Bool := false
  tcrec   : Word := 0
  tcode   : BitVec 4 := 0
  tbusy   : Bool := false
  atmode  : Bool := true
  wbbusy  : Bool := false
  wbdone  : Bool := false
  dramce  : BitVec 32 := 0
  access  : Vector (Vector (BitVec 128) 16) 7 := Vector.replicate 7 (Vector.replicate 16 0)
  accessLo : Vector (Vector Word 16) 7 := Vector.replicate 7 (Vector.replicate 16 0)
  routes  : Vector Word 1024 := Vector.replicate 1024 0
  tlb2    : List TlbEntry := []
  itlb    : List TlbEntry := []
  gen     : BitVec 16 := 0
  ports   : Vector Port 8 := Vector.replicate 8 {}
  thresher : Option Thresher := none
  meas    : BitVec 16 := 0
  hot     : Bool := false
  step    : BitVec 4 := 15
  tokens  : Byte := 111
  dcap    : Byte := 255
  deriving DecidableEq, Repr

/-! ### The package -/

/-- What leaves the package: host interrupts, completion words, link events, attestation reports, declared dies,
links held down. -/
inductive Report where
  | hostInterrupt (vector : Nat)
  | linkEvent (d : DieIx) (p : Fin 8)
  | linkDown (d : DieIx) (p : Fin 8)
  | attestation (bytes : List Byte)
  | attestationRefused
  | hostRead (bytes : List Byte)
  | hostRefused
  deriving DecidableEq, Repr

/-- Whether it goes to the host over the Oshel link; the others are for the management controller. -/
def Report.toHost : Report → Bool
  | .linkEvent .. | .linkDown .. => false
  | _ => true

/-- The boot status that the I/O die registers report (R439, R440). -/
inductive BootStatus where
  /-- Powered off, or no boot ROM running. -/
  | off
  /-- The ROM waits for a firmware image. -/
  | waiting
  | tooLarge | badKey | badSignature | oldVersion
  | running
  | keyExhausted
  deriving DecidableEq, Repr

/-- The I/O die (R17, R415, R432, R439, R440). -/
structure IoDie where
  dstate  : Vector (BitVec 2) 8 := Vector.replicate 8 0
  boot    : BootStatus := .off
  image   : List Byte := []
  version : BitVec 32 := 0
  filter  : Vector (BitVec 128) 16 := Vector.replicate 16 0
  /-- The sequence numbers of the next packets to and from the host on the Oshel link (R432). -/
  oshelOut : BitVec 12 := 0
  oshelIn  : BitVec 12 := 0
  /-- Next leaf index of the identity key, nonvolatile (R440). -/
  leaf    : Nat := 0
  reports : List Report := []
  deriving DecidableEq, Repr

/-- A turn of the agenda: a tile of the package moves, or something arrives from outside or at a time that the
outside decides. -/
inductive Turn where
  | run (d : DieIx) (t : TileIx)
  | event (i : Instr)
  deriving DecidableEq, Repr

/-- How the accesses stand that a row makes at once: their ways are open so far, one of them waits, or the row is one that
waits for none. -/
inductive Ways where
  | clear | waits | passed
  deriving DecidableEq, Repr

/-- The package. -/
structure State where
  dies    : Vector Die 8
  io      : IoDie := {}
  host    : Mem := []
  reqs    : List Req := []
  widen   : List Widening := []
  /-- Routes of the flows with packets in flight (R372). -/
  flows   : List Flow := []
  /-- The model's own fields: which tile and agent move, what comes next, a count of requests made. -/
  die     : DieIx := 0
  tile    : TileIx := 0
  agent   : Agent := .cc
  agenda  : List Turn := []
  nextReq : Nat := 0
  /-- The model's own: the ways of the accesses that the present row makes at once; `clear` between rows. -/
  ways    : Ways := .clear
  deriving DecidableEq, Repr

/-! ### Reset -/

/-- A tile after package cold reset: POSN holds its fused tile index (R28), everything else its Reset value. -/
def Tile.reset (t : TileIx) : Tile :=
  { posn := BitVec.ofNat 32 (t.val * 2 ^ 24) }

/-- A compute die after package cold reset, at its fused local position; its ID is that of package (0, 0, 0) until
boot firmware gives the package its coordinates (R19, log 1). -/
def Die.reset (d : DieIx) : Die :=
  { id := BitVec.ofNat 12 (d.val % 2 * 256 + d.val / 2 % 2 * 16 + d.val / 4)
    tiles := Vector.ofFn Tile.reset }

/-- The package after cold reset: no compute die is live, no context is present and nothing runs; the I/O die waits
for power-good (R415, R439, R441). -/
def State.reset : State := { dies := Vector.ofFn Die.reset }

end Sys2Proof.Machine
end

