-- ==== Sys2Proof/Machine/Ops.lean ====
section
/-!
DEFINITION. The named operations that the meanings share: bytes of a memory, the tile and the die that move, the
register files, results in flight and the semaphores they post to, and taking a precise trap.
-/
namespace Sys2Proof

/-- The index of an agent among the sequencers. -/
def Agent.seqIx : Agent → Fin 4
  | .cc | .ve => 0
  | .me => 1
  | .le => 2
  | .se => 3

/-- The index of an agent among the activity counters (R413). -/
def Agent.ix : Agent → Fin 5
  | .cc => 0 | .ve => 1 | .me => 2 | .le => 3 | .se => 4

/-- The phase of a tile cycle in which an agent issues. -/
def Agent.phase : Agent → Machine.Phase
  | .cc => .cc | .ve => .ve | .me => .me | .le => .le | .se => .se

/-- The value of TVAL for an illegal encoding (R72). -/
def Failure.tval (f : Failure) : Word := BitVec.ofNat 64 (f.reason * 2 ^ 16 + f.bit)

namespace Machine

/-! ### Memories (R2, R240, R246, R250) -/

/-- What address a holds: an unlisted byte reads as 0x00, the scrub value (R12). -/
def Mem.read (m : Mem) (a : Nat) : Byte :=
  match m with
  | [] => 0
  | c :: m => if c.1 = a then c.2 else Mem.read m a

/-- The n bytes from a on of a memory that lists no address below a. -/
def Mem.fill (m : Mem) (a : Nat) : Nat → List Byte
  | 0 => []
  | n + 1 =>
    match m with
    | [] => 0 :: Mem.fill [] (a + 1) n
    | c :: m' => if c.1 = a then c.2 :: Mem.fill m' (a + 1) n else 0 :: Mem.fill m (a + 1) n

/-- The n bytes from a on. -/
def Mem.bytes (m : Mem) (a n : Nat) : List Byte :=
  Mem.fill (m.filter fun c => decide (a ≤ c.1) && decide (c.1 < a + n)) a n

/-- The cells that bytes at a make: one for each byte that differs from 0x00. -/
def Mem.cells (a : Nat) : List Byte → Mem
  | [] => []
  | b :: bs => if b = 0 then Mem.cells (a + 1) bs else (a, b) :: Mem.cells (a + 1) bs

/-- Writes bytes from a on. -/
def Mem.write (m : Mem) (a : Nat) (bs : List Byte) : Mem :=
  (m.filter fun c => decide (c.1 < a)) ++ Mem.cells a bs ++ m.filter fun c => decide (a + bs.length ≤ c.1)

/-- The canonical form: addresses strictly rise and no listed byte is 0x00. -/
def Mem.wf : Mem → Bool
  | [] => true
  | c :: m => decide (c.2 ≠ 0) && (m.all fun d => decide (c.1 < d.1)) && Mem.wf m

/-- The value of the n bytes from a on (R2). -/
def Mem.value (m : Mem) (a n : Nat) : Nat := valueOf (m.bytes a n)

/-- Writes a value of n bytes from a on (R2). -/
def Mem.put (m : Mem) (a n v : Nat) : Mem := m.write a (bytesOf n v)

/-- The memory with every byte from a to a + n - 1 zero. -/
def Mem.clear (m : Mem) (a n : Nat) : Mem := m.filter fun c => decide (c.1 < a) || decide (a + n ≤ c.1)

/-- The cells of a memory in a range. -/
def Mem.part (m : Mem) (a n : Nat) : Mem := m.filter fun c => decide (a ≤ c.1) && decide (c.1 < a + n)

/-- The cells that rise from lo on and stay below hi: all of them, when they are those of a range in canonical form. -/
def Mem.rising (lo hi : Nat) : Mem → Mem
  | [] => []
  | c :: m => if lo ≤ c.1 ∧ c.1 < hi ∧ c.2 ≠ 0 then c :: Mem.rising (c.1 + 1) hi m else Mem.rising lo hi m

/-- A memory whose n bytes from base on are replaced by cells of that range. -/
def Mem.splice (m : Mem) (base n : Nat) (cells : Mem) : Mem :=
  (m.filter fun c => decide (c.1 < base)) ++ Mem.rising base (base + n) cells ++ m.filter fun c => decide (base + n ≤ c.1)

/-- The bytes of a vector, lowest first (R91). -/
def vecBytes (v : Vec) : List Byte := bytesOf 512 v.toNat

/-- The vector that 512 bytes make. -/
def vecOf (bs : List Byte) : Vec := BitVec.ofNat 4096 (valueOf bs)

/-! ### Vectors of registers -/

/-- Element i of a fixed number of like things. -/
abbrev nth {α : Type} {n : Nat} (v : Vector α n) (i : Fin n) : α := v.get i

/-- The same with element i replaced. -/
def upd {α : Type} {n : Nat} (v : Vector α n) (i : Fin n) (x : α) : Vector α n := v.set i.val x i.isLt

/-! ### The die and the tile that move -/

/-- Die d. -/
def State.dieAt (s : State) (d : DieIx) : Die := nth s.dies d

/-- Die d replaced. -/
def State.setDie (s : State) (d : DieIx) (x : Die) : State := { s with dies := upd s.dies d x }

/-- Die d changed by f. -/
def State.modDie (s : State) (d : DieIx) (f : Die → Die) : State := s.setDie d (f (s.dieAt d))

/-- Tile t of die d. -/
def State.tileAt (s : State) (d : DieIx) (t : TileIx) : Tile := nth (s.dieAt d).tiles t

/-- Tile t of a die replaced. -/
def Die.setTile (x : Die) (t : TileIx) (y : Tile) : Die := { x with tiles := upd x.tiles t y }

/-- Tile t of die d replaced. -/
def State.setTile (s : State) (d : DieIx) (t : TileIx) (x : Tile) : State := s.modDie d fun y => y.setTile t x

/-- Tile t of die d changed by f. -/
def State.modTile (s : State) (d : DieIx) (t : TileIx) (f : Tile → Tile) : State := s.setTile d t (f (s.tileAt d t))

/-- The tile that moves. -/
def State.here (s : State) : Tile := s.tileAt s.die s.tile

/-- The tile that moves, changed by f. -/
def State.modHere (s : State) (f : Tile → Tile) : State := s.modTile s.die s.tile f

/-- The die of the tile that moves. -/
def State.hereDie (s : State) : Die := s.dieAt s.die

/-- Context entry q of die d. -/
def State.ctxAt (s : State) (d : DieIx) (q : Fin 16) : CtxDie := nth (s.dieAt d).ctxs q

/-- Context entry q of die d changed by f. -/
def State.modCtx (s : State) (d : DieIx) (q : Fin 16) (f : CtxDie → CtxDie) : State :=
  s.modDie d fun x => { x with ctxs := upd x.ctxs q (f (nth x.ctxs q)) }

/-- The queue index of the present context with this CTXID on a die (R32, R207). -/
def Die.findCtx (x : Die) (ctxid : BitVec 16) : Option (Fin 16) :=
  (List.finRange 16).find? fun q => decide ((nth x.ctxs q).entry.state ≠ 0) && decide ((nth x.ctxs q).entry.ctxid = ctxid)

/-- The die with ID `id`, if the package holds it (R18, R25). -/
def State.findDie (s : State) (id : BitVec 12) : Option DieIx :=
  (List.finRange 8).find? fun d => decide ((s.dieAt d).id = id)

/-- Whether a compute die is live (R415). -/
def State.live (s : State) (d : DieIx) : Bool := decide (nth s.io.dstate d = 2)

/-- Whether a compute die has been declared lost (R415). -/
def State.lost (s : State) (d : DieIx) : Bool := decide (nth s.io.dstate d = 3)

/-! ### Scalar registers (R115) -/

/-- x_i; x0 reads as zero. -/
def CcState.readX (c : CcState) (i : Fin 32) : Word := if i = 0 then 0 else nth c.x i

/-- Writes x_i; a write of x0 is discarded. -/
def CcState.writeX (c : CcState) (i : Fin 32) (v : Word) : CcState := if i = 0 then c else { c with x := upd c.x i v }

/-! ### The active and the shadow bank set (R240) -/

/-- The active bank set. -/
def Tile.active (t : Tile) : BankSet := if t.roleB then t.setB else t.setA

/-- The shadow bank set. -/
def Tile.shadow (t : Tile) : BankSet := if t.roleB then t.setA else t.setB

/-- The active bank set replaced. -/
def Tile.setActive (t : Tile) (b : BankSet) : Tile := if t.roleB then { t with setB := b } else { t with setA := b }

/-- The shadow bank set replaced. -/
def Tile.setShadow (t : Tile) (b : BankSet) : Tile := if t.roleB then { t with setA := b } else { t with setB := b }

/-- n bytes at a scratchpad offset; offsets from 0x20_0000 name the shadow set (R129). -/
def Tile.spBytes (t : Tile) (off n : Nat) : List Byte :=
  if off < 0x200000 then t.active.bytes.bytes off n else t.shadow.bytes.bytes (off - 0x200000) n

/-- Bytes written at a scratchpad offset. -/
def Tile.spWrite (t : Tile) (off : Nat) (bs : List Byte) : Tile :=
  if off < 0x200000 then t.setActive { t.active with bytes := t.active.bytes.write off bs }
  else t.setShadow { t.shadow with bytes := t.shadow.bytes.write (off - 0x200000) bs }

/-- Bytes of the active set that remote writes change between two cycles, noted with their former values (R80, R299). -/
def Tile.noteUndo (t : Tile) (cells : List (Nat × Byte)) : Tile :=
  let old := (cells.filter fun c => decide (c.1 < 0x200000)).map fun c => (c.1, t.active.bytes.read c.1)
  { t with undo := t.undo ++ old, undoNext := t.undoNext ++ old }

/-- n bytes at an offset of the active set as they stood at the end of the cycle before the previous one (R80). -/
def Tile.snapshot (t : Tile) (off n : Nat) : List Byte :=
  (List.range n).map fun i => ((t.undo.find? fun c => decide (c.1 = off + i)).map (·.2)).getD (t.active.bytes.read (off + i))

/-- Tag entry e of a bank set (R244). -/
def BankSet.tag (b : BankSet) (e : Nat) : TagEntry := ((b.tags.find? fun p => decide (p.1 = e)).map (·.2)).getD {}

/-- Tag entry e replaced; an entry all of whose fields are 0 is not listed. -/
def BankSet.setTag (b : BankSet) (e : Nat) (x : TagEntry) : BankSet :=
  let low := b.tags.filter fun p => decide (p.1 < e)
  let high := b.tags.filter fun p => decide (e < p.1)
  { b with tags := low ++ (if x = {} then [] else [(e, x)]) ++ high }

/-- Whether bank word w is covered by a valid entry (R244). -/
def BankSet.covers (b : BankSet) (w : Nat) : Bool :=
  b.tags.any fun p => p.2.valid && decide (p.2.sbase.toNat ≤ w) && decide (w < p.2.sbase.toNat + p.2.slen.toNat)

/-! ### The window of a tile (R26, R242, R244) -/

/-- The 128 bits of a tag entry (R244). -/
def TagEntry.value (x : TagEntry) : Nat :=
  x.tag.toNat + x.sbase.toNat * 2 ^ 81 + x.slen.toNat * 2 ^ 96 + x.valid.toNat * 2 ^ 112

/-- The tag entry that 128 bits make; reserved bits are dropped. -/
def TagEntry.ofValue (v : Nat) : TagEntry :=
  { valid := v.testBit 112, slen := BitVec.ofNat 16 (v / 2 ^ 96), sbase := BitVec.ofNat 15 (v / 2 ^ 81), tag := BitVec.ofNat 64 v }

/-- Byte i of a tag table. -/
def BankSet.tagByte (b : BankSet) (i : Nat) : Byte := BitVec.ofNat 8 ((b.tag (i / 16)).value / 2 ^ (8 * (i % 16)))

/-- Byte i of a tag table written. -/
def BankSet.setTagByte (b : BankSet) (i : Nat) (v : Byte) : BankSet :=
  let old := (b.tag (i / 16)).value
  let k := 8 * (i % 16)
  b.setTag (i / 16) (.ofValue (old - old / 2 ^ k % 256 * 2 ^ k + v.toNat * 2 ^ k))

/-- A byte of the tile as its window names it by role: bank sets active and shadow below 0x40_0000, their tag tables from
there and from 0x40_4000, the silo from 0x60_0000. -/
def Tile.winByte (t : Tile) (a : Nat) : Byte :=
  if a < 0x200000 then t.active.bytes.read a
  else if a < 0x400000 then t.shadow.bytes.read (a - 0x200000)
  else if a < 0x404000 then t.active.tagByte (a - 0x400000)
  else if a < 0x408000 then t.shadow.tagByte (a - 0x404000)
  else t.silo.read (a - 0x600000)

/-- A byte written at a window address by role. -/
def Tile.winWrite (t : Tile) (a : Nat) (v : Byte) : Tile :=
  if a < 0x400000 then t.spWrite a [v]
  else if a < 0x404000 then t.setActive (t.active.setTagByte (a - 0x400000) v)
  else if a < 0x408000 then t.setShadow (t.shadow.setTagByte (a - 0x404000) v)
  else { t with silo := t.silo.write (a - 0x600000) [v] }

/-- The window address by role of a window offset: a leaf with ROLE names the sets by role, any other by A and B; the
tag tables are named by A and B (R242, R244). -/
def Tile.byRole (t : Tile) (role : Bool) (off : Nat) : Nat :=
  if off < 0x400000 then
    if role || !t.roleB then off else if off < 0x200000 then off + 0x200000 else off - 0x200000
  else if off < 0x408000 then
    if !t.roleB then off else if off < 0x404000 then off + 0x4000 else off - 0x4000
  else off

/-! ### Trap status (R210) -/

/-- Handler nesting, DEPTH. -/
def TrapRegs.depth (r : TrapRegs) : Nat := (r.tstat.extractLsb' 4 2).toNat

/-- HALT: the sequencers are held by a stop. -/
def TrapRegs.halt (r : TrapRegs) : Bool := r.tstat.getLsbD 3

/-- TVEC.ADDR is 0: there is no handler (R211, R213). -/
def TrapRegs.noHandler (r : TrapRegs) : Bool := decide (r.tvec.extractLsb' 4 52 = 0)

/-- The number of a level in TSTAT.PLV and the frame. -/
def Level.bit : Level → Nat
  | .task => 0
  | .system => 1

/-- The level that a bit names. -/
def Level.ofBit (b : Bool) : Level := if b then .system else .task

/-- The number of an agent in TSTAT.AGENT; 5 for none (R210). -/
def agentCode : Option Agent → Nat
  | some .cc => 0 | some .ve => 1 | some .me => 2 | some .le => 3 | some .se => 4 | none => 5

/-- The number of a kind in TSTAT.KIND (R210). -/
def TrapKind.code : TrapKind → Nat
  | .precise => 1 | .iteration => 2 | .dueCycle => 3 | .asynchronous => 4 | .taskEnding => 5

/-- TSTAT of its fields (R210). IPND is not held here: reading TSTAT adds it. -/
def tstatOf (plv halt : Bool) (depth : Nat) (pend : Bool) (kind agent : Nat) (offs : BitVec 16) : Word :=
  BitVec.ofNat 64
    (plv.toNat + halt.toNat * 8 + depth * 16 + pend.toNat * 256 + kind * 2 ^ 16 + agent * 2 ^ 20 + offs.toNat * 2 ^ 32)

/-- Whether a further faulted result waits among the pending arrivals of the tile (R210). -/
def State.pendingFault (s : State) (d : DieIx) (t : TileIx) : Bool :=
  s.reqs.any fun r => decide (r.die = d) && decide (r.tile = t) && !r.orphan && decide (r.ctxid = (s.tileAt d t).cc.ctxid)
    && r.captured.isSome && r.resp.fault.isSome

/-- The trap registers as a trap writes them, level `l` being left and `tepc` the resume address; `nested` for a trap
taken with DEPTH = 2 (R213, R214). -/
def TrapRegs.write (r : TrapRegs) (x : Trap) (l : Level) (tepc : Word) (pend nested deeper : Bool) : TrapRegs :=
  { r with
    tcause := if nested then 0x000D else x.code.setWidth 64
    tval := if nested then x.code.setWidth 64 else x.value
    tepc := tepc &&& 0x00FFFFFFFFFFFFF0#64
    tstat := tstatOf ((x.level.getD l) = .system) r.halt (if nested || !deeper then r.depth else r.depth + 1) pend x.kind.code
      (agentCode x.agent) x.offs }

/-- Entry of a handler: registers written, level system, PC at TVEC (R213). -/
def CcState.enterHandler (c : CcState) (x : Trap) (tepc : Word) (pend : Bool) : CcState :=
  { c with trap := c.trap.write x c.level tepc pend false true, level := .system, pc := c.trap.tvec }

/-! ### Results in flight (R55, R138, R219) -/

/-- A result captured now: its offset r counts from this cycle (R219). -/
def Result.latch (x : Result) : Latch :=
  { r := x.left - 1, agent := x.agent, issued := x.issued, effects := x.effects, post := x.post, sample := x.sample
    fpc := x.fpc, fidx := x.fidx, ew := x.ew }

/-- A captured result on its way again, from the cycle of the first operation after return (R220). -/
def Latch.result (x : Latch) : Result :=
  { agent := x.agent, left := x.r + 1, issued := x.issued, effects := x.effects, post := x.post, sample := x.sample
    fpc := x.fpc, fidx := x.fidx, ew := x.ew }

/-- Adds a result to the tile's results in flight; an operation without effect and post leaves none. -/
def Tile.issue (t : Tile) (x : Result) : Tile :=
  if x.effects = [] ∧ x.post = none ∧ x.sample = none then t else { t with flight := t.flight ++ [x] }

/-- The phase that follows. -/
def Phase.next : Phase → Phase
  | .start => .cc | .cc => .ve | .ve => .me | .me => .le | .le => .se | .se => .finish | .finish => .close | .close => .start

/-- The turn of an agent in this cycle is over. -/
def Tile.turnDone (t : Tile) (ag : Agent) : Tile := if t.phase = ag.phase then { t with phase := t.phase.next } else t

/-- One more active cycle in which the agent issued work (R413). -/
def Tile.drew (t : Tile) (ag : Agent) : Tile := { t with activity := upd t.activity ag.ix (nth t.activity ag.ix + 1) }

/-! ### Semaphores (R70, R394) -/

/-- Whether a wait for n on k is granted. -/
def Tile.canWait (t : Tile) (k : Fin 16) (n : Nat) : Bool := decide (n ≤ (nth t.sems k).count.toNat)

/-- A granted wait. -/
def Tile.takeSem (t : Tile) (k : Fin 16) (n : Nat) : Tile :=
  { t with sems := upd t.sems k { nth t.sems k with count := (nth t.sems k).count - BitVec.ofNat 8 n } }

/-- A post, made at the end of a cycle: made when the count stays within CEIL, else refused. -/
def Tile.postSem (t : Tile) (ag : Agent) (p : Post) (fpc fidx : Word) : Tile :=
  let k := nth t.sems p.k
  if k.count.toNat + p.n.toNat ≤ k.ceil.toNat then
    { t with sems := upd t.sems p.k { k with count := k.count + p.n }, posted := true }
  else { t with refused := t.refused ++ [(ag, p.k, fpc, fidx)] }

/-! ### Precise traps (R73, R137, R138, R213, R214, R223) -/

/-- Whether the tile holds an interrupt: until its stop's handler is entered, an accepted request may still be withdrawn
(R223, R227). -/
def Tile.holdsIrq (t : Tile) : Bool :=
  t.irq.isSome || (match t.stop with
    | some (_, .handler y) => decide (y.code = 0x0040)
    | _ => false)

/-- IPND of TSTAT: an interrupt is held, or a die loss whose stop has been withdrawn (R210, R223). -/
def Tile.ipnd (t : Tile) : Bool := t.holdsIrq || t.lossHeld

/-- The stop of an interrupt or a die loss is withdrawn, and the request is held again (R223). -/
def Tile.rehold (t : Tile) : Tile :=
  match t.stop with
  | some (_, .handler y) =>
    if y.kind = .asynchronous then
      let t := { t with stop := none }
      if y.code = 0x0040 then { t with irq := t.irq <|> some y.value } else { t with dieLost := y.value.setWidth 12 :: t.dieLost, lossHeld := true }
    else t
  | _ => t

/-- A trap that ends the task: the trap registers are written and the tile stops (R213, R214). -/
def State.endingTrap (s : State) (x : Trap) (tepc : Word) (nested : Bool) : State :=
  let pend := s.pendingFault s.die s.tile
  s.modHere fun t =>
    { t with
      cc := { t.cc with trap := t.cc.trap.write x t.cc.level tepc pend nested true, mode := .ended }
      stop := some (((t.stop.map (·.1)).getD t.now), .ending (if nested then 0x000D else x.code) x.fpc x.fidx) }

/-- A trap that stops the tile, in its trigger cycle (R217, R223): it takes the place of an interrupt or a die loss in
whose shadow it falls, is recorded in the stop of a pre-emption or ends its task there when it has no handler to enter, and
otherwise waits while another stop stands. -/
def State.trigger (s : State) (x : Trap) : State :=
  let t := s.here
  let ends := decide (t.cc.trap.depth = 2) || t.cc.trap.noHandler
  let ending : State := (s.modHere Tile.rehold).endingTrap x t.cc.pc (t.cc.trap.depth = 2)
  let start (t0 : Nat) : State := if ends then ending else s.modHere fun t => { t.rehold with stop := some (t0, .handler x) }
  let mark (s : State) : State :=
    if x.kind = .asynchronous then s else s.modHere fun t => { t with faultAt := some t.now }
  match t.stop with
  | none => mark (start t.now)
  | some (t0, .handler y) => if y.kind = .asynchronous then mark (start t0) else s
  | some (t0, .preempt none sus) =>
    mark (if ends then ending else s.modHere fun t => { t with stop := some (t0, .preempt (some x) sus) })
  | _ => s

/-- Taking a precise trap at the word that the control core is to issue; the end of its cycle captures the core's results
in flight. `after`: the trapping forms of trap, whose
resume address is the next word and which let the results of this cycle be written (R137, R138). -/
def State.preciseTrap (s : State) (code : BitVec 16) (value : Word) (after : Bool := false) (fpc : Option Word := none) :
    State :=
  let t := s.here
  let x : Trap := { code, value, kind := .precise, agent := some .cc, fpc := fpc.getD t.cc.pc }
  let tepc := if after then t.cc.pc + 16 else t.cc.pc
  let s1 := if t.cc.trap.depth = 2 then s.endingTrap x tepc true
    else if t.cc.trap.noHandler then s.endingTrap x tepc false
    else s.modHere fun t =>
      let t := t.rehold
      { t with cc := { t.cc with mode := .entering 6 x tepc } }
  s1.modHere fun t => { t with stalled := none }.turnDone .cc

/-- The privilege trap of a pair (R72). -/
def State.privilegeTrap (s : State) (maj fn : Nat) : State := s.preciseTrap 0x0003 (BitVec.ofNat 64 (fn * 256 + maj))

/-! ### Issue of a control-core operation -/

/-- The control core stalls on a condition and issues nothing (R53, R54). -/
def State.stallCc (s : State) (why : Stall) : State := s.modHere fun t => { t with stalled := some why }.turnDone .cc

/-- The word after the one at a; PC[63:56] are always 0 (R115). -/
def nextPc (a : Word) : Word := (a + 16) &&& 0x00FFFFFFFFFFFFFF#64

/-- The word before the one at a. -/
def prevPc (a : Word) : Word := (a - 16) &&& 0x00FFFFFFFFFFFFFF#64

/-- The line of an address (R127). -/
def lineOf (a : Word) : Word := a &&& ~~~63#64

/-- A line is requested ahead unless it is held or requested already (R127). -/
def Tile.requestLine (t : Tile) (a : Word) : Tile :=
  if t.icache.any (fun p => p.1 = lineOf a) ∨ t.fetch.contains (lineOf a) then t
  else { t with fetch := t.fetch ++ [lineOf a] }

/-- The first word of a line, as it issues, requests the next two lines (R127). -/
def Tile.fetchAhead (t : Tile) : Tile :=
  if t.cc.pc.toNat % 64 = 0 then (t.requestLine (t.cc.pc + 64)).requestLine (t.cc.pc + 128) else t

/-- The word at PC issues: PC moves to the next word. -/
def Tile.issueWord (t : Tile) : Tile :=
  let t1 := t.fetchAhead
  { t1 with cc := { t1.cc with pc := nextPc t1.cc.pc, wfeBack := none }, stalled := none }.drew .cc |>.turnDone .cc

/-- The control core's operation: it stalls while its wait is not granted (R70), traps precisely when a check fails,
and otherwise makes its wait and issues; `body` is its effect. A trapping operation makes no wait (R71). -/
def State.ccTry (s : State) (o : Op) (trap : Option (BitVec 16 × Word)) (body : State → State) : State :=
  match o.sw.filter fun k => !s.here.canWait k 1 with
  | some k => s.stallCc (.sem k)
  | none =>
    match trap with
    | some (c, v) => s.preciseTrap c v
    | none =>
      body (s.modHere fun t =>
        match o.sw with
        | some k => (t.takeSem k 1).issueWord
        | none => t.issueWord)

/-- An operation without checks of its own. -/
def State.ccIssue (s : State) (o : Op) (body : State → State) : State := s.ccTry o none body

/-- A result of the control core's operation with latency `lat`, and its post (R70). `pc` is the word's address. -/
def Tile.ccResult (t : Tile) (o : Op) (lat : Nat) (effects : List Effect) (sample : Option (Nat × Sample) := none) : Tile :=
  t.issue { agent := .cc, left := lat, issued := t.now, effects, sample
            post := o.sp.map fun k => { k }, fpc := prevPc t.cc.pc }

/-- An operation that writes its results after `lat` active cycles. -/
def State.ccWrite (s : State) (o : Op) (lat : Nat) (effects : List Effect) : State :=
  s.ccIssue o fun s => s.modHere fun t => t.ccResult o lat effects

/-! ### Requests (R269) -/

/-- A segment close is due to wait: it would bring SEG to SFLOOR + 1,024 (R312). -/
def Tile.segmentsFull (t : Tile) : Bool := decide (1023 ≤ (t.seg - t.sfloor).toNat)

/-- The moving tile is frozen before a segment close (R312). -/
def State.awaitSweep (s : State) : State := s.modHere fun t => { t with closing := true }

/-- What a request asks beyond its kind. -/
structure Ask where
  kind     : ReqKind
  arrival  : Nat
  pieces   : List Piece := []
  d        : List (Fin 32) := []
  post     : Option Post := none
  release  : Option (BitVec 2) := none
  acquire  : Bool := false
  /-- Its issue closes the tile's segment; it carries the one that the close ends. -/
  closes   : Bool := false
  sampling : List (Nat × Nat) := []
  operand  : List Byte := []
  fpc      : Word := 0
  fidx     : Word := 0
  /-- The due cycle of a scheduled iteration: its slot's cycle and its arrival offset (R346, R369). -/
  due      : Option Nat := none

/-- The request of an agent of the moving tile in its present cycle. -/
def State.newRequest (s : State) (ag : Agent) (a : Ask) : Req :=
  let t := s.here
  { id := s.nextReq, die := s.die, tile := s.tile, agent := ag, level := t.cc.level, ctxid := t.cc.ctxid, asid := t.cc.asid
    issued := t.now, due := (a.due.getD (t.now + a.arrival)), offs := BitVec.ofNat 16 a.arrival, kind := a.kind, d := a.d, post := a.post
    fpc := a.fpc, fidx := a.fidx, release := a.release, acquire := a.acquire, seg := t.seg, pieces := a.pieces
    sampling := a.sampling, operand := a.operand, target := s.die
    stage := match a.kind with
      | .delay _ => .landed
      | _ => .issued
    resp := match a.kind with
      | .delay f => { fault := f }
      | _ => {} }

/-- A request is issued. -/
def State.request (s : State) (ag : Agent) (a : Ask) : State :=
  let r := s.newRequest ag a
  let s := { s with reqs := s.reqs ++ [r], nextReq := s.nextReq + 1 }
  if a.closes then s.modHere fun t => { t with seg := t.seg + 1 } else s

end Machine

end Sys2Proof
end

