-- ==== Sys2Proof/Machine/Operands.lean ====
section
/-!
DEFINITION. Every operand form: scalar operands and their literals (R68, R92), element types in memory (R128), vector
and mask operands, loop indices and stream registers (R145 to R154), address generation (R76, R185), and lanes.
-/
namespace Sys2Proof

/-- The index of a scalar register operand. -/
def Operand.xIx : Operand → Fin 32
  | .x i => i
  | _ => 0

/-- The index of a vector register operand. -/
def Operand.vIx : Operand → Fin 32
  | .v i => i
  | _ => 0

/-- The index of a mask operand. -/
def Operand.qIx : Operand → Fin 8
  | .q i => i
  | _ => 0

/-- The stream register that an operand names. -/
def Operand.stream : Operand → Option (Fin 8)
  | .s i => some i
  | _ => none

/-- The address-generator slot that an operand names. -/
def Operand.slot (t : Tail) : Operand → AgSlot
  | .ag 1 => t.ag1
  | .ag 2 => t.ag2
  | _ => t.ag0

/-- Whether an operand names an address-generator slot. -/
def Operand.isAg : Operand → Bool
  | .ag _ => true
  | _ => false

/-- The n-th register after this one; a group is taken in register order (R145, R280). -/
def xAfter (i : Fin 32) (n : Nat) : Fin 32 := Fin.ofNat 32 (i.val + n)

/-! ### Types as the control core reads ET (R92, R128) -/

/-- Width in bits of a memory access by ET: codes 0, 1, 14 and 15 are 64 bits wide. -/
def ElemType.memWidth (et : ElemType) : Nat := et.ccType.width

/-- Bytes of a memory access by ET. -/
def ElemType.memBytes (et : ElemType) : Nat := et.memWidth / 8

/-- What a load places in the register (R128). -/
def ElemType.extend (et : ElemType) (bs : List Byte) : Word :=
  let v := valueOf bs
  if et.ccType.signed then BitVec.ofNat 64 (lowBits 64 (readInt true et.memWidth v)) else BitVec.ofNat 64 v

/-! ### Lanes -/

/-- The low n elements of width w of a register. -/
def lanes (w n v : Nat) : List Nat := (List.range n).map fun i => v / 2 ^ (w * i) % 2 ^ w

/-- The register whose elements of width w are these. -/
def packLanes (w : Nat) : List Nat → Nat
  | [] => 0
  | x :: xs => x % 2 ^ w + 2 ^ w * packLanes w xs

/-- The vector whose elements are these. -/
def vecOfLanes (w : Nat) (xs : List Nat) : Vec := BitVec.ofNat 4096 (packLanes w xs)

/-- An element copied to every position of a vector. -/
def splat (w e : Nat) : Vec := BitVec.ofNat 4096 ((2 ^ 4096 - 1) / (2 ^ w - 1) * (e % 2 ^ w))

/-- The bits of the elements whose mask bit, from bit `from_` in steps of `step`, is 1. -/
def laneMask (w : Nat) (q : Mask) (from_ step : Nat) : Vec :=
  vecOfLanes w ((List.range (4096 / w)).map fun i => if q.getLsbD (from_ + step * i) then 2 ^ w - 1 else 0)

/-- Every bit. -/
def allBits : Vec := BitVec.allOnes 4096

/-- The bits of mask, taken from data; the rest from old. -/
def mergeBits {n : Nat} (old data mask : BitVec n) : BitVec n := (data &&& mask) ||| (old &&& ~~~mask)

namespace Machine

/-! ### Scalar operands (R68, R118, R121) -/

/-- An integer operand: the register, or the literal sign-extended when LSEL selects this field. -/
def Tile.intOperand (t : Tile) (o : Op) (sel : LitSel) (x : Operand) : Word :=
  if o.lsel = sel then o.lit.signExtend 64 else t.cc.readX x.xIx

/-- A float operand of the type, as an encoding: the low bits of the register, or the literal of R68. -/
def Tile.floatOperand (t : Tile) (o : Op) (sel : LitSel) (x : Operand) : Nat :=
  if o.lsel = sel then
    (match o.et with
     | .f64 => convert ElemType.f64.valueType ElemType.f32.valueType {} o.lit.toNat
     | .f32 => o.lit.toNat
     | _ => o.lit.toNat % 2 ^ 16)
  else (t.cc.readX x.xIx).toNat % 2 ^ o.et.memWidth

/-- The rounding context of a control-core operation: its stochastic word follows the CC row of R108. -/
def Tile.ccRound (t : Tile) (o : Op) : RoundCtx :=
  { mode := roundMode o.mod t.cc.fpctl, sat := o.mod.getLsbD 3, fpctl := t.cc.fpctl
    z := stochastic t.cc.srseed.toNat (2 ^ 63 + (t.cc.pc.toNat / 16) % 2 ^ 52) 0 }

/-- Low(x_a + SExt(LIT, 64), 64): base and offset of scratchpad accesses (R129, R130). -/
def Tile.offsetAddr (t : Tile) (o : Op) : Word := t.cc.readX o.a.xIx + o.lit.signExtend 64

/-! ### Loop indices and addresses (R75, R76, R79, R185) -/

/-- The record in issue, or one begun at this instruction when the sequencer holds none. -/
def Seq.running (q : Seq) (i : Instr) : Running := q.cur.getD { off := 0, word := 0, instr := i }

/-- Loop index lj of the iteration in issue. -/
def Seq.l (q : Seq) (r : Running) (j : Nat) : Nat :=
  match j with
  | 0 => r.l0
  | 1 => r.l1
  | 2 => r.l2
  | 3 => r.l3
  | 4 => (q.loops.head?.map (·.index)).getD 0
  | _ => ((q.loops.drop 1).head?.map (·.index)).getD 0

/-- l0 to l3 as TSTAT's companion FIDX holds them (R231). -/
def Running.fidx (r : Running) : Word :=
  BitVec.ofNat 64 (r.l0 + r.l1 * 2 ^ 16 + r.l2 * 2 ^ 32 + r.l3 * 2 ^ 48)

/-- The linear iteration index t of R190. -/
def Running.linear (r : Running) (t : Tail) : Nat :=
  r.l0 + max t.t0.toNat 1 * (r.l1 + max t.t1.toNat 1 * (r.l2 + max t.t2.toNat 1 * r.l3))

/-- The address of a slot in the iteration with these indices: its bit offset, and the address (R76). -/
def slotAddr (g : Vector Word 16) (sl : AgSlot) (w l0 l1 l2 l3 : Nat) : Nat × Word :=
  let bits : Int := (sl.str0.toInt * l0 + sl.str1.toInt * l1 + sl.str2.toInt * l2 + sl.str3.toInt * l3) * w
  let low := BitVec.ofInt 64 bits
  (low.toNat % 8, nth g sl.bsel + sl.off.setWidth 64 + low.sshiftRight 3)

/-- The address that an address-generator operand yields for the iteration in issue: its bit offset within a byte,
which must be 0, and the address. -/
def Tile.agAddr (t : Tile) (r : Running) (tl : Tail) (et : ElemType) (x : Operand) : Nat × Word :=
  slotAddr t.cc.g (x.slot tl) et.width r.l0 r.l1 r.l2 r.l3

/-! ### Streams (R151 to R153) -/

/-- The head entry can be popped by an agent in this cycle. -/
def Stream.readable (x : Stream) : Bool := !x.popped && decide (0 < x.used) && decide ((nth x.entries x.head).st = .written)

/-- An entry can be reserved by an agent in this cycle. -/
def Stream.writable (x : Stream) : Bool := !x.claimed && decide (x.used < 4)

/-- The index of the tail entry, which a reservation takes. -/
def Stream.tail (x : Stream) : Fin 4 := Fin.ofNat 4 (x.head.val + x.used)

/-- Pops the head; the entry is freed at the end of the cycle. -/
def Stream.pop (x : Stream) : Stream := { x with popped := true }

/-- Reserves the tail entry. -/
def Stream.reserve (x : Stream) : Stream :=
  { x with entries := upd x.entries x.tail { nth x.entries x.tail with st := .reserved }, used := x.used + 1, claimed := true }

/-- The head entry's data. -/
def Stream.front (x : Stream) : Vec := (nth x.entries x.head).data

/-- The end of a cycle: a popped entry is freed. -/
def Stream.endCycle (x : Stream) : Stream :=
  if x.popped then
    { x with entries := upd x.entries x.head { nth x.entries x.head with st := .free }
             head := Fin.ofNat 4 (x.head.val + 1), used := x.used - 1, popped := false, claimed := false }
  else { x with claimed := false }

/-! ### Vector operands (R147 to R150) -/

/-- A vector source: a register, the head of a stream, a literal copied to every element (R68), or a loop index
reduced to the element width (R150). `w` is the width of the operand's elements. -/
def Tile.vecOperand (t : Tile) (q : Seq) (r : Running) (o : Op) (sel : LitSel) (x : Operand) (w : Nat) : Vec :=
  if o.lsel = sel then splat w o.lit.toNat
  else
    match x with
    | .v i => nth t.ve.v i
    | .s i => (nth t.streams i).front
    | .l j => splat w (q.l r j.val)
    | _ => 0

/-- Registers v(i) to v(i + n - 1), their elements of width w in linear order (R145). -/
def Tile.groupLanes (t : Tile) (x : Operand) (n w : Nat) : List Nat :=
  let cols := (List.range n).map fun k => (nth t.ve.v (xAfter x.vIx k)).toNat
  (List.range (n * (4096 / w))).map fun m => (cols.getD (m % n) 0) / 2 ^ (w * (m / n)) % 2 ^ w

/-- The streams among source operands, each once (R152). -/
def streamsOf (xs : List Operand) : List (Fin 8) := (xs.filterMap Operand.stream).eraseDups

/-- The mask that governs an operation: PQ's register, or every element (R69, R148). -/
def Tile.governing (t : Tile) (o : Op) : Mask :=
  match o.pq with
  | some i => nth t.ve.q i
  | none => BitVec.allOnes 1024

/-- The first word of the stochastic generator for a sequencer (R108). -/
def seqW1 (q : Seq) (r : Running) : Nat :=
  r.off / 64 % 2 ^ 15 * 2 ^ 48 + q.l r 5 % 2 ^ 16 * 2 ^ 32 + q.l r 4 % 2 ^ 16 * 2 ^ 16 + r.l3 % 2 ^ 16

/-- The second word, without lane. -/
def seqW2 (r : Running) : Nat := r.l2 % 2 ^ 16 * 2 ^ 48 + r.l1 % 2 ^ 16 * 2 ^ 32 + r.l0 % 2 ^ 16 * 2 ^ 16

/-- The rounding context of an iteration for destination element `lane` (R106, R108, R149). -/
def Tile.laneRound (t : Tile) (q : Seq) (r : Running) (o : Op) (lane : Nat) : RoundCtx :=
  let mode := roundMode o.mod t.cc.fpctl
  { mode, sat := o.mod.getLsbD 3, fpctl := t.cc.fpctl
    z := if mode = 5 then stochastic t.cc.srseed.toNat (seqW1 q r) (seqW2 r + lane * 16) else 0 }

end Machine

end Sys2Proof
end

