-- ==== Sys2Proof/Machine/CcInt.lean ====
section
/-!
DEFINITION. The integer operations of the control core (R118 to R120): each writes one value after the latency of R83.
-/
namespace Sys2Proof.Machine

/-- What a meaning answers. -/
abbrev Out := Host.Outcome State Fault Refusal

/-- An access made at once finds its way closed. -/
def State.await (s : State) : State := { s with ways := .waits }

/-- Whether an access of the row waits for its way. -/
def State.awaits (s : State) : Bool := decide (s.ways = .waits)

/-- A part of a row that waits for no way. -/
def State.atOnce (s : State) : State := { s with ways := .passed }

/-- What comes after such a part. -/
def State.rejoin (s1 s : State) : State := { s1 with ways := s.ways }

/-- What a row comes to: one with an access that waits for its way does not come about yet. -/
def settled (s : State) : Out := if s.awaits then .fault .notEnabled else .next s

/-- A row that a die performs at once: a lost die performs no request, so that it is discarded there (R415). -/
def State.atDie (s : State) (d : DieIx) (s' : State) : Out := if s.lost d then .next s else settled s'

/-- The write of a scalar destination, or of SRSEED when D names it (R118). -/
def scalarEffect (d : Operand) (v : Word) : Effect :=
  match d with
  | .srseed => .seed v
  | _ => .x d.xIx v

/-- An operation on operands A and B with latency `lat`. -/
def State.ccAlu (s : State) (o : Op) (lat : Nat) (f : Word → Word → Word) : State :=
  s.ccWrite o lat [scalarEffect o.d (f (s.here.intOperand o .a o.a) (s.here.intOperand o .b o.b))]

/-- The high 64 bits of a product (R119). -/
def highProduct (signed : Bool) (a b : Word) : Word :=
  if signed then (a.signExtend 128 * b.signExtend 128).extractLsb' 64 64
  else (a.setWidth 128 * b.setWidth 128).extractLsb' 64 64

/-- Signed quotient, truncated toward zero, with the fixed results of R120. -/
def divSigned (a b : Word) : Word := if b = 0 then BitVec.allOnes 64 else a.sdiv b

/-- Signed remainder, with the fixed results of R120. -/
def remSigned (a b : Word) : Word := if b = 0 then a else a.srem b

/-- Unsigned quotient, all ones for b = 0 (R120). -/
def divUnsigned (a b : Word) : Word := if b = 0 then BitVec.allOnes 64 else a.udiv b

/-- Unsigned remainder, a for b = 0 (R120). -/
def remUnsigned (a b : Word) : Word := if b = 0 then a else a.umod b

/-- The count of one bits among the low n bits. -/
def onesCount (w : Nat) : Nat → Nat
  | 0 => 0
  | n + 1 => (w.testBit n).toNat + onesCount w n

/-- The count of zero bits from bit n - 1 down to the first one bit. -/
def leadingZeros (w : Nat) : Nat → Nat
  | 0 => 0
  | n + 1 => if w.testBit n then 0 else 1 + leadingZeros w n

/-- The count of zero bits from bit i up, n bits at most. -/
def trailingZeros (w i : Nat) : Nat → Nat
  | 0 => 0
  | n + 1 => if w.testBit i then 0 else 1 + trailingZeros w (i + 1) n

/-- add (R119). -/
def execAdd (o : Op) (s : State) : Out := .next (s.ccAlu o 1 fun a b => a + b)
/-- sub (R119). -/
def execSub (o : Op) (s : State) : Out := .next (s.ccAlu o 1 fun a b => a - b)
/-- and (R119). -/
def execAnd (o : Op) (s : State) : Out := .next (s.ccAlu o 1 fun a b => a &&& b)
/-- or (R119). -/
def execOr (o : Op) (s : State) : Out := .next (s.ccAlu o 1 fun a b => a ||| b)
/-- xor (R119). -/
def execXor (o : Op) (s : State) : Out := .next (s.ccAlu o 1 fun a b => a ^^^ b)
/-- andn (R119). -/
def execAndn (o : Op) (s : State) : Out := .next (s.ccAlu o 1 fun a b => a &&& ~~~b)
/-- sll (R119). -/
def execSll (o : Op) (s : State) : Out := .next (s.ccAlu o 1 fun a b => a <<< (b.toNat % 64))
/-- srl (R119). -/
def execSrl (o : Op) (s : State) : Out := .next (s.ccAlu o 1 fun a b => a >>> (b.toNat % 64))
/-- sra (R119). -/
def execSra (o : Op) (s : State) : Out := .next (s.ccAlu o 1 fun a b => a.sshiftRight (b.toNat % 64))
/-- rotl (R119). -/
def execRotl (o : Op) (s : State) : Out := .next (s.ccAlu o 1 fun a b => a.rotateLeft (b.toNat % 64))
/-- min (R119). -/
def execMin (o : Op) (s : State) : Out := .next (s.ccAlu o 1 fun a b => if b.slt a then b else a)
/-- max (R119). -/
def execMax (o : Op) (s : State) : Out := .next (s.ccAlu o 1 fun a b => if a.slt b then b else a)
/-- minn (R119). -/
def execMinn (o : Op) (s : State) : Out := .next (s.ccAlu o 1 fun a b => if b.ult a then b else a)
/-- maxn (R119). -/
def execMaxn (o : Op) (s : State) : Out := .next (s.ccAlu o 1 fun a b => if a.ult b then b else a)
/-- mul (R119). -/
def execMul (o : Op) (s : State) : Out := .next (s.ccAlu o 3 fun a b => a * b)
/-- mulh (R119). -/
def execMulh (o : Op) (s : State) : Out := .next (s.ccAlu o 3 (highProduct true))
/-- mulhn (R119). -/
def execMulhn (o : Op) (s : State) : Out := .next (s.ccAlu o 3 (highProduct false))
/-- div (R119, R120). -/
def execDiv (o : Op) (s : State) : Out := .next (s.ccAlu o 24 divSigned)
/-- divn (R119, R120). -/
def execDivn (o : Op) (s : State) : Out := .next (s.ccAlu o 24 divUnsigned)
/-- rem (R119, R120). -/
def execRem (o : Op) (s : State) : Out := .next (s.ccAlu o 24 remSigned)
/-- remn (R119, R120). -/
def execRemn (o : Op) (s : State) : Out := .next (s.ccAlu o 24 remUnsigned)
/-- clz (R119). -/
def execClz (o : Op) (s : State) : Out := .next (s.ccAlu o 1 fun a _ => BitVec.ofNat 64 (leadingZeros a.toNat 64))
/-- ctz (R119). -/
def execCtz (o : Op) (s : State) : Out := .next (s.ccAlu o 1 fun a _ => BitVec.ofNat 64 (trailingZeros a.toNat 0 64))
/-- popc (R119). -/
def execPopc (o : Op) (s : State) : Out := .next (s.ccAlu o 1 fun a _ => BitVec.ofNat 64 (onesCount a.toNat 64))
/-- sel (R119). -/
def execSel (o : Op) (s : State) : Out :=
  .next (s.ccAlu o 1 fun a b => if s.here.cc.readX o.c.xIx ≠ 0 then a else b)
/-- cmp (R120). -/
def execCmp (o : Op) (s : State) : Out :=
  .next (s.ccAlu o 1 fun a b => if condInt o.sub.toNat a b then 1 else 0)
/-- li (R119). -/
def execLi (o : Op) (s : State) : Out := .next (s.ccWrite o 1 [.x o.d.xIx (o.lit.signExtend 64)])
/-- lih: the low half of the register named by D stays (R119). -/
def execLih (o : Op) (s : State) : Out :=
  .next (s.ccWrite o 1 [.x o.d.xIx (o.lit ++ (s.here.cc.readX o.d.xIx).setWidth 32)])
/-- lea (R119). -/
def execLea (o : Op) (s : State) : Out :=
  .next (s.ccAlu o 1 fun a b => a + (b <<< o.sub.toNat) + o.lit.signExtend 64)

end Sys2Proof.Machine
end

