-- ==== Sys2Proof/Machine/CcBranch.lean ====
section
/-!
DEFINITION. The branch operations (R124 to R127).
-/
namespace Sys2Proof.Machine

/-- The b register that an operand names. -/
def bIx : Operand → Fin 4
  | .b i => i
  | _ => 0

/-- Whether a branch target is bad (R125). -/
def badTarget (w : Word) : Bool := decide (w.toNat % 16 ≠ 0) || decide (2 ^ 56 ≤ w.toNat)

/-- A taken branch: the bad-branch-target trap, or the link, if any, and PC at the target (R125). -/
def State.ccJump (s : State) (o : Op) (link : List Effect) (target : Word) : State :=
  s.ccTry o (if badTarget target then some (0x0006, target) else none) fun s =>
    s.modHere fun t =>
      let t := t.ccResult o 1 link
      { t with cc := { t.cc with pc := target } }

/-- pbr's request of the line that holds the target and the line after it (R127). -/
def State.ccPrepare (s : State) (o : Op) (target : Word) : State :=
  s.ccIssue o fun s => s.modHere fun t =>
    ((t.ccResult o 2 [.b (bIx o.d) target]).requestLine target).requestLine (target + 64)

/-- pbr: a target relative to the word (R125). -/
def execPbr (o : Op) (s : State) : Out := .next (s.ccPrepare o (s.here.cc.pc + o.lit.signExtend 64))
/-- pbr.reg: a target relative to x_a (R125). -/
def execPbrReg (o : Op) (s : State) : Out := .next (s.ccPrepare o (s.here.offsetAddr o))
/-- bcc: SUB 15 is always taken; the others compare x_b with zero (R125). The assembly's xa stands in field B (R124). -/
def execBcc (o : Op) (s : State) : Out :=
  let taken := o.sub = 15 ∨ condInt o.sub.toNat (s.here.cc.readX o.b.xIx) 0
  .next (if taken then s.ccJump o [] (nth s.here.cc.b (bIx o.a)) else s.ccWrite o 1 [])
/-- jal (R125). -/
def execJal (o : Op) (s : State) : Out :=
  .next (s.ccJump o [.x o.d.xIx (s.here.cc.pc + 16)] (s.here.cc.pc + o.lit.signExtend 64))
/-- jalr (R125). -/
def execJalr (o : Op) (s : State) : Out :=
  .next (s.ccJump o [.x o.d.xIx (s.here.cc.pc + 16)] (nth s.here.cc.b (bIx o.a)))

end Sys2Proof.Machine
end

