-- ==== Sys2Proof/Machine/CcFloat.lean ====
section
/-!
DEFINITION. The scalar float operations (R121 to R123).
-/
namespace Sys2Proof.Machine

/-- A float operation on encodings: its result is placed in the low bits of x_d, the rest cleared (R92). -/
def State.ccFloat (s : State) (o : Op) (lat : Nat) (f : Fmt → RoundCtx → Nat → Nat → Nat → Nat) : State :=
  let t := s.here
  let v := f o.et.fmt (t.ccRound o) (t.floatOperand o .a o.a) (t.floatOperand o .b o.b) (t.floatOperand o .c o.c)
  s.ccWrite o lat [.x o.d.xIx (BitVec.ofNat 64 v)]

/-- fadd (R122). -/
def execFadd (o : Op) (s : State) : Out := .next (s.ccFloat o 4 fun f c a b _ => floatAdd f c a b)
/-- fsub (R122). -/
def execFsub (o : Op) (s : State) : Out := .next (s.ccFloat o 4 fun f c a b _ => floatSub f c a b)
/-- fmul (R122). -/
def execFmul (o : Op) (s : State) : Out := .next (s.ccFloat o 4 fun f c a b _ => floatMul f c a b)
/-- fdiv (R122). -/
def execFdiv (o : Op) (s : State) : Out := .next (s.ccFloat o 20 fun f c a b _ => floatDiv f c a b)
/-- fsqrt (R122). -/
def execFsqrt (o : Op) (s : State) : Out := .next (s.ccFloat o 22 fun f c a _ _ => floatSqrt f c a)
/-- ffma (R122). -/
def execFfma (o : Op) (s : State) : Out := .next (s.ccFloat o 4 fun f c a b d => floatFma f c false false a b d)
/-- fmin (R96, R122). -/
def execFmin (o : Op) (s : State) : Out := .next (s.ccFloat o 2 fun f c a b _ => f.select c false a b)
/-- fmax (R96, R122). -/
def execFmax (o : Op) (s : State) : Out := .next (s.ccFloat o 2 fun f c a b _ => f.select c true a b)
/-- fcmp (R122). -/
def execFcmp (o : Op) (s : State) : Out :=
  .next (s.ccFloat o 2 fun f c a b _ => (condFloat f c o.sub.toNat a b).toNat)
/-- fcvt (R104, R123): the source type is in SUB[3:0]. -/
def execFcvt (o : Op) (s : State) : Out :=
  let st := (ElemType.ofCode (o.sub.setWidth 4)).ccType
  let a := (s.here.cc.readX o.a.xIx).toNat % 2 ^ st.width
  .next (s.ccWrite o 3 [.x o.d.xIx (BitVec.ofNat 64 (convert o.et.ccType st (s.here.ccRound o) a))])

end Sys2Proof.Machine
end

