-- ==== Sys2Proof/Machine/CcMem.lean ====
section
/-!
DEFINITION. The control core's scratchpad and landing-slot accesses (R128 to R131).
-/
namespace Sys2Proof.Machine

/-- The checks of ld and st on their address, in the order of R129. -/
def spCheck (lvl : Level) (et : ElemType) (maj fn : Nat) (a : Word) : Option (BitVec 16 × Word) :=
  if 0x400000 ≤ a.toNat then some (0x0005, a)
  else if 0x200000 ≤ a.toNat ∧ lvl = .task then some (0x0003, BitVec.ofNat 64 (fn * 256 + maj))
  else if a.toNat % et.memBytes ≠ 0 then some (0x0004, a)
  else none

/-- The landing slot that SUB names. -/
def slotIx (o : Op) : Fin 16 := Fin.ofNat 16 o.sub.toNat

/-- Base of a landing slot in the silo, in bytes (R247). -/
def Tile.slotBase (t : Tile) (i : Fin 16) : Nat := ((nth t.slots i).extractLsb' 0 11).toNat * 64

/-- Size of a landing slot in bytes; 0 for an undeclared slot (R247). -/
def Tile.slotSize (t : Tile) (i : Fin 16) : Nat := ((nth t.slots i).extractLsb' 16 16).toNat * 64

/-- The checks of ldl, in the order of R130. -/
def Tile.slotCheck (t : Tile) (o : Op) (a : Word) : Option (BitVec 16 × Word) :=
  if t.slotSize (slotIx o) < a.toNat + o.et.memBytes then
    some (0x000A, BitVec.ofNat 64 ((slotIx o).val * 2 ^ 60 + a.toNat % 2 ^ 60))
  else if a.toNat % o.et.memBytes ≠ 0 then some (0x0004, a)
  else none

/-- ld: bytes sampled in the next active cycle, written at the end of e + 3 (R131). -/
def execLd (o : Op) (s : State) : Out :=
  let a := s.here.offsetAddr o
  .next (s.ccTry o (spCheck s.here.cc.level o.et 0x28 0 a) fun s =>
    s.modHere fun t => t.ccResult o 4 [] (some (1, .ld o.d.xIx a.toNat o.et)))

/-- st: bytes written at the end of e + 1 (R131). -/
def execSt (o : Op) (s : State) : Out :=
  let a := s.here.offsetAddr o
  let v := s.here.cc.readX o.b.xIx
  .next (s.ccTry o (spCheck s.here.cc.level o.et 0x28 1 a) fun s =>
    s.modHere fun t => t.ccResult o 2 [.sp a.toNat (bytesOf o.et.memBytes v.toNat)])

/-- ldl: silo bytes of the slot, timed as ld (R130, R131). -/
def execLdl (o : Op) (s : State) : Out :=
  let a := s.here.offsetAddr o
  .next (s.ccTry o (s.here.slotCheck o a) fun s =>
    s.modHere fun t => t.ccResult o 4 [] (some (1, .ldl o.d.xIx (t.slotBase (slotIx o) + a.toNat) o.et)))

end Sys2Proof.Machine
end

