-- ==== Sys2Proof/Machine/CcSys.lean ====
section
/-!
DEFINITION. Feeding the engines (R132 to R136), the status registers (R117, R141), the trapping forms and the end of a
task (R137), and waiting for an event (R140).
-/
namespace Sys2Proof.Machine

/-- The engine that SUB of enq and csched names. -/
def engineOf (o : Op) : Agent :=
  match o.sub.toNat with
  | 0 => .ve | 1 => .me | 2 => .le | _ => .se

/-- The entries of the engine queue, set aside while a scheduled segment runs (R328, R346). -/
def Seq.entries (q : Seq) : List Seg :=
  match q.aside with
  | some a => a.1
  | none => q.queue

/-- The majors of the records that an engine decodes (R81). -/
def majorsOf : Agent → List Nat
  | .ve => [0x40, 0x41, 0x42, 0x44, 0x45, 0x46, 0x48, 0x49, 0x4C, 0x4D, 0x50, 0x54, 0x58, 0x60, 0xD1, 0xDF]
  | .me => [0x80, 0xD1, 0xDF]
  | .le => [0xA0, 0xAA, 0xAC, 0xB0, 0xD1, 0xDF]
  | .se => [0xA0, 0xA8, 0xAA, 0xAC, 0xB0, 0xD1, 0xDF]
  | .cc => []

/-- The MAJ of record i of the segment at off. -/
def Tile.recordMajor (t : Tile) (off i : Nat) : Nat := (t.active.bytes.read (off + 64 * i)).toNat

/-- The checks of a segment, in the order of R133: its form, then each record's MAJ (R82). -/
def Tile.segmentCheck (t : Tile) (ag : Agent) (off count : Word) : Option (BitVec 16 × Word) :=
  if count.toNat < 1 ∨ 256 < count.toNat ∨ off.toNat % 64 ≠ 0 ∨ 0x200000 < off.toNat + 64 * count.toNat then
    some (0x0007, BitVec.ofNat 64 (off.toNat % 2 ^ 48 * 2 ^ 16 + count.toNat % 2 ^ 16))
  else
    match (List.range count.toNat).find? (fun i => !(majorsOf ag).contains (t.recordMajor off.toNat i)) with
    | some i => some (0x0002, BitVec.ofNat 64 (t.recordMajor off.toNat i * 2 ^ 16 + i))
    | none => none

/-- enq: stalls on a full queue, checks the segment, appends the entry at the end of its issue cycle (R133). -/
def execEnq (o : Op) (s : State) : Out :=
  let t := s.here
  let ag := engineOf o
  let off := t.intOperand o .a o.a
  let count := t.intOperand o .b o.b
  .next (
    if (o.sw.filter fun k => !t.canWait k 1).isNone ∧ 32 ≤ (nth t.seqs ag.seqIx).entries.length then s.stallCc (.queueFull ag)
    else s.ccTry o (t.segmentCheck ag off count) fun s =>
      s.modHere fun t => t.ccResult o 1 [.enq ag off.toNat count.toNat])

/-- wrg (R134). -/
def execWrg (o : Op) (s : State) : Out :=
  let i := match o.d with
    | .g i => i
    | _ => 0
  .next (s.ccWrite o 1 [.g i (s.here.intOperand o .a o.a)])

/-- wrn: saturated to 65,535 (R135). -/
def execWrn (o : Op) (s : State) : Out :=
  let i := match o.d with
    | .n i => i
    | _ => 0
  .next (s.ccWrite o 1 [.n i (BitVec.ofNat 16 (min (s.here.intOperand o .a o.a).toNat 65535))])

/-- nst: pending entry SUB; its reserved bits stay 0 (R136, R184). -/
def execNst (o : Op) (s : State) : Out :=
  .next (s.ccWrite o 1 [.nest (Fin.ofNat 6 o.sub.toNat) (s.here.intOperand o .a o.a &&& 0x0003FFFFFFFFFFFF#64)])

/-- mgo (R136). -/
def execMgo (o : Op) (s : State) : Out := .next (s.ccWrite o 1 [.nestGo])

/-! ### Status registers (R117, R141) -/

/-- TDMASK: bit j tells whether a touched die has bits [11:6] = j (R206, R208). -/
def touchedSummary (m : BitVec 4096) : Word :=
  BitVec.ofNat 64 (valueOf64 (m.toNat) 64)
where
  /-- One bit for each run of 64 bits. -/
  valueOf64 (v : Nat) : Nat → Nat
    | 0 => 0
    | n + 1 => (if v % 2 ^ 64 = 0 then 0 else 1) + 2 * valueOf64 (v / 2 ^ 64) n

/-- The context entry of the moving tile's context on its die. -/
def State.hereCtx (s : State) : Option CtxDie := (s.hereDie.findCtx s.here.cc.ctxid).map fun q => nth s.hereDie.ctxs q

/-- The value that rdsr reads (R117). -/
def State.statusRead (s : State) (num : Nat) : Word :=
  let t := s.here
  match num with
  | 0x00 => t.cc.fpctl.setWidth 64
  | 0x01 => t.cc.srseed
  | 0x02 => t.posn.setWidth 64
  | 0x03 => t.cc.tcyc
  | 0x04 => t.cc.ctxid.setWidth 64
  | 0x05 => t.cc.asid.setWidth 64
  | 0x06 => t.cc.ssnum.setWidth 64
  | 0x07 => (s.hereCtx.map fun c => touchedSummary c.touched).getD 0
  | 0x08 => (s.hereCtx.map fun c => c.entry.lotseed.setWidth 64).getD 0
  | 0x10 => t.cc.trap.tstat ||| (if t.ipnd then 4 else 0)
  | 0x11 => t.cc.trap.tcause
  | 0x12 => t.cc.trap.tval
  | 0x13 => t.cc.trap.tepc
  | 0x14 => t.cc.trap.tvec
  | 0x18 => t.cc.tscr
  | _ => 0

/-- Whether a level may read a status register (R117). -/
def statusReadable (lvl : Level) (num : Nat) : Bool := decide (lvl = .system) || decide (num < 0x08)

/-- Whether a level may issue a write of a status register: at task level FPCTL and SRSEED only (R117). -/
def statusWritable (lvl : Level) (num : Nat) : Bool := decide (lvl = .system) || decide (num < 0x02)

/-- FPCTL as a write stores it (R105). -/
def fpctlWritten (v : Word) : BitVec 32 :=
  let w := v.setWidth 32 &&& 0x007F7F07#32
  if 6 ≤ w.toNat % 8 then w &&& 0xFFFFFFF8#32 else w

/-- The write of a status register: reserved and read-only fields keep their value, a read-only register all of its
bits (R117, R141, R210, R211). -/
def CcState.writeStatus (c : CcState) (num : Nat) (v : Word) : CcState :=
  match num with
  | 0x00 => { c with fpctl := fpctlWritten v }
  | 0x01 => { c with srseed := v }
  | 0x10 => { c with trap := { c.trap with tstat := mergeBits c.trap.tstat v 1 } }
  | 0x11 => { c with trap := { c.trap with tcause := v &&& 0xFFFF#64 } }
  | 0x12 => { c with trap := { c.trap with tval := v } }
  | 0x13 => { c with trap := { c.trap with tepc := v &&& 0x00FFFFFFFFFFFFF0#64 } }
  | 0x14 => { c with trap := { c.trap with tvec := v &&& 0x00FFFFFFFFFFFFF0#64 } }
  | 0x18 => { c with tscr := v }
  | _ => c

/-- rdsr (R117, R141). -/
def execRdsr (o : Op) (s : State) : Out :=
  let bad := !statusReadable s.here.cc.level o.sub.toNat
  .next (s.ccTry o (if bad then some (0x0003, 0x0038) else none) fun s' =>
    s'.modHere fun t => t.ccResult o 1 [.x o.d.xIx (s.statusRead o.sub.toNat)])

/-- wrsr (R117, R141). -/
def execWrsr (o : Op) (s : State) : Out :=
  let bad := !statusWritable s.here.cc.level o.sub.toNat
  let v := s.here.intOperand o .a o.a
  .next (s.ccTry o (if bad then some (0x0003, 0x0138) else none) fun s' =>
    s'.modHere fun t => t.ccResult o 1 [.sreg o.sub v])

/-! ### The end of a task, system calls and breakpoints (R137) -/

/-- A sequencer whose queue and record are dropped. -/
def Seq.dropped (q : Seq) : Seq :=
  { q with queue := [], idx := 0, cur := none, gap := 0, loops := [], stalled := none, held := false, aside := none
           phase := none }

/-- trap end: the control core issues nothing further; a stop whose shadow it ends is void, and the interrupt that it was to
deliver is held again (R137, R218, R421). What a stop
has captured is dropped with the task (log 10). -/
def execTrapEnd (o : Op) (s : State) : Out :=
  .next (s.ccIssue o fun s => s.modHere fun t =>
    let t := (t.ccResult o 1 []).rehold
    let stop := t.stop.filter fun p =>
      match p.2 with
      | .discard _ => true
      | _ => false
    let seqs := t.seqs.map fun q => ({ q with held := false } : Seq)
    let t := { t with cc := { t.cc with mode := .ended }, mode := .ending, stop := stop, seqs := seqs }
    if t.cc.trap.halt then
      { t with seqs := t.seqs.map Seq.dropped, bank1 := [], bank2 := [], engLatches := [], inject := [] }
    else t)

/-- A trapping form of trap: its wait and its post are made, then the handler is entered (R137). -/
def State.ccCall (s : State) (o : Op) (code : BitVec 16) : State :=
  match o.sw.filter fun k => !s.here.canWait k 1 with
  | some k => s.stallCc (.sem k)
  | none =>
    let s := s.modHere fun t =>
      let t := match o.sw with
        | some k => t.takeSem k 1
        | none => t
      t.issue { agent := .cc, left := 1, issued := t.now, post := o.sp.map fun k => { k }, fpc := t.cc.pc }
    (s.modHere fun t => t.fetchAhead.drew .cc).preciseTrap code (o.lit.setWidth 64) true

/-- trap code, sys (R137). -/
def execTrapSys (o : Op) (s : State) : Out := .next (s.ccCall o 0x0008)
/-- trap code, brk (R137). -/
def execTrapBrk (o : Op) (s : State) : Out := .next (s.ccCall o 0x0009)

/-! ### Waiting for an event (R140) -/

/-- wfe: the wait begins in its issue cycle; PC stays at the wfe while it waits, and its post is made when it ends. A wfe
that resumes after a cut takes the limit that the cut left, and makes no wait again. -/
def execWfe (o : Op) (s : State) : Out :=
  let back := s.here.cc.wfeBack
  let left := back.getD o.lit.toNat
  let o := if back.isSome then { o with sw := none } else o
  .next (s.ccIssue o fun s => s.modHere fun t =>
    { t with cc := { t.cc with
        pc := prevPc t.cc.pc
        mode := .wfe { d := o.d.xIx, mask := o.sub.setWidth 4, limit := if left = 0 then none else some left
                       post := o.sp.map fun k => { k } } } })

end Sys2Proof.Machine
end

