-- ==== Sys2Proof/Config.lean ====
section
/-!
DEFINITION. What is fixed for a package and not by the manual: fuses, the identity key, and the free values, about which
nothing is known.
-/
namespace Sys2Proof.Config

/-- Byte i of what SHAKE256 makes of a byte string. -/
opaque shakeByte : List Byte → Nat → Byte

/-- SHAKE256 of a byte string, the first n bytes (R439, R440). -/
def shake256 (m : List Byte) (n : Nat) : List Byte := (List.range n).map (shakeByte m)

/-- XMSS-SHAKE256_20_256 verification of a signature under a public key (R439): key, message, signature. -/
opaque xmssVerify : List Byte → List Byte → List Byte → Bool

/-- The XMSS signature with the identity key's leaf of an index, behind the four bytes of the index: 32 bytes of
randomness, the one-time signature of 2,144 bytes and the authentication path of 640 (R440). -/
opaque xmssSign : Nat → List Byte → Vector Byte 2816

/-- FREE VALUE: a byte of the I/O die registers, made from the states of the dies and the boot status (R432). -/
opaque ioRegister : List Nat → Nat → Nat → Byte

/-- The fused digest of the firmware key, the fused minimum of the image version, and the serial number (R439, R440). -/
opaque keyDigest : List Byte
/-- The fused minimum of the image version. -/
opaque minVersion : BitVec 32
/-- The device serial number. -/
opaque serial : Vector Byte 16

/-- FREE VALUE: the failure cause of a trigger's action that is turned away without a cause of R258 (R387). -/
opaque actionCause : Nat → BitVec 16

/-- FREE VALUE: what ftrig query returns for an entry number above 15 (R387). -/
opaque triggerQuery : Nat → Word

/-- FREE VALUE: the cause for which a die of another package refuses an access, 0 when it performs it: the request, the
address (R1, R25). -/
opaque awayCause : Nat → Word → BitVec 16

/-- FREE VALUE: a byte that a die of another package holds, as a request reads it at an address (R1, R25). -/
opaque awayByte : Nat → Word → Byte

end Sys2Proof.Config
end

