-- ==== Sys2Proof/Machine/Sequencer.lean ====
section
/-!
DEFINITION. One innermost iteration of a record (R75 to R79, R57, R58, R53, R70): what the record fixes in its first
iteration, whether the iteration is idle, its wait, its checks, its streams, its issue with the post, and the step to
the next iteration, record or segment entry.
-/
namespace Sys2Proof

/-- Trip counts with unused levels as 1 (R75). -/
def Tail.trip (t : Tail) (j : Nat) : Nat :=
  match j with
  | 0 => max t.t0.toNat 1
  | 1 => max t.t1.toNat 1
  | 2 => max t.t2.toNat 1
  | _ => max t.t3.toNat 1

namespace Machine

/-- Whether the iteration is idle (R57). -/
def Running.idle (r : Running) (tl : Tail) : Bool :=
  tl.ctl.vcen && (match r.valid with
    | some v => decide (v ≤ r.l0)
    | none => false)

/-- The last iteration of the record. -/
def Running.last (r : Running) (tl : Tail) : Bool :=
  decide (tl.trip 0 ≤ r.l0 + 1) && decide (tl.trip 1 ≤ r.l1 + 1) && decide (tl.trip 2 ≤ r.l2 + 1) &&
    decide (tl.trip 3 ≤ r.l3 + 1)

/-- The first iteration of the record. -/
def Running.first (r : Running) : Bool := decide (r.l0 = 0) && decide (r.l1 = 0) && decide (r.l2 = 0) && decide (r.l3 = 0)

/-- Whether this is the first innermost iteration of the current iteration of level `lvl` (R77). DESIGN CHOICE (log 74):
where no loop of level 4 or 5 is open, its code means once per record; a code 5 in the body of one open loop means that
loop's first pass. -/
def waitEdge (q : Seq) (r : Running) (lvl : Nat) : Bool :=
  match lvl with
  | 0 => true
  | 1 => decide (r.l0 = 0)
  | 2 => decide (r.l0 = 0) && decide (r.l1 = 0)
  | 3 => decide (r.l0 = 0) && decide (r.l1 = 0) && decide (r.l2 = 0)
  | 5 => r.first && decide (q.l r 4 = 0)
  | _ => r.first

/-- Whether this is the last innermost iteration of the current iteration of level `lvl` (R77). DESIGN CHOICE (log 74):
where no loop of level 4 or 5 is open, its code means once per record; a code 5 in the body of one open loop means that
loop's last pass. -/
def postEdge (q : Seq) (r : Running) (tl : Tail) (lvl : Nat) : Bool :=
  let e0 := decide (tl.trip 0 ≤ r.l0 + 1)
  let e1 := decide (tl.trip 1 ≤ r.l1 + 1)
  let e2 := decide (tl.trip 2 ≤ r.l2 + 1)
  match lvl with
  | 0 => true
  | 1 => e0
  | 2 => e0 && e1
  | 3 => e0 && e1 && e2
  | 5 => r.last tl && (match q.loops with
    | x :: _ => decide (x.trips ≤ x.index + 1)
    | [] => true)
  | _ => r.last tl

/-- What an iteration asks for before it may issue. -/
structure Plan where
  /-- The first check that fails: cause and TVAL. -/
  trap  : Option (BitVec 16 × Word) := none
  /-- Streams popped and pushed. -/
  pops  : List (Fin 8) := []
  push  : Option (Fin 8) := none
  /-- A further condition on which it stalls. -/
  block : Option Stall := none
  /-- Occupancy in active cycles (R83). -/
  occ   : Nat := 1
  /-- Active cycles until the last result is written, at the end of which the post is made (R70, R200). -/
  lat   : Nat := 1
  /-- The arrival offset of an operation whose results leave the tile: its post is made at the due cycle (R70). -/
  due   : Option Nat := none
  /-- The record is itself a semaphore wait or post, which its idle iterations make as well (R58, R394). -/
  handshake : Bool := false
  deriving DecidableEq, Repr

/-- What is left of a plan in an idle iteration: its timing, and the semaphore operation of a kwait or kpost (R58). -/
def Plan.atRest (p : Plan) : Plan :=
  { p with pops := [], push := none, block := if p.handshake then p.block else none }

/-- What an issuing iteration knows: its sequencer, its record, the entry reserved in its destination stream, and the
post that its last result carries. -/
structure Issue where
  q    : Seq
  r    : Running
  slot : Fin 4
  post : Option Post
  deriving DecidableEq, Repr

/-- What becomes of an iteration in this cycle. -/
inductive Verdict where
  | waits (k : Fin 16)
  | traps (code : BitVec 16) (value : Word)
  | blocks (why : Stall)
  | issues
  deriving DecidableEq, Repr

/-- The first stream that is not ready. -/
def Plan.streamStall (p : Plan) (t : Tile) : Option Stall :=
  match p.pops.find? (fun i => !(nth t.streams i).readable) with
  | some i => some (.streamEmpty i)
  | none =>
    match p.push with
    | some i => if (nth t.streams i).writable then none else some (.streamFull i)
    | none => none

/-- The verdict: the wait first (R70), then the checks, then what else may stall the agent (R53). DESIGN CHOICE (log 75):
an iteration that fails a check and would stall on a stream traps at once. -/
def Plan.verdict (p : Plan) (t : Tile) (wait : Option (Fin 16)) : Verdict :=
  match wait.filter (fun k => !t.canWait k 1) with
  | some k => .waits k
  | none =>
    match p.trap with
    | some (c, v) => .traps c v
    | none =>
      match p.block with
      | some w => .blocks w
      | none =>
        match p.streamStall t with
        | some w => .blocks w
        | none => .issues

/-- What every record fixes in its first iteration, idle or not: the valid count (R57) and a matrix record's nest
table (R136). -/
def Tile.fixRecord (t : Tile) (r : Running) (tl : Tail) : Running :=
  if r.began then r
  else { r with valid := if tl.ctl.vcen then some (nth t.cc.n tl.ctl.vcsel).toNat else none, nest := t.me.active }

/-- The wait that this iteration still has to make. -/
def dueWait (o : Op) (tl : Tail) (q : Seq) (r : Running) : Option (Fin 16) :=
  if r.waited ∨ !waitEdge q r tl.ctl.wlvl.toNat then none else o.sw

/-- The post that this iteration makes. -/
def duePost (o : Op) (tl : Tail) (q : Seq) (r : Running) : Option Post :=
  if postEdge q r tl tl.ctl.plvl.toNat then o.sp.map fun k => { k } else none

/-- The indices of the next iteration. -/
def Running.advance (r : Running) (tl : Tail) : Running :=
  let r := { r with began := true, waited := false }
  if r.l0 + 1 < tl.trip 0 then { r with l0 := r.l0 + 1 }
  else if r.l1 + 1 < tl.trip 1 then { r with l0 := 0, l1 := r.l1 + 1 }
  else if r.l2 + 1 < tl.trip 2 then { r with l0 := 0, l1 := 0, l2 := r.l2 + 1 }
  else { r with l0 := 0, l1 := 0, l2 := 0, l3 := r.l3 + 1 }

/-- The record is done: the next record of the entry, or the next entry (R329). -/
def Seq.nextRecord (q : Seq) : Seq :=
  match q.queue with
  | [] => { q with cur := none }
  | e :: rest =>
    if q.idx + 1 < e.count then { q with cur := none, idx := q.idx + 1 }
    else { q with cur := none, idx := 0, queue := rest, loops := [] }

/-- The sequencer after the iteration has issued. -/
def Seq.issued (q : Seq) (r : Running) (tl : Tail) (occ : Nat) : Seq :=
  let q := { q with gap := occ, stalled := none, phase := q.phase.map fun (p : Seg × Nat) => (p.1, p.2 + 1) }
  if r.last tl then q.nextRecord else { q with cur := some (r.advance tl) }

/-- The sequencer of an agent replaced. -/
def Tile.setSeq (t : Tile) (ag : Agent) (q : Seq) : Tile := { t with seqs := upd t.seqs ag.seqIx q }

/-- An iteration trap, or the trap of a record in decode: the sequencer issues nothing further, and the tile stops
(R73, R212, R213, R217, R222, R223). A wait that the iteration had made is taken back (R181, R205). -/
def State.seqTrap (s : State) (ag : Agent) (code : BitVec 16) (value : Word) (o : Option Op) (off : Nat) (fidx : Word) :
    State :=
  let t := s.here
  let q := nth t.seqs ag.seqIx
  let waited := (q.cur.map (·.waited)).getD false
  let x : Trap := { code, value, kind := .iteration, agent := some ag, fpc := BitVec.ofNat 64 off, fidx }
  let giveBack (t : Tile) : Tile :=
    match (if waited then o.bind (·.sw) else none) with
    | some k => { t with sems := upd t.sems k { nth t.sems k with count := (nth t.sems k).count + 1 } }
    | none => t
  let s1 := s.modHere fun t =>
    (giveBack (t.setSeq ag { q with held := true, stalled := none, cur := q.cur.map fun r => { r with waited := false } })).turnDone ag
  s1.trigger x

/-- The post of an idle iteration is made when that of an active one would be (R58): at the end of the cycle in which the
last result would be written, or at the due cycle. -/
def State.idlePost (s : State) (p : Plan) (post : Option Post) (r : Running) : State :=
  let fpc := BitVec.ofNat 64 r.off
  match p.due with
  | some a =>
    if post.isNone then s else s.request s.agent { kind := .delay none, arrival := a, post, fpc, fidx := r.fidx }
  | none => s.modHere fun u => u.issue { agent := s.agent, left := p.lat, issued := u.now, post, fpc, fidx := r.fidx }

/-- One innermost iteration of a record of the agent that moves. `fix` is what the command fixes besides in its first
iteration, `plan` what the iteration asks for, `body` its effect when it is active; its post goes with its last
result, or is made in the issue cycle when there is none. -/
def State.iterate (s : State) (i : Instr) (o : Op) (tl : Tail) (fix : Running → Running)
    (plan : Seq → Running → Bool → Plan) (body : State → Issue → State) : State :=
  let ag := s.agent
  let t := s.here
  let q := nth t.seqs ag.seqIx
  let r0 := t.fixRecord (q.running i) tl
  let r := if r0.began then r0 else fix r0
  let idle := r.idle tl
  let p := if idle then (plan q r idle).atRest else plan q r idle
  let wait := dueWait o tl q r
  match p.verdict t wait with
  | .waits k => s.modHere fun t => (t.setSeq ag { q with stalled := some (.sem k) }).turnDone ag
  | .traps c v => s.seqTrap ag c v o r.off r.fidx
  | .blocks w =>
    s.modHere fun t =>
      let t := match wait with
        | some k => t.takeSem k 1
        | none => t
      (t.setSeq ag { q with stalled := some w, cur := some { r with waited := r.waited || wait.isSome } }).turnDone ag
  | .issues =>
    let slot := match p.push with
      | some k => (nth t.streams k).tail
      | none => 0
    let post := duePost o tl q r
    let s1 := s.modHere fun t =>
      let t := match wait with
        | some k => t.takeSem k 1
        | none => t
      let t := { t with streams := p.pops.foldl (fun v k => upd v k (nth v k).pop) t.streams }
      let t := match p.push with
        | some k => { t with streams := upd t.streams k (nth t.streams k).reserve }
        | none => t
      let t := if idle then t else t.drew ag
      (t.setSeq ag (q.issued r tl p.occ)).turnDone ag
    if idle && !p.handshake then s1.idlePost p post r else body s1 { q, r, slot, post }

/-- Adds the results of an iteration, its post on the one that is written last; a post without result is made in the
issue cycle (R70). -/
def State.addResults (s : State) (x : Issue) (rs : List Result) : State :=
  let ag := s.agent
  s.modHere fun t =>
    let top := rs.foldl (fun m r => max m r.left) 0
    let stamp (r : Result) : Result := { r with agent := ag, issued := t.now, fpc := BitVec.ofNat 64 x.r.off, fidx := x.r.fidx }
    let rs := if rs.isEmpty then [{ agent := ag, left := 1, issued := t.now }] else rs
    let low := rs.filter fun r => decide (r.left < top)
    let high := rs.filter fun r => !decide (r.left < top)
    let high := match high.reverse with
      | [] => []
      | r :: more => (({ r with post := x.post } : Result) :: more).reverse
    (low ++ high).foldl (fun t r => t.issue (stamp r)) t

end Machine

end Sys2Proof
end

