-- ==== Sys2Proof/Machine/VeArith.lean ====
section
/-!
DEFINITION. The vector engine's arithmetic, compares, selects and logic (R147 to R160), and the form that every
operation on whole vectors shares.
-/
namespace Sys2Proof.Machine

/-- f applied to each triple of elements, with the element's number, from number i on. -/
def map3 (f : Nat → Nat → Nat → Nat → Nat) (i : Nat) : List Nat → List Nat → List Nat → List Nat
  | a :: as, b :: bs, c :: cs => f i a b c :: map3 f (i + 1) as bs cs
  | _, _, _ => []

/-- The write of a vector destination: a register's bits under the mask, or a whole stream entry with zero in the
elements that are not computed (R148). -/
def vecEffect (d : Operand) (slot : Fin 4) (data mask : Vec) : Effect :=
  match d with
  | .s i => .stream i slot (data &&& mask)
  | _ => .vreg d.vIx data mask

/-- A result of an iteration; its agent and cycle are stamped when it is added. -/
def vecResult (left : Nat) (effects : List Effect) (sample : Option (Nat × Sample) := none) (ew : Nat := 32) : Result :=
  { agent := .ve, left, issued := 0, effects, sample, ew }

/-- The sources and the destination of a vector operation as an iteration's plan. -/
def vecPlan (o : Op) (lat : Nat) : Plan := { pops := streamsOf [o.a, o.b, o.c], push := o.d.stream, lat }

/-- A vector operation whose results `make` gives, the last of them after `lat` active cycles. -/
def State.veRun (s : State) (i : Instr) (o : Op) (tl : Tail) (lat : Nat) (make : Tile → Issue → List Result) : State :=
  s.iterate i o tl id (fun _ _ _ => vecPlan o lat) fun s x => s.addResults x (make s.here x)

/-- A vector operation with one destination of elements of width w. -/
def State.veOp (s : State) (i : Instr) (o : Op) (tl : Tail) (lat w : Nat) (compute : Tile → Issue → Vec) : State :=
  s.veRun i o tl lat fun t x => [vecResult lat [vecEffect o.d x.slot (compute t x) (laneMask w (t.governing o) 0 1)] none w]

/-- The elements of the three sources, all of the width of ET. -/
def Tile.sources (t : Tile) (x : Issue) (o : Op) : List Nat × List Nat × List Nat :=
  let w := o.et.width
  let n := o.et.lanes
  (lanes w n (t.vecOperand x.q x.r o .a o.a w).toNat, lanes w n (t.vecOperand x.q x.r o .b o.b w).toNat,
    lanes w n (t.vecOperand x.q x.r o .c o.c w).toNat)

/-- An operation on the elements at equal places. -/
def State.veLane (s : State) (i : Instr) (o : Op) (tl : Tail) (lat : Nat) (f : RoundCtx → Nat → Nat → Nat → Nat) : State :=
  s.veOp i o tl lat o.et.width fun t x =>
    let (a, b, c) := t.sources x o
    vecOfLanes o.et.width (map3 (fun k => f (t.laneRound x.q x.r o k)) 0 a b c)

/-- An element's integer value (R156). -/
def elemInt (et : ElemType) (a : Nat) : Int := readInt et.isSigned et.width a

/-- Low or Sat of an exact integer result, by MOD (R156). -/
def elemNarrow (o : Op) (t : Int) : Nat := narrow (o.mod = 8) o.et.isSigned o.et.width t

/-- The latency of an operation by the kind of its type (R83). -/
def latOf (et : ElemType) (int flt : Nat) : Nat := if et.isFloat then flt else int

/-- vadd (R156). -/
def execVadd (o : Op) (tl : Tail) (s : State) : Out :=
  .next (s.veLane (.vadd o tl) o tl (latOf o.et 2 4) fun c a b _ =>
    if o.et.isFloat then floatAdd o.et.fmt c a b else elemNarrow o (elemInt o.et a + elemInt o.et b))
/-- vsub (R156). -/
def execVsub (o : Op) (tl : Tail) (s : State) : Out :=
  .next (s.veLane (.vsub o tl) o tl (latOf o.et 2 4) fun c a b _ =>
    if o.et.isFloat then floatSub o.et.fmt c a b else elemNarrow o (elemInt o.et a - elemInt o.et b))
/-- vmul (R156). -/
def execVmul (o : Op) (tl : Tail) (s : State) : Out :=
  .next (s.veLane (.vmul o tl) o tl (latOf o.et 3 4) fun c a b _ =>
    if o.et.isFloat then floatMul o.et.fmt c a b else elemNarrow o (elemInt o.et a * elemInt o.et b))
/-- vmulh: the high half of the product (R156). -/
def execVmulh (o : Op) (tl : Tail) (s : State) : Out :=
  .next (s.veLane (.vmulh o tl) o tl 3 fun _ a b _ =>
    lowBits o.et.width (elemInt o.et a * elemInt o.et b / 2 ^ o.et.width))
/-- vmin (R156). -/
def execVmin (o : Op) (tl : Tail) (s : State) : Out :=
  .next (s.veLane (.vmin o tl) o tl (latOf o.et 2 4) fun c a b _ =>
    if o.et.isFloat then o.et.fmt.select c false a b else if elemInt o.et b < elemInt o.et a then b else a)
/-- vmax (R156). -/
def execVmax (o : Op) (tl : Tail) (s : State) : Out :=
  .next (s.veLane (.vmax o tl) o tl (latOf o.et 2 4) fun c a b _ =>
    if o.et.isFloat then o.et.fmt.select c true a b else if elemInt o.et a < elemInt o.et b then b else a)
/-- vfma: one rounding (R156). -/
def execVfma (o : Op) (tl : Tail) (s : State) : Out :=
  .next (s.veLane (.vfma o tl) o tl 4 fun c a b d => floatFma o.et.fmt c false false a b d)
/-- vfms: one rounding (R156). -/
def execVfms (o : Op) (tl : Tail) (s : State) : Out :=
  .next (s.veLane (.vfms o tl) o tl 4 fun c a b d => floatFma o.et.fmt c false true a b d)
/-- vfnma: one rounding (R156). -/
def execVfnma (o : Op) (tl : Tail) (s : State) : Out :=
  .next (s.veLane (.vfnma o tl) o tl 4 fun c a b d => floatFma o.et.fmt c true false a b d)
/-- vabs: the float form clears the sign bit of every encoding (R95, R156). -/
def execVabs (o : Op) (tl : Tail) (s : State) : Out :=
  .next (s.veLane (.vabs o tl) o tl 2 fun _ a _ _ =>
    if o.et.isFloat then a % 2 ^ (o.et.width - 1) else elemNarrow o ((elemInt o.et a).natAbs : Nat))
/-- vneg: the float form inverts the sign bit of every encoding (R95, R156). -/
def execVneg (o : Op) (tl : Tail) (s : State) : Out :=
  .next (s.veLane (.vneg o tl) o tl 2 fun _ a _ _ =>
    if o.et.isFloat then a ^^^ 2 ^ (o.et.width - 1) else elemNarrow o (-(elemInt o.et a)))
/-- vround (R157). -/
def execVround (o : Op) (tl : Tail) (s : State) : Out :=
  .next (s.veLane (.vround o tl) o tl 4 fun c a _ _ => o.et.fmt.integral c a)
/-- vclamp: maximum with b, then minimum with c (R156). -/
def execVclamp (o : Op) (tl : Tail) (s : State) : Out :=
  .next (s.veLane (.vclamp o tl) o tl (latOf o.et 2 4) fun k a b c =>
    if o.et.isFloat then o.et.fmt.select k false (o.et.fmt.select k true a b) c
    else
      let m := if elemInt o.et a < elemInt o.et b then b else a
      if elemInt o.et c < elemInt o.et m then c else m)

/-! ### Compares, selects and logic (R158 to R160) -/

/-- Bits n to 1,023 of a mask. -/
def maskAbove (n : Nat) : Mask := BitVec.allOnes 1024 <<< n

/-- The write of a mask destination for a type of n elements: governed bits below n, and zero from n up (R146, R148). -/
def maskEffect (t : Tile) (o : Op) (n : Nat) (bits : Mask) : Effect :=
  .qreg o.d.qIx (bits &&& ~~~(maskAbove n)) (t.governing o ||| maskAbove n)

/-- The mask of a list of truth values. -/
def maskOf (bs : List Bool) : Mask := BitVec.ofNat 1024 (packLanes 1 (bs.map Bool.toNat))

/-- vcmp (R159). -/
def execVcmp (o : Op) (tl : Tail) (s : State) : Out :=
  .next (s.veRun (.vcmp o tl) o tl 2 fun t x =>
    let (a, b, _) := t.sources x o
    let c : RoundCtx := { fpctl := t.cc.fpctl }
    let rel (p : Nat × Nat) : Bool :=
      if o.et.isFloat then condFloat o.et.fmt c o.sub.toNat p.1 p.2
      else condElem o.sub.toNat (elemInt o.et p.1) (elemInt o.et p.2)
    [vecResult 2 [maskEffect t o o.et.lanes (maskOf ((a.zip b).map rel))]])

/-- vsel: elements of a where the mask operand's bit is 1, of b elsewhere (R160). -/
def execVsel (o : Op) (tl : Tail) (s : State) : Out :=
  .next (s.veOp (.vsel o tl) o tl 2 o.et.width fun t x =>
    let w := o.et.width
    mergeBits (t.vecOperand x.q x.r o .b o.b w) (t.vecOperand x.q x.r o .a o.a w)
      (laneMask w (nth t.ve.q o.c.qIx) 0 1))

/-- A logic operation on all bits of the sources (R160). -/
def State.veBits (s : State) (i : Instr) (o : Op) (tl : Tail) (f : Vec → Vec → Vec → Vec) : State :=
  s.veOp i o tl 2 o.et.width fun t x =>
    let w := o.et.width
    f (t.vecOperand x.q x.r o .a o.a w) (t.vecOperand x.q x.r o .b o.b w) (t.vecOperand x.q x.r o .c o.c w)

/-- vand (R160). -/
def execVand (o : Op) (tl : Tail) (s : State) : Out := .next (s.veBits (.vand o tl) o tl fun a b _ => a &&& b)
/-- vor (R160). -/
def execVor (o : Op) (tl : Tail) (s : State) : Out := .next (s.veBits (.vor o tl) o tl fun a b _ => a ||| b)
/-- vxor (R160). -/
def execVxor (o : Op) (tl : Tail) (s : State) : Out := .next (s.veBits (.vxor o tl) o tl fun a b _ => a ^^^ b)
/-- vandn (R160). -/
def execVandn (o : Op) (tl : Tail) (s : State) : Out := .next (s.veBits (.vandn o tl) o tl fun a b _ => a &&& ~~~b)

/-- The three-input truth table: bit 4a + 2b + c of tt at each place (R160). -/
def lop3 (tt : BitVec 8) (a b c : Vec) : Vec :=
  let pick (v : Vec) (k : Bool) : Vec := if k then v else ~~~v
  let term (k : Nat) : Vec :=
    if tt.getLsbD k then pick a (k.testBit 2) &&& pick b (k.testBit 1) &&& pick c (k.testBit 0) else 0
  (List.range 8).foldl (fun v k => v ||| term k) 0

/-- vlop3 (R160). -/
def execVlop3 (o : Op) (tl : Tail) (s : State) : Out := .next (s.veBits (.vlop3 o tl) o tl (lop3 o.sub))

end Sys2Proof.Machine
end

