-- ==== Sys2Proof/Machine/VeReduce.lean ====
section
/-!
DEFINITION. The vector engine's reductions, scans and selection (R171 to R174) and its mask operations (R175).
-/
namespace Sys2Proof.Machine

/-- Op of a reduction on two elements, an integer sum excepted: SUB[6:4] names it (R171, R172). -/
def reduceOp (o : Op) (c : RoundCtx) (a b : Nat) : Nat :=
  match o.sub.toNat / 16 % 8 with
  | 0 => floatAdd o.et.fmt c a b
  | 1 => if o.et.isFloat then o.et.fmt.select c false a b else if elemInt o.et b < elemInt o.et a then b else a
  | 2 => if o.et.isFloat then o.et.fmt.select c true a b else if elemInt o.et a < elemInt o.et b then b else a
  | 3 => a &&& b
  | 4 => a ||| b
  | _ => a ^^^ b

/-- Whether a reduction is an integer sum, whose total is exact (R172). -/
def exactSum (o : Op) : Bool := decide (o.sub.toNat / 16 % 8 = 0) && !o.et.isFloat

/-- The rounding context of the nodes: RNE where FPCTL.RM asks for stochastic rounding (R147). -/
def Tile.nodeRound (t : Tile) (o : Op) : RoundCtx :=
  let m := roundMode o.mod t.cc.fpctl
  { mode := if m = 5 then 0 else m, sat := o.mod.getLsbD 3, fpctl := t.cc.fpctl }

/-- One level of the tree: neighbours joined. -/
def joinPairs (f : Nat → Nat → Nat) : List Nat → List Nat
  | a :: b :: xs => f a b :: joinPairs f xs
  | xs => xs

/-- g levels of the tree. -/
def joinLevels (f : Nat → Nat → Nat) : Nat → List Nat → List Nat
  | 0, xs => xs
  | g + 1, xs => joinLevels f g (joinPairs f xs)

/-- The sum of the group of k elements from element i on. -/
def groupSum (o : Op) (xs : List Nat) (i k : Nat) : Int :=
  ((xs.drop i).take k).foldl (fun t x => t + elemInt o.et x) 0

/-- The canonical NaN for every NaN (R95). -/
def Fmt.canonical (f : Fmt) (w : Nat) : Nat := if f.value w = .nan then f.nan else w

/-- The elements of A as a reduction reads them (R172): after DAZ, a NaN as the canonical one, so that an element that
passes alone into the result leaves as R95 has every NaN of a reduction. DEDUCED (log 87). -/
def Tile.reduced (t : Tile) (x : Issue) (o : Op) (c : RoundCtx) : List Nat :=
  let (a, _, _) := t.sources x o
  if o.et.isFloat then a.map fun w => Fmt.canonical o.et.fmt (c.flushIn o.et.fmt w) else a

/-- vred: a pairwise tree over each group (R172). -/
def execVred (o : Op) (tl : Tail) (s : State) : Out :=
  let g := o.sub.toNat % 16
  .next (s.veOp (.vred o tl) o tl 10 o.et.width fun t x =>
    let c := t.nodeRound o
    let a := t.reduced x o c
    vecOfLanes o.et.width
      (if exactSum o then (List.range (o.et.lanes / 2 ^ g)).map fun n => elemNarrow o (groupSum o a (n * 2 ^ g) (2 ^ g))
       else joinLevels (reduceOp o c) g a))

/-- A left fold that keeps every prefix, started anew at each multiple of k. -/
def scanFrom (f : Nat → Nat → Nat) (k i p : Nat) : List Nat → List Nat
  | [] => []
  | a :: as =>
    let q := if i % k = 0 then a else f p a
    q :: scanFrom f k (i + 1) q as

/-- The same for exact integer prefix sums, narrowed each on its own. -/
def prefixSums (o : Op) (k i : Nat) (p : Int) : List Nat → List Nat
  | [] => []
  | a :: as =>
    let q := if i % k = 0 then elemInt o.et a else p + elemInt o.et a
    elemNarrow o q :: prefixSums o k (i + 1) q as

/-- vscan: the inclusive prefix of each group (R173). -/
def execVscan (o : Op) (tl : Tail) (s : State) : Out :=
  let k := 2 ^ (o.sub.toNat % 16)
  .next (s.veOp (.vscan o tl) o tl 12 o.et.width fun t x =>
    let c := t.nodeRound o
    let a := t.reduced x o c
    vecOfLanes o.et.width (if exactSum o then prefixSums o k 0 0 a else scanFrom (reduceOp o c) k 0 0 a))

/-- The place of an element in the order of vtopk: NaN below every value, -0 below +0 (R174). -/
def rankKey (et : ElemType) (c : RoundCtx) (a : Nat) : Int :=
  if et.isFloat then
    let a := c.flushIn et.fmt a
    let m := a % 2 ^ (et.width - 1)
    match et.fmt.value a with
    | .nan => -(2 ^ et.width)
    | _ => if a.testBit (et.width - 1) then -(m : Int) - 1 else m
  else elemInt et a

/-- Whether the element at place i of a group is among its k greatest, ties going to the lower place. -/
def amongGreatest (keys : List Int) (k i : Nat) : Bool :=
  let me := keys.getD i 0
  decide ((keys.zipIdx.filter fun p => decide (me < p.1) || (decide (p.1 = me) && decide (p.2 < i))).length < k)

/-- vtopk (R174). -/
def execVtopk (o : Op) (tl : Tail) (s : State) : Out :=
  let g := 2 ^ (o.sub.toNat % 16)
  let k := o.lit.toNat % 2048
  .next (s.veRun (.vtopk o tl) o tl 16 fun t x =>
    let (a, _, _) := t.sources x o
    let keys := a.map (rankKey o.et { fpctl := t.cc.fpctl })
    let bit (i : Nat) : Bool := amongGreatest ((keys.drop (i / g * g)).take g) k (i % g)
    [vecResult 16 [maskEffect t o o.et.lanes (maskOf ((List.range o.et.lanes).map bit))]])

/-! ### Mask operations (R175) -/

/-- An operation on two masks, all 1,024 bits. -/
def State.veMask (s : State) (i : Instr) (o : Op) (tl : Tail) (f : Mask → Mask → Mask) : State :=
  s.veRun i o tl 2 fun t _ =>
    [vecResult 2 [.qreg o.d.qIx (f (nth t.ve.q o.a.qIx) (nth t.ve.q o.b.qIx)) (BitVec.allOnes 1024)]]

/-- qand (R175). -/
def execQand (o : Op) (tl : Tail) (s : State) : Out := .next (s.veMask (.qand o tl) o tl fun a b => a &&& b)
/-- qor (R175). -/
def execQor (o : Op) (tl : Tail) (s : State) : Out := .next (s.veMask (.qor o tl) o tl fun a b => a ||| b)
/-- qnot (R175). -/
def execQnot (o : Op) (tl : Tail) (s : State) : Out := .next (s.veMask (.qnot o tl) o tl fun a _ => ~~~a)

/-- A number drawn from the mask's low N bits, as n32 in lane 0 (R175). -/
def State.veCount (s : State) (i : Instr) (o : Op) (tl : Tail) (f : Nat → Nat → Nat) : State :=
  s.veRun i o tl 2 fun t x =>
    let n := f (nth t.ve.q o.a.qIx).toNat o.et.lanes
    [vecResult 2 [vecEffect o.d x.slot (BitVec.ofNat 4096 (n % 2 ^ 32)) allBits]]

/-- qpop (R175). -/
def execQpop (o : Op) (tl : Tail) (s : State) : Out := .next (s.veCount (.qpop o tl) o tl onesCount)
/-- qfirst: the element count when no bit is set (R175). -/
def execQfirst (o : Op) (tl : Tail) (s : State) : Out :=
  .next (s.veCount (.qfirst o tl) o tl fun q n => trailingZeros q 0 n)

end Sys2Proof.Machine
end

