-- ==== Sys2Proof/Machine/MeArith.lean ====
section
/-!
DEFINITION. The arithmetic of the array step (R111 to R114, R192 to R194): exact group sums of one activation row
against a weight plane, and their addition to an accumulator row.
-/
namespace Sys2Proof.Machine

/-- The exact sum of two terms of a group (R112). -/
def plus (x y : Num) : Num := (x.add y).num

/-- The value of a block scale (R98). -/
def scaleNum (b : Nat) : Num := if b = 255 then .nan else .fin false 1 ((b : Int) - 127)

/-- The values of a plane's row, read under DAZ. -/
def planeValues (c : RoundCtx) (pt : ElemType) (row : BitVec 2048) : List Num :=
  (lanes pt.width 128 row.toNat).map (c.read pt.fmt)

/-- Row k's products added to each column's sum. -/
def addProducts (a : Num) (ws sums : List Num) : List Num := List.zipWith (fun w s => plus s (a.mul w)) ws sums

/-- The scaled and rounded sum of group `grp` for every column (R111, R194). -/
def groupRow (x : StepInfo) (p : Plane) (row : List Nat) (scaleA grp : Nat) : Vec :=
  let c : RoundCtx := { fpctl := x.fpctl }
  let ks := (List.range 32).filter fun k => decide (32 * grp + k < x.kv)
  let zero : List Num := List.replicate 128 (.fin true 0 0)
  let sums := ks.foldl (fun sums k =>
    addProducts (c.read x.et.fmt (row.getD (32 * grp + k) 0))
      (planeValues c x.pt (nth p.rows (Fin.ofNat 128 (32 * grp + k)))) sums) zero
  let scaled := sums.zipIdx.map fun q =>
    if x.scaled then
      (q.1.mul (scaleNum scaleA)).mul (scaleNum (p.scales.extractLsb' (8 * (128 * grp + q.2)) 8).toNat)
    else q.1
  vecOfLanes 32 (scaled.map fun s => ElemType.f32.fmt.round c s.exact)

/-- The groups that take part: those below KV (R194). -/
def StepInfo.groups (x : StepInfo) : List Nat := (List.range 4).filter fun g => decide (32 * g < x.kv)

/-- Activation row i of a float step against the plane: one vector of group sums for each group. -/
def floatRow (x : StepInfo) (p : Plane) (row : List Nat) (scales : BitVec 32) : List Vec :=
  x.groups.map fun g => groupRow x p row (scales.extractLsb' (8 * g) 8).toNat g

/-- Activation row i of an integer step: the exact sum of products for every column (R113). -/
def intRow (x : StepInfo) (p : Plane) (row : List Nat) : List Int :=
  (List.range x.kv).foldl (fun sums k =>
    let a := elemInt x.et (row.getD k 0)
    List.zipWith (fun w (s : Int) => s + a * elemInt x.pt w)
      (lanes x.pt.width 128 (nth p.rows (Fin.ofNat 128 k)).toNat) sums) (List.replicate 128 0)

/-- The effect of the row sampled by a step, still to be added to the accumulator row when it is written. -/
def stepEffect (x : StepInfo) (p : Plane) (q : Fin 4) (r : Fin 128) (bytes : List Byte) (scales : BitVec 32) : Effect :=
  let row := lanes x.et.width 128 (valueOf bytes)
  if x.et.isFloat then .accStep q r (floatRow x p row scales) [] x else .accStep q r [] (intRow x p row) x

/-- The accumulator row after a step, and the bits it writes: the columns below NV (R194). DAZ does not apply to the
accumulator (R111). -/
def stepRow (x : StepInfo) (groups : List Vec) (totals : List Int) (old : Vec) : Vec × Vec :=
  let f := ElemType.f32.fmt
  let c : RoundCtx := { fpctl := x.fpctl &&& ~~~(1#32 <<< (8 + f.flag)) }
  let start := lanes 32 128 (if x.zero then 0 else old.toNat)
  let out :=
    if x.et.isFloat then
      groups.foldl (fun acc g => List.zipWith (fun a t => floatAdd f c a t) acc (lanes 32 128 g.toNat)) start
    else List.zipWith (fun a t => narrow x.sat true 32 (readInt true 32 a + t)) start totals
  let mask : Mask := BitVec.ofNat 1024 (2 ^ x.nv - 1)
  (vecOfLanes 32 out, laneMask 32 mask 0 1)

end Sys2Proof.Machine
end

