-- ==== Sys2Proof/Machine/Writeback.lean ====
section
/-!
DEFINITION. The end of a tile cycle: samples (R297), the writes of results in their order (R55, R56, R298), posts
(R394), and the counts that a cycle advances (R83, R116).
-/
namespace Sys2Proof

/-- Insertion into a list that rises by `key`, after equal keys. -/
def insertBy {α : Type} (key : α → Nat) (x : α) : List α → List α
  | [] => [x]
  | y :: ys => if key x < key y then x :: y :: ys else y :: insertBy key x ys

/-- A list in rising order of `key`, equal keys in their former order. -/
def sortBy {α : Type} (key : α → Nat) (xs : List α) : List α := xs.foldl (fun ys x => insertBy key x ys) []

/-- The rank of an agent's writes, the first writer highest (R298). -/
def Agent.rank : Agent → Nat
  | .cc => 5 | .ve => 4 | .me => 3 | .le => 2 | .se => 1

namespace Machine

/-! ### Atomic operations on bytes (R284) -/

/-- The new value of a read-modify-write on w bits. -/
def AtomOp.apply (op : AtomOp) (w old b : Nat) : Nat :=
  match op with
  | .add => (old + b) % 2 ^ w
  | .min => if readInt true w b < readInt true w old then b else old
  | .max => if readInt true w old < readInt true w b then b else old
  | .minn => if b < old then b else old
  | .maxn => if old < b then b else old
  | .and => old &&& b
  | .or => old ||| b
  | .xor => old ^^^ b
  | .swap => b

/-- Bytes that an atomic touches. -/
def AtomKind.size : AtomKind → Nat
  | .rmw _ w _ => w / 8
  | .cas w _ _ => w / 8
  | .casN e _ => 8 * e.length

/-- The double words of a list of bytes. -/
def wordsOf (n : Nat) (bs : List Byte) : List Word :=
  (List.range n).map fun j => BitVec.ofNat 64 (valueOf ((bs.drop (8 * j)).take 8))

/-- The old values that an atomic returns, and the new bytes if it writes any (R284). -/
def AtomKind.perform (k : AtomKind) (old : List Byte) : List Word × Option (List Byte) :=
  let v := valueOf old
  match k with
  | .rmw op w b => ([BitVec.ofNat 64 v], some (bytesOf (w / 8) (op.apply w v (b.toNat % 2 ^ w))))
  | .cas w e n => ([BitVec.ofNat 64 v], if v = e.toNat % 2 ^ w then some (bytesOf (w / 8) n.toNat) else none)
  | .casN e n =>
    let ws := wordsOf e.length old
    (ws, if ws = e then some (n.flatMap fun w => bytesOf 8 w.toNat) else none)

/-! ### Samples (R131, R178, R192, R196, R277, R282) -/

/-- The result of a tag lookup (R277). -/
def BankSet.lookup (b : BankSet) (tag : Word) : Word :=
  match b.tags.find? fun p => p.2.valid && decide (p.2.tag = tag) with
  | some p => BitVec.ofNat 64 (p.1 + p.2.sbase.toNat * 2 ^ 16 + p.2.slen.toNat * 2 ^ 32)
  | none => 0xFFFF

/-- What a sample yields: the effects that the result writes later, and those written at the end of this very cycle. -/
def Tile.take (t : Tile) : Sample → List Effect × List Effect
  | .ld d off et => ([.x d (et.extend (t.spBytes off et.memBytes))], [])
  | .ldl d off et => ([.x d (et.extend (t.silo.bytes off et.memBytes))], [])
  | .vld d slot off keep mask =>
    let v := vecOf (t.active.bytes.bytes off 512) &&& keep
    ([match d with
      | .s i => .stream i slot (v &&& mask)
      | _ => .vreg d.vIx v mask], [])
  | .tlk d tag => ([.x d (t.active.lookup tag)], [])
  | .atom d off kind =>
    let r := kind.perform (t.active.bytes.bytes off kind.size)
    (List.zipWith Effect.x d r.1, match r.2 with
      | some bs => [.sp off bs]
      | none => [])
  | .stepRow q r off scales info =>
    ([stepEffect info (nth t.me.planes info.plane) q r (t.active.bytes.bytes off (16 * info.et.width)) scales], [])
  | .planeRow p r off n => ([.planeRow p r (BitVec.ofNat 2048 (valueOf (t.active.bytes.bytes off n)))], [])
  | .planeScales p off => ([.planeScales p (vecOf (t.active.bytes.bytes off 512))], [])

/-! ### The writes of results -/

/-- A range of rows or entries of a fixed number of things, all set. -/
def fillAll {α : Type} (n : Nat) (x : α) : Vector α n := Vector.replicate n x

/-- One effect, at the end of a cycle that began with `old` (R192, R194: a step reads its row at the start; R279: an
invalidated tag entry keeps its other fields as they were). -/
def Tile.apply (old t : Tile) (e : Effect) : Tile :=
  let acc (q : Fin 4) (f : Vector Vec 128 → Vector Vec 128) : Tile :=
    { t with me := { t.me with acc := upd t.me.acc q (f (nth t.me.acc q)) } }
  let plane (p : Fin 2) (f : Plane → Plane) : Tile :=
    { t with me := { t.me with planes := upd t.me.planes p (f (nth t.me.planes p)) } }
  match e with
  | .x i v => { t with cc := t.cc.writeX i v }
  | .seed v => { t with cc := { t.cc with srseed := v } }
  | .b i v => { t with cc := { t.cc with b := upd t.cc.b i v } }
  | .g i v => { t with cc := { t.cc with g := upd t.cc.g i v } }
  | .n i v => { t with cc := { t.cc with n := upd t.cc.n i v } }
  | .nest j v => { t with me := { t.me with pending := upd t.me.pending j v } }
  | .nestGo => { t with me := { t.me with active := t.me.pending } }
  | .sreg num v => { t with cc := t.cc.writeStatus num.toNat v }
  | .sp off bs => t.spWrite off bs
  | .spBits off data mask =>
    t.spWrite off (vecBytes (mergeBits (vecOf (t.active.bytes.bytes off 512)) data mask))
  | .slot off bs => { t with silo := t.silo.write off bs }
  | .half silo off high v =>
    let merge (b : Byte) : Byte := if high then (b &&& 0x0F) ||| (v <<< 4) else (b &&& 0xF0) ||| (v &&& 0x0F)
    if silo then { t with silo := t.silo.write off [merge (t.silo.read off)] } else t.spWrite off [merge (t.active.bytes.read off)]
  | .status off cause flags n =>
    let v := valueOf (t.active.bytes.bytes off 16)
    let done := v % 2 ^ 32
    let failed := v / 2 ^ 32 % 2 ^ 32
    let fl := v / 2 ^ 80 % 256 ||| flags.toNat
    let first := match cause with
      | some c => if failed = 0 then (c.toNat, n) else (v / 2 ^ 64 % 2 ^ 16, v / 2 ^ 96)
      | none => (v / 2 ^ 64 % 2 ^ 16, v / 2 ^ 96)
    let count := if cause.isSome then (done, (failed + 1) % 2 ^ 32) else ((done + 1) % 2 ^ 32, failed)
    t.spWrite off (bytesOf 16 (count.1 + count.2 * 2 ^ 32 + first.1 * 2 ^ 64 + fl * 2 ^ 80 + first.2 % 2 ^ 32 * 2 ^ 96))
  | .tagIns e tag sbase slen => t.setActive (t.active.setTag e { valid := true, tag, sbase, slen })
  | .tagInv e => t.setActive (t.active.setTag e { old.active.tag e with valid := false })
  | .tagInvAll => t.setActive { t.active with tags := old.active.tags.filterMap invalid }
  | .tagInvTag tag =>
    t.setActive ((old.active.tags.filter fun p => p.2.valid && decide (p.2.tag = tag)).foldl
      (fun b p => b.setTag p.1 { p.2 with valid := false }) t.active)
  | .vreg d data mask => { t with ve := { t.ve with v := upd t.ve.v d (mergeBits (nth t.ve.v d) data mask) } }
  | .qreg d data mask => { t with ve := { t.ve with q := upd t.ve.q d (mergeBits (nth t.ve.q d) data mask) } }
  | .stream s slot data =>
    let x := nth t.streams s
    { t with streams := upd t.streams s { x with entries := upd x.entries slot { st := .written, data } } }
  | .accRow q r data mask => acc q fun a => upd a r (mergeBits (nth a r) data mask)
  | .accStep q r groups totals info =>
    let (data, mask) := stepRow info groups totals (nth (nth old.me.acc q) r)
    acc q fun a => upd a r (mergeBits (nth a r) data mask)
  | .accClear q => acc q fun _ => fillAll 128 0
  | .accMul q rows => acc q fun a => Vector.ofFn fun i => rows.getD i.val (nth a i)
  | .planeRow p r data => plane p fun x => { x with rows := upd x.rows r data }
  | .planeScales p data => plane p fun x => { x with scales := data }
  | .planeDesc p desc => plane p fun x => { x with desc }
  | .planeClear p => plane p fun x => { x with rows := fillAll 128 0, scales := 0 }
  | .actFlip => { t with me := { t.me with act := 1 - t.me.act } }
  | .kset k count ceil => { t with sems := upd t.sems k { count, ceil } }
  | .enq engine off count =>
    let q := nth t.seqs engine.seqIx
    let e : Seg := { off, count, delay := 2 }
    t.setSeq engine (match q.aside with
      | some a => { q with aside := some (a.1 ++ [e], a.2) }
      | none => { q with queue := q.queue ++ [e] })
  | .stage engine => t.setSeq engine { nth t.seqs engine.seqIx with stg := (nth t.seqs engine.seqIx).stg + 1 }
where
  /-- A listed tag entry without V; an entry of zeros is no longer listed. -/
  invalid (x : Nat × TagEntry) : Option (Nat × TagEntry) :=
    if ({ x.2 with valid := false } : TagEntry) = {} then none else some (x.1, { x.2 with valid := false })

/-! ### Which agents' pipelines move (R54) -/

/-- Whether a result in flight writes the head entry of stream k. -/
def Result.fills (r : Result) (k : Fin 8) (slot : Fin 4) : Bool :=
  (r.effects.any fun e =>
    match e with
    | .stream i j _ => decide (i = k) && decide (j = slot)
    | _ => false) ||
  (match r.sample with
    | some (_, .vld (.s i) j _ _ _) => decide (i = k) && decide (j = slot)
    | _ => false)

/-- Whether an agent is stalled in this cycle. -/
def Tile.isStalled (t : Tile) (ag : Agent) : Bool :=
  if ag = .cc then t.stalled.isSome || (match t.cc.mode with
    | .wfe w => !w.fresh
    | _ => false)
  else (nth t.seqs ag.seqIx).stalled.isSome

/-- An agent that stalls on an empty stream whose head entry its own result in flight is to fill (log 12). -/
def Tile.feedsItself (t : Tile) (ag : Agent) : Bool :=
  if ag = .cc then false
  else
    match (nth t.seqs ag.seqIx).stalled with
    | some (.streamEmpty k) =>
      t.flight.any fun r => decide (r.agent = ag) && r.fills k (nth t.streams k).head
    | _ => false

/-- A sequencer that has nothing to do. -/
def Seq.quiet (q : Seq) : Bool := q.cur.isNone && q.queue.isEmpty && decide (q.gap = 0)

/-- Whether nothing on the tile can move but results of agents that stall on empty streams: the other agents wait as
well and no request is out (log 12). -/
def Tile.stuck (t : Tile) (requests : Bool) : Bool :=
  let ccWaits := decide (t.cc.mode = .ended) ||
    (match t.cc.mode with
      | .wfe w => w.limit.isNone
      | .ready => t.stalled.isSome
      | _ => false)
  !requests && ccWaits && (t.seqs.toList.all fun q => q.stalled.isSome || q.quiet)
    && (t.flight.all fun r => t.isStalled r.agent)

/-- Whether the pipeline of an agent moves on in this cycle: not while it stalls (R54), with the two exceptions of
log 12. -/
def Tile.moves (t : Tile) (requests : Bool) (ag : Agent) : Bool :=
  if !t.isStalled ag || t.feedsItself ag then true
  else
    match ag with
    | .cc => false
    | _ =>
      match (nth t.seqs ag.seqIx).stalled with
      | some (.streamEmpty _) => t.stuck requests
      | _ => false

/-! ### The end of a cycle -/

/-- A write of this cycle: order of the writer (R298), cycle of issue, effects. -/
structure Write where
  rank    : Nat
  issued  : Nat
  effects : List Effect

/-- The post that a result makes at the end of this cycle. -/
def Result.postNow (r : Result) (moves : Bool) : Option (Agent × Post × Word × Word) :=
  if (moves || r.timed) && decide (r.left ≤ 1) then r.post.map fun p => (r.agent, p, r.fpc, r.fidx) else none

/-- One cycle of one result: the result still in flight, if any; the writes of this cycle; the post. -/
def Result.advance (t : Tile) (moves : Bool) (r : Result) : Option Result × List Write × Option (Agent × Post × Word × Word) :=
  if !(moves || r.timed) then (some r, [], none)
  else
    let (r, now) := match r.sample with
      | some (0, smp) =>
        let (later, now) := t.take smp
        ({ r with effects := r.effects ++ later, sample := none }, now)
      | some (k + 1, smp) => ({ r with sample := some (k, smp) }, [])
      | none => (r, [])
    let at_ (es : List Effect) : List Write := if es.isEmpty then [] else [{ rank := r.agent.rank, issued := r.issued, effects := es }]
    if r.left ≤ 1 then (none, at_ (r.effects ++ now), r.postNow true)
    else (some { r with left := r.left - 1 }, at_ now, none)

/-- The bytes of the active set that an effect writes: offset and count. -/
def Effect.range : Effect → Option (Nat × Nat)
  | .sp off bs => some (off, bs.length)
  | .spBits off _ _ => some (off, 512)
  | .half false off _ _ => some (off, 1)
  | .status off .. => some (off, 16)
  | _ => none

/-- Offsets changed by writes with their former bytes (R80). -/
def Tile.formerBytes (t : Tile) (ws : List Write) (remote : List (Nat × Byte)) : List (Nat × Byte) :=
  let ranges := ws.flatMap fun w => w.effects.filterMap Effect.range
  (ranges.filter fun r => decide (r.1 < 0x200000)).flatMap (fun r =>
    (t.active.bytes.bytes r.1 r.2).zipIdx.map fun b => (r.1 + b.2, b.1))
  ++ (remote.filter fun c => decide (c.1 < 0x200000)).map fun c => (c.1, t.active.bytes.read c.1)

/-- The scalar registers that writes change, with the cycle of issue of the writer. -/
def writtenX (ws : List Write) : List (Fin 32 × Nat) :=
  ws.flatMap fun w => w.effects.filterMap fun e =>
    match e with
    | .x i _ => some (i, w.issued)
    | _ => none

/-- The semaphores that kset writes. -/
def ksetOf (ws : List Write) : List (Fin 16) :=
  ws.flatMap fun w => w.effects.filterMap fun e =>
    match e with
    | .kset k _ _ => some k
    | _ => none

/-- The sequencer after a cycle: occupancy counts its active cycles, the bound of R83 tile cycles. -/
def Seq.endCycle (q : Seq) (moves : Bool) : Seq :=
  { q with gap := if moves then q.gap - 1 else q.gap
           queue := q.queue.map fun e => { e with delay := e.delay - 1 }
           aside := q.aside.map fun a => (a.1.map fun e => { e with delay := e.delay - 1 }, a.2) }

/-- The control core's own counts; a handler is entered at the end of the cycle before its first operation (R213). -/
def CcState.endCycle (c : CcState) (pend : Bool) : CcState :=
  let c := { c with tcyc := c.tcyc + 1 }
  match c.mode with
  | .wait n => { c with mode := if n ≤ 1 then .ready else .wait (n - 1) }
  | .resume n => { c with mode := if n ≤ 1 then .ready else .resume (n - 1) }
  | .entering n x tepc =>
    if n ≤ 1 then { c.enterHandler x tepc pend with mode := .ready } else { c with mode := .entering (n - 1) x tepc }
  | .wfe w => { c with mode := .wfe { w with limit := w.limit.map (· - 1), fresh := false } }
  | _ => c

/-- A captured result of the control core: a sample that falls in this cycle is taken, and bytes that an atomic writes in
this cycle become an internal write of their own (R138, R233). -/
def Tile.ccLatch (t : Tile) (x : Result) : List Latch :=
  match x.sample with
  | some (_, smp) =>
    let (later, now) := t.take smp
    let l := { x with effects := x.effects ++ later, sample := none }.latch
    if now.isEmpty then [l] else [l, { l with r := 0, effects := now, post := none }]
  | none => [x.latch]

/-- The control core's results in flight move to the latch bank of the handler being entered; the post of a request in its
due cycle stays what it is (R138). -/
def Tile.captureCc (t : Tile) (depth : Nat) : Tile :=
  let mine (x : Result) : Bool := decide (x.agent = .cc) && !x.timed
  let bank := sortBy (·.r) ((t.flight.filter mine).flatMap t.ccLatch)
  let rest := t.flight.filter fun x => !mine x
  if depth = 1 then { t with flight := rest, bank1 := bank } else { t with flight := rest, bank2 := bank }

/-- A precise trap taken in this cycle: whether it is a trapping form, whose capture counts from the next cycle (R138). -/
def CcState.trapped (c : CcState) : Option Bool :=
  match c.mode with
  | .entering 6 x _ => some (decide (x.code = 0x0008) || decide (x.code = 0x0009))
  | _ => none

/-- The end of a tile cycle. `landings` are the writes of requests that become visible in the next cycle (R30, R315);
`requests` tells whether the tile has requests out, `pend` whether a further faulted result waits. -/
def Tile.endCycle (t : Tile) (landings : List Write) (requests pend : Bool) : Tile :=
  let trapped := t.cc.trapped
  let depth := t.cc.trap.depth + 1
  let t := if trapped = some false then t.captureCc depth else t
  let steps := t.flight.map fun r => r.advance t (t.moves requests r.agent)
  let own := steps.flatMap (·.2.1)
  let writes := sortBy (·.rank) (sortBy (·.issued) (own ++ landings))
  let ksets := ksetOf writes
  let quiet := writes.map fun w => { w with effects := w.effects.filter fun e =>
    match e with
    | .enq .. => false
    | .kset .. => false
    | _ => true }
  let late := writes.flatMap fun w => w.effects.filter fun e =>
    match e with
    | .enq .. => true
    | .kset .. => true
    | _ => false
  let posts := sortBy (fun p => 5 - p.1.rank) ((sortBy (·.issued) t.flight).filterMap fun r => r.postNow (t.moves requests r.agent))
  let posts := posts.filter fun p => !ksets.contains p.2.1.k
  let undo := t.undoNext ++ t.formerBytes writes t.remote
  let t1 := t.remote.foldl (fun u c => u.winWrite c.1 c.2) t
  let t2 := quiet.foldl (fun u w => w.effects.foldl (fun u e => t.apply u e) u) t1
  let t3 := { t2 with
    flight := steps.filterMap (·.1)
    streams := t2.streams.map Stream.endCycle
    seqs := Vector.ofFn fun i =>
      (nth t2.seqs i).endCycle (t.moves requests (match i with | 0 => .ve | 1 => .me | 2 => .le | _ => .se))
    cc := t2.cc.endCycle pend
    posted := false, refused := [], undo, undoNext := [], wroteX := writtenX writes, remote := [], closing := false }
  let t4 := posts.foldl (fun u p => u.postSem p.1 p.2.1 p.2.2.1 p.2.2.2) t3
  let t5 := late.foldl (fun u e => t.apply u e) t4
  let t6 := if trapped = some true then t5.captureCc depth else t5
  { t6 with now := t.now + 1, phase := .close }

/-! ### The step -/

/-- The landings that complete with the cycle before their due cycle (R30, R248, R315). -/
def Req.landing (r : Req) : Write :=
  { rank := r.agent.rank, issued := r.issued
    effects := r.resp.sp.map (fun b => Effect.sp b.1 b.2) ++ r.resp.slot.map (fun b => Effect.slot b.1 b.2)
      ++ r.resp.edges.map (fun e => Effect.half e.1 e.2.1 e.2.2.1 e.2.2.2) ++ (r.resp.status.map fun x => Effect.status x.1 x.2.1 x.2.2.1 x.2.2.2).toList }

/-- A request of this tile that is out. -/
def Req.of (r : Req) (d : DieIx) (t : TileIx) : Bool := !r.orphan && decide (r.die = d) && decide (r.tile = t)

/-- Its bytes become visible in the cycle after this one. -/
def Req.landsNow (r : Req) (d : DieIx) (t : TileIx) (now : Nat) : Bool :=
  r.of d t && r.captured.isNone && decide (r.due = now + 1)

/-- The scratchpad bytes that a request works on: the ranges it names, and for ksel the 1,024 bytes from the query on,
which its descriptor places (R292). -/
def Tile.operandOf (t : Tile) (k : ReqKind) (ranges : List (Nat × Nat)) : List Byte :=
  (ranges.flatMap fun x => t.active.bytes.bytes x.1 x.2) ++
    (match k with
      | .ksel _ a => t.active.bytes.bytes (t.active.bytes.value (a + 16) 4) 1024
      | _ => [])

/-- A request takes its scratchpad operand. -/
def Req.takeOperand (r : Req) (t : Tile) : Req :=
  if r.sampling = [] then r
  else { r with operand := t.operandOf r.kind r.sampling, sampling := [] }

/-- Whether the bytes of a request's response have to be there before the end of this cycle (R30): the end of the cycle
is held open until they are. -/
def ReqKind.lands : ReqKind → Bool
  | .ksel .. => true
  | .lyc .. => true
  | .copy item => decide (item.engine = .le) || item.block.isSome
  | .signal .. => true
  | _ => false

/-- Whether the end of the moving tile's cycle is held open. -/
def State.held (s : State) (d : DieIx) (t : TileIx) : Bool :=
  s.reqs.any fun r => r.landsNow d t (s.tileAt d t).now && r.kind.lands && decide (r.stage ≠ .landed)

/-- What a request of the control core takes of the scratchpad at the end of a cycle: in the active cycle after its issue,
the bytes as that cycle finds them (R131, R292, R360, R363); and no later than before its due cycle. -/
def Req.sampleNow (r : Req) (before after : Tile) (moves : Bool) : Req :=
  if moves && decide (r.issued < before.now) then r.takeOperand before
  else if r.due ≤ before.now + 1 then r.takeOperand after
  else r

/-- The end of the moving tile's cycle. -/
def State.endCycle (s : State) : State :=
  let now := s.here.now
  let mine := s.reqs.filter fun r => r.landsNow s.die s.tile now
  let landings := mine.map Req.landing
  let requests := s.reqs.any fun r => r.of s.die s.tile && r.captured.isNone && decide (r.stage ≠ .retired)
  let pend := s.pendingFault s.die s.tile
  let s1 := s.modHere fun t => t.endCycle landings requests pend
  { s1 with reqs := (s1.reqs.filter fun r => !(r.of s.die s.tile && decide (r.stage = .retired))).map fun r =>
      let r := if r.of s.die s.tile && r.captured.isNone then r.sampleNow s.here s1.here (s.here.moves requests .cc) else r
      if r.landsNow s.die s.tile now then { r with resp := { r.resp with sp := [], slot := [], edges := [], status := none } } else r }

end Machine

end Sys2Proof
end

