-- ==== Sys2Proof/Machine/Issue.lean ====
section
/-!
DEFINITION. How the control core's operations make requests (R269, R271): the arrival offset, the wait for a segment close
(R312), and the accesses that a request names.
-/
namespace Sys2Proof

/-- The arrival offset of an operation flagged O: LIT[15:0], an offset of 0 taken as 1 (R269). -/
def Op.arrival (o : Op) : Nat := max 1 (o.lit.toNat % 2 ^ 16)

/-- The scope that SUB[1:0] holds (R274). -/
def Op.scope (o : Op) : BitVec 2 := o.sub.extractLsb' 0 2

/-- The width that ET selects: 12 for 32-bit words, 0 for 64-bit words (R280). -/
def Op.atomWidth (o : Op) : Nat := if o.et = .n32 then 32 else 64

/-- SCOPE of an atomic operation (R280). -/
def Op.atomScope (o : Op) : BitVec 2 := o.sub.extractLsb' 4 2

/-- ORD holds an acquire. -/
def Op.atomAcquire (o : Op) : Bool := o.sub.getLsbD 2

/-- ORD holds a release. -/
def Op.atomRelease (o : Op) : Option (BitVec 2) := if o.sub.getLsbD 3 then some o.atomScope else none

namespace Machine

/-- A request of the control core's operation: after its wait and its checks, unless the tile freezes before its segment
close (R312); the post is made at the due cycle (R70). -/
def State.ccSend (s : State) (o : Op) (trap : Option (BitVec 16 × Word)) (a : Ask) : State :=
  let t := s.here
  if a.closes && t.segmentsFull && trap.isNone && (o.sw.filter fun k => !t.canWait k 1).isNone then s.awaitSweep
  else s.ccTry o trap fun s' => s'.request .cc { a with arrival := o.arrival, post := o.sp.map (fun k => { k }), fpc := t.cc.pc }

/-- Whether a result in flight writes the scratchpad, the tag table or the silo. -/
def Result.writesTile (r : Result) : Bool :=
  (r.effects.any fun e =>
    match e with
    | .sp .. | .spBits .. | .slot .. | .half .. | .status .. | .tagIns .. | .tagInv _ | .tagInvAll | .tagInvTag _ => true
    | _ => false) ||
  (match r.sample with
    | some (_, .atom ..) => true
    | _ => false)

/-- Whether a write to the tile's own memory issued before cycle c is still to be made by its pipelines. -/
def Tile.pipeWrites (t : Tile) (c : Nat) : Bool := t.flight.any fun f => f.writesTile && decide (f.issued < c)

/-- Whether an access to the tile's own memory issued before cycle c is still to be made by its pipelines: a write, or a read
whose sample is to come. -/
def Tile.pipeAccesses (t : Tile) (c : Nat) : Bool :=
  t.flight.any fun f => (f.writesTile || f.sample.isSome) && decide (f.issued < c)

/-- The precise trap of a misaligned virtual address (R271). -/
def misaligned (va : Word) (n : Nat) : Option (BitVec 16 × Word) := if va.toNat % n ≠ 0 then some (0x0004, va) else none

/-- One access of n bytes. -/
def readPiece (va : Word) (n : Nat) : Piece := { va, n, write := false, read := true }
/-- The same, writing. -/
def writePiece (va : Word) (n : Nat) : Piece := { va, n, write := true, read := false }
/-- The same, reading and writing. -/
def bothPiece (va : Word) (n : Nat) : Piece := { va, n, write := true, read := true }

/-- Whether the control operand of nchase is malformed (R287). -/
def chaseMalformed (control : Word) : Bool :=
  decide (2 ^ 41 ≤ control.toNat) || decide (control.toNat % 256 = 0) || decide ((control.extractLsb' 24 16).toNat % 8 ≠ 0)
    || decide ((control.extractLsb' 8 16).toNat % 8 ≠ 0)

/-- The read of a node's next pointer, or of its key: it needs the rights R and W (R257). -/
def chasePiece (control node : Word) (link : Bool) : Piece :=
  bothPiece (node + (if link then control.extractLsb' 8 16 else control.extractLsb' 24 16).setWidth 64) 8

end Machine

end Sys2Proof
end

