-- ==== Sys2Proof/Machine/Translate.lean ====
section
/-!
DEFINITION. Translation and the checks of an access: the regions of a local address (R26), page tables and their leaves
(R252 to R256), rights and the order of checks (R257 to R260), and the TLBs (R262, R263).
-/
namespace Sys2Proof.Machine

/-! ### Physical addresses (R25, R26) -/

/-- The physical address of a local address on a die. -/
def physical (die : BitVec 12) (l : Nat) : Word := BitVec.ofNat 64 (die.toNat * 2 ^ 40 + l % 2 ^ 40)

/-- What a local address reaches. -/
inductive Region where
  | dram
  /-- The spill area of race records, reachable at system level only. -/
  | spill
  | window (t : TileIx) (off : Nat)
  | registers (off : Nat)
  | host (addr : Nat)
  | reserved
  deriving DecidableEq, Repr

/-- The region of a local address (R26). -/
def region (l : Nat) : Region :=
  if l < 0x0BE0000000 then .dram
  else if l < 0x0C00000000 then .spill
  else if 0x8000000000 ≤ l ∧ l < 0x8040000000 then
    let off := l % 0x1000000
    if off < 0x404000 + 0x4000 ∨ (0x600000 ≤ off ∧ off < 0x620000) then .window (Fin.ofNat 64 (l / 0x1000000 % 64)) off
    else .reserved
  else if 0x9000000000 ≤ l ∧ l < 0x9001000000 then .registers (l - 0x9000000000)
  else if 0xC000000000 ≤ l then .host (l - 0xC000000000)
  else .reserved

/-- Whether a local address lies in DRAM, the spill area included. -/
def inDram (l : Nat) : Bool := decide (l < 0x0C00000000)

/-- The sector of a DRAM address. -/
def sectorOf (l : Nat) : Nat := l / 32

/-- Whether any byte of n bytes at l lies in a poisoned sector (R250). -/
def Die.poisoned (x : Die) (l n : Nat) : Bool :=
  (List.range (sectorOf (l + n - 1) + 1 - sectorOf l)).any fun k => x.poison.contains (sectorOf l + k)

/-! ### Page-table entries (R254, R255) -/

/-- V of an entry. -/
def pteValid (e : Word) : Bool := e.getLsbD 0
/-- LEAF of an entry. -/
def pteLeaf (e : Word) : Bool := e.getLsbD 1
/-- LADDR of a leaf. -/
def pteLaddr (e : Word) : Nat := (e.extractLsb' 16 24).toNat
/-- DIE of a leaf. -/
def pteDie (e : Word) : BitVec 12 := e.extractLsb' 46 12
/-- PTILE of a leaf. -/
def ptePtile (e : Word) : Nat := (e.extractLsb' 58 6).toNat
/-- KD of a leaf. -/
def pteKd (e : Word) : Nat := (e.extractLsb' 13 2).toNat
/-- KT of a leaf. -/
def pteKt (e : Word) : Bool := e.getLsbD 12
/-- LOST of a leaf. -/
def pteLost (e : Word) : Bool := e.getLsbD 9
/-- ROLE of a leaf. -/
def pteRole (e : Word) : Bool := e.getLsbD 8
/-- IL of a leaf. -/
def pteIl (e : Word) : Bool := e.getLsbD 7
/-- PRIV of a leaf. -/
def ptePriv (e : Word) : Bool := e.getLsbD 6
/-- SYS of a leaf. -/
def pteSys (e : Word) : Bool := e.getLsbD 5
/-- X of a leaf. -/
def pteX (e : Word) : Bool := e.getLsbD 4
/-- W of a leaf. -/
def pteW (e : Word) : Bool := e.getLsbD 3
/-- R of a leaf. -/
def pteR (e : Word) : Bool := e.getLsbD 2

/-- The index of a virtual address at a level (R252). -/
def levelIndex (va : Word) (lvl : Nat) : Nat :=
  match lvl with
  | 0 => (va.extractLsb' 43 13).toNat
  | 1 => (va.extractLsb' 30 13).toNat
  | 2 => (va.extractLsb' 21 9).toNat
  | _ => (va.extractLsb' 16 5).toNat

/-- The size of a leaf's page at a level. -/
def pageSize (lvl : Nat) : Nat :=
  match lvl with
  | 1 => 2 ^ 30
  | 2 => 2 ^ 21
  | _ => 2 ^ 16

/-- The alignment of the table that an entry of a level names. -/
def nextAlign (lvl : Nat) : Nat :=
  match lvl with
  | 0 => 2 ^ 16
  | 1 => 2 ^ 12
  | _ => 2 ^ 8

/-- The local address of a virtual address under a leaf (R256). -/
def leafLocal (e : Word) (va : Word) (size : Nat) : Nat := pteLaddr e * 2 ^ 16 + va.toNat % size

/-- Whether a local address lies in a tile window. -/
def inWindow (l : Nat) : Bool := decide (0x8000000000 ≤ l) && decide (l < 0x8040000000)

/-- Malformed of R256. -/
def pteMalformed (e va : Word) (lvl : Nat) : Bool :=
  if pteLeaf e then
    decide (lvl = 0)
      || decide (e &&& 0x00003F0000008C00#64 ≠ 0)
      || decide (pteLaddr e * 2 ^ 16 % pageSize lvl ≠ 0)
      || (pteX e && (pteW e || pteIl e || decide (pteKd e ≠ 0)))
      || (pteIl e && ptePriv e)
      || (decide (pteKd e = 0) && pteKt e)
      || (!ptePriv e && decide (ptePtile e ≠ 0))
      || (pteRole e && !inWindow (leafLocal e va (pageSize lvl)))
  else
    decide (lvl = 3) || decide (e &&& 0xFFFFFF00000000FC#64 ≠ 0)
      || decide ((e.extractLsb' 8 32).toNat * 2 ^ 8 % nextAlign lvl ≠ 0)

/-! ### The walk (R256) -/

/-- What a walk answers: a leaf and its page size, or a cause and TVAL. -/
inductive Walk where
  | leaf (e : Word) (size : Nat)
  | fault (cause : BitVec 16) (tval : Word)
  deriving DecidableEq, Repr

/-- The walk from a table on, n levels being left. -/
def Die.walkFrom (x : Die) (va : Word) (table : Nat) : Nat → Walk
  | 0 => .fault 0x0020 va
  | n + 1 =>
    let lvl := 3 - n
    let a := table + 8 * levelIndex va lvl
    if x.poisoned a 8 then .fault 0x0027 (physical x.id (a / 32 * 32))
    else
      let e : Word := BitVec.ofNat 64 (x.dram.value a 8)
      if !pteValid e || pteMalformed e va lvl then .fault 0x0020 va
      else if pteLeaf e then .leaf e (pageSize lvl)
      else x.walkFrom va ((e.extractLsb' 8 32).toNat * 2 ^ 8) n

/-- The sectors that the walk from a table on reads, n levels being left. -/
def Die.walkSectors (x : Die) (va : Word) (table : Nat) : Nat → List Nat
  | 0 => []
  | n + 1 =>
    let a := table + 8 * levelIndex va (3 - n)
    let e : Word := BitVec.ofNat 64 (x.dram.value a 8)
    sectorOf a :: (if !pteValid e || pteLeaf e || pteMalformed e va (3 - n) then []
      else x.walkSectors va ((e.extractLsb' 8 32).toNat * 2 ^ 8) n)

/-- The walk of a virtual address under a root. -/
def Die.walk (x : Die) (root va : Word) : Walk :=
  if va.toNat ≥ 2 ^ 56 ∨ !root.getLsbD 0 then .fault 0x0020 va
  else x.walkFrom va ((root.extractLsb' 16 24).toNat * 2 ^ 16) 4

/-- The context entry that holds an ASID on a die: it is resident there, or on its way in or out (R264). -/
def Die.findAsid (x : Die) (asid : BitVec 16) : Option (Fin 16) :=
  (List.finRange 16).find? fun q =>
    let e := (nth x.ctxs q).entry
    (decide (e.state = 1) || decide (e.state = 3)) && decide (e.asid = asid)

/-- The walk under the context that holds an ASID. -/
def Die.walkAsid (x : Die) (asid : BitVec 16) (va : Word) : Walk :=
  match x.findAsid asid with
  | some q => x.walk (nth x.ctxs q).entry.ptroot va
  | none => .fault 0x0020 va

/-- The interleave index of a virtual address (R45). -/
def interleaveIndex (va : Word) : Fin 4096 :=
  Fin.ofNat 4096 (((va.extractLsb' 16 40).toNat * 0x9E3779B1) % 2 ^ 64 / 2 ^ 32 % 2 ^ 12)

/-- The home die of a virtual address under a leaf, as a context of a die sees it (R260). -/
def Die.homeOf (x : Die) (asid : BitVec 16) (e va : Word) : BitVec 12 :=
  if pteIl e then
    match x.findAsid asid with
    | some q => nth (nth x.dits (Fin.ofNat 4 (nth x.ctxs q).entry.ditsel.toNat)) (interleaveIndex va)
    | none => 0
  else pteDie e

/-! ### Rights and checks (R257 to R259) -/

/-- What an access needs (R257). -/
inductive Access where
  | fetch | read | write | both
  deriving DecidableEq, Repr

/-- Whether a leaf grants the rights of an access. -/
def Access.granted (a : Access) (e : Word) : Bool :=
  match a with
  | .fetch => pteX e
  | .read => pteR e
  | .write => pteW e
  | .both => pteR e && pteW e

/-- What a check answers. -/
inductive Checked where
  | ok (p : Place)
  | fail (cause : BitVec 16) (tval : Word)
  deriving DecidableEq, Repr

/-- The torus size in dimension k, from POSN of the die's tile 0 (R28). -/
def Die.torus (x : Die) (k : Nat) : Nat := 2 * (((nth x.tiles 0).posn.extractLsb' (21 - 3 * k) 3).toNat + 1)

/-- The coordinate of a die ID in dimension k (R25). -/
def idCoord (id : BitVec 12) (k : Nat) : Nat := (id.extractLsb' (8 - 4 * k) 4).toNat

/-- Whether an ID is that of a die of another package of the torus, about which this package knows nothing (R1, R19). -/
def State.isAway (s : State) (id : BitVec 12) : Bool :=
  (s.findDie id).isNone && [0, 1, 2].all fun k => decide (idCoord id k < (s.dieAt 0).torus k)

/-- Whether the package has a live die with this ID (R25). -/
def State.isLive (s : State) (id : BitVec 12) : Bool :=
  match s.findDie id with
  | some d => s.live d
  | none => false

/-- Who makes an access: tile and die, level, address space and context. -/
structure Who where
  tile  : TileIx
  die   : BitVec 12
  level : Level
  ctxid : BitVec 16
  asid  : BitVec 16
  deriving DecidableEq, Repr

/-- Checks 2 to 6 of R258 on a leaf found at die d. -/
def State.checkLeaf (s : State) (d : DieIx) (w : Who) (a : Access) (va e : Word) (size : Nat) : Checked :=
  let l := leafLocal e va size
  let home := (s.dieAt d).homeOf w.asid e va
  if pteLost e then .fail 0x0025 va
  else if !a.granted e || (pteSys e && decide (w.level = .task)) then .fail 0x0021 va
  else if ptePriv e && !(decide (ptePtile e = w.tile.val) && decide (pteDie e = w.die)) then .fail 0x0021 va
  else if !s.isLive home && !s.isAway home then .fail 0x0023 (physical home l)
  else if region l = .reserved then .fail 0x0024 (physical home l)
  else .ok { die := home, local_ := l, leaf := e, size }

/-- The translation and checks by a walk at die d. -/
def State.checkWalk (s : State) (d : DieIx) (w : Who) (a : Access) (va : Word) : Checked :=
  match (s.dieAt d).walkAsid w.asid va with
  | .fault c v => .fail c v
  | .leaf e size => s.checkLeaf d w a va e size

/-- The checks of a leaf at a target die (R264): a leaf that names another die is as none, before all else. -/
def State.checkTarget (s : State) (d : DieIx) (w : Who) (a : Access) (va e : Word) (size : Nat) : Checked :=
  if (s.dieAt d).homeOf w.asid e va ≠ (s.dieAt d).id then .fail 0x0020 va else s.checkLeaf d w a va e size

/-! ### TLBs (R262) -/

/-- Whether an entry serves a virtual address of an ASID. -/
def TlbEntry.hits (t : TlbEntry) (asid : BitVec 16) (va : Word) : Bool :=
  decide (t.asid = asid) && decide (t.va.toNat ≤ va.toNat) && decide (va.toNat < t.va.toNat + t.size)

/-- The entry of a TLB for a virtual address. -/
def tlbFind (ts : List TlbEntry) (asid : BitVec 16) (va : Word) : Option TlbEntry := ts.find? fun t => t.hits asid va

/-- A TLB of at most n entries with one more; the entry it replaces, if any, goes, and then the oldest. -/
def tlbFill (n : Nat) (ts : List TlbEntry) (t : TlbEntry) : List TlbEntry :=
  (t :: ts.filter fun u => !u.hits t.asid t.va).take n

/-- The entry that a leaf makes. -/
def tlbEntry (asid gen : BitVec 16) (va e : Word) (size : Nat) : TlbEntry :=
  { asid, gen, va := BitVec.ofNat 64 (va.toNat / size * size), size, leaf := e }

/-- The leaf that the first-level or the second-level TLB holds for a tile's access. -/
def State.tlbHit (s : State) (d : DieIx) (t : TileIx) (asid : BitVec 16) (va : Word) : Option TlbEntry :=
  (tlbFind (s.tileAt d t).tlb asid va) <|> tlbFind (s.dieAt d).tlb2 asid va

/-- A leaf enters the tile's and the die's TLBs. -/
def State.tlbLearn (s : State) (d : DieIx) (t : TileIx) (e : TlbEntry) : State :=
  let s := s.modTile d t fun x => { x with tlb := tlbFill 64 x.tlb e }
  s.modDie d fun x => { x with tlb2 := tlbFill 4096 x.tlb2 e }

end Sys2Proof.Machine
end

