-- ==== Sys2Proof/Machine/Global.lean ====
section
/-!
DEFINITION. The issue of the control core's operations on memory beyond the tile, on counters beyond the tile and on
tables (R269 to R295, R354, R355, R396 to R411, R234, R351): their checks in the issue cycle and the requests they make.
-/
namespace Sys2Proof.Machine

/-- A system-only operation at task level takes the privilege trap (R71, R72). -/
def State.ccSystem (s : State) (maj fn : Nat) (body : State → State) : State :=
  if s.here.cc.level = .task then s.privilegeTrap maj fn else body s

/-! ### Loads and stores (R272 to R275) -/

/-- x_a + x_b, the virtual address of a global load or store (R273). -/
def Tile.globalAddr (t : Tile) (o : Op) : Word := t.cc.readX o.a.xIx + t.cc.readX o.b.xIx


/-- A load, plain or acquire. -/
def State.ccLoad (s : State) (o : Op) (acquire : Bool) : State :=
  let va := s.here.globalAddr o
  s.ccSend o (misaligned va o.et.memBytes)
    { kind := .load o.et va, arrival := 0, pieces := [readPiece va o.et.memBytes], d := [o.d.xIx], acquire }

/-- A store, plain or release; a release beyond the tile closes the segment (R305). -/
def State.ccStore (s : State) (o : Op) (release : Option (BitVec 2)) : State :=
  let va := s.here.globalAddr o
  let bs := bytesOf o.et.memBytes (s.here.cc.readX o.c.xIx).toNat
  s.ccSend o (misaligned va o.et.memBytes)
    { kind := .store va bs, arrival := 0, pieces := [writePiece va o.et.memBytes], release
      closes := release.any fun c => decide (c ≠ 0) }

/-- ldg (R273). -/
def execLdg (o : Op) (s : State) : Out := .next (s.ccLoad o false)
/-- stg (R273). -/
def execStg (o : Op) (s : State) : Out := .next (s.ccStore o none)
/-- ldacq: an acquire (R274). -/
def execLdacq (o : Op) (s : State) : Out := .next (s.ccLoad o true)
/-- strel: a release at its scope (R274). -/
def execStrel (o : Op) (s : State) : Out := .next (s.ccStore o (some o.scope))

/-- fence: at scope tile a mark that later requests wait behind, at the others a request of its own (R275, R305). -/
def execFence (o : Op) (s : State) : Out :=
  .next (
    if o.scope = 0 then s.ccIssue o fun s => s.modHere fun t => { t.ccResult o 1 [] with
        tileFence := (t.tileFence.filter fun c => t.pipeWrites (c + 1)) ++ [t.now] }
    else s.ccSend o none { kind := .fence o.scope, arrival := 0, closes := true })

/-! ### Atomic operations (R280 to R284) -/



/-- The checks of a local atomic: range, then alignment (R281). -/
def localAtomCheck (a : Word) (n : Nat) : Option (BitVec 16 × Word) :=
  if 0x200000 < a.toNat + n then some (0x0005, a) else if a.toNat % n ≠ 0 then some (0x0004, a) else none

/-- An atomic operation, on the own bank or as a request (R281, R282). -/
def State.ccAtom (s : State) (o : Op) (d : List (Fin 32)) (k : AtomKind) : State :=
  let a := s.here.cc.readX o.a.xIx
  if o.sub.getLsbD 0 then
    s.ccSend o (misaligned a k.size)
      { kind := .atom a k, arrival := 0, pieces := [bothPiece a k.size], d, acquire := o.atomAcquire, release := o.atomRelease
        closes := o.atomRelease.any fun c => decide (c ≠ 0) }
  else
    s.ccTry o (localAtomCheck a k.size) fun s => s.modHere fun t => t.ccResult o 4 [] (some (1, .atom d a.toNat k))

/-- A read-modify-write (R284). -/
def State.ccRmw (s : State) (o : Op) (op : AtomOp) : State :=
  s.ccAtom o [o.d.xIx] (.rmw op o.atomWidth (s.here.cc.readX o.b.xIx))

/-- atom.add (R284). -/
def execAtomAdd (o : Op) (s : State) : Out := .next (s.ccRmw o .add)
/-- atom.min (R284). -/
def execAtomMin (o : Op) (s : State) : Out := .next (s.ccRmw o .min)
/-- atom.max (R284). -/
def execAtomMax (o : Op) (s : State) : Out := .next (s.ccRmw o .max)
/-- atom.minn (R284). -/
def execAtomMinn (o : Op) (s : State) : Out := .next (s.ccRmw o .minn)
/-- atom.maxn (R284). -/
def execAtomMaxn (o : Op) (s : State) : Out := .next (s.ccRmw o .maxn)
/-- atom.and (R284). -/
def execAtomAnd (o : Op) (s : State) : Out := .next (s.ccRmw o .and)
/-- atom.or (R284). -/
def execAtomOr (o : Op) (s : State) : Out := .next (s.ccRmw o .or)
/-- atom.xor (R284). -/
def execAtomXor (o : Op) (s : State) : Out := .next (s.ccRmw o .xor)
/-- atom.swap (R284). -/
def execAtomSwap (o : Op) (s : State) : Out := .next (s.ccRmw o .swap)

/-- cas (R284). -/
def execCas (o : Op) (s : State) : Out :=
  let x := s.here.cc.readX
  .next (s.ccAtom o [o.d.xIx] (.cas o.atomWidth (x o.b.xIx) (x o.c.xIx)))

/-- The n registers of a group from i on (R280). -/
def xGroup (i : Fin 32) (n : Nat) : List (Fin 32) := (List.range n).map (xAfter i)

/-- cas2 and cas4: n double words (R284). -/
def State.ccCasN (s : State) (o : Op) (n : Nat) : State :=
  let xs (i : Fin 32) : List Word := (xGroup i n).map s.here.cc.readX
  s.ccAtom o (xGroup o.d.xIx n) (.casN (xs o.b.xIx) (xs o.c.xIx))

/-- cas2 (R284). -/
def execCas2 (o : Op) (s : State) : Out := .next (s.ccCasN o 2)
/-- cas4 (R284). -/
def execCas4 (o : Op) (s : State) : Out := .next (s.ccCasN o 4)

/-! ### List queues, pointer chasing, keys (R285 to R295) -/

/-- A list operation on the header at x_a: it may touch every byte from the header to the end of its granule (R285). -/
def State.ccList (s : State) (o : Op) (kind : Word → ReqKind) (d : List (Fin 32)) : State :=
  let a := s.here.cc.readX o.a.xIx
  s.ccSend o (misaligned a 32)
    { kind := kind a, arrival := 0, pieces := [bothPiece a (0x10000 - a.toNat % 0x10000)], d, acquire := o.atomAcquire
      release := o.atomRelease, closes := o.atomRelease.any fun c => decide (c ≠ 0) }

/-- lenq (R286). -/
def execLenq (o : Op) (s : State) : Out :=
  let v := s.here.cc.readX o.b.xIx
  .next (s.ccList o (fun a => .lenq a v) [o.d.xIx])

/-- ldeq (R286). -/
def execLdeq (o : Op) (s : State) : Out := .next (s.ccList o .ldeq (xGroup o.d.xIx 2))

/-- nchase: its first read is of the first node's key, or of its next pointer when keys are not compared (R287). -/
def execNchase (o : Op) (s : State) : Out :=
  let x := s.here.cc.readX
  let control := x o.b.xIx
  let link := !control.getLsbD 40
  .next (s.ccSend o (misaligned (x o.a.xIx) 8)
    { kind := .nchase (x o.a.xIx) control (x o.c.xIx) 0 link, arrival := 0, d := xGroup o.d.xIx 2, acquire := o.atomAcquire
      pieces := if chaseMalformed control then [] else [chasePiece control (x o.a.xIx) link] })

/-- ksel: the descriptor and as much of the scratchpad as a query may take are sampled in e + 1 (R292). -/
def execKsel (o : Op) (s : State) : Out :=
  let a := s.here.cc.readX o.a.xIx
  let trap := misaligned a 64 <|> if 0x200000 < a.toNat + 64 then some (0x0005, a) else none
  .next (s.ccSend o trap
    { kind := .ksel o.et a.toNat, arrival := 0, d := [o.d.xIx], sampling := [(a.toNat, 64)] })

/-- kcrust (R291). -/
def execKcrust (o : Op) (s : State) : Out :=
  let x := s.here.cc.readX
  .next (s.ccSend o (misaligned (x o.a.xIx) 256) { kind := .kcrust (x o.a.xIx) (x o.b.xIx), arrival := 0, d := [o.d.xIx] })

/-! ### Barrier objects, supersteps, trigger counters (R400 to R410) -/

/-- A barrier-object operation: alignment 16, rights R and W (R400). -/
def State.ccBarrier (s : State) (o : Op) (kind : Word → Word → ReqKind) (d : List (Fin 32)) (acquire : Bool) : State :=
  let a := s.here.cc.readX o.a.xIx
  s.ccSend o (misaligned a 16)
    { kind := kind a (s.here.cc.readX o.b.xIx), arrival := 0, pieces := [bothPiece a 16], d, acquire }

/-- barinit (R401). -/
def execBarinit (o : Op) (s : State) : Out := .next (s.ccBarrier o .barinit [] false)
/-- barexp (R401). -/
def execBarexp (o : Op) (s : State) : Out := .next (s.ccBarrier o .barexp [o.d.xIx] false)
/-- barwait: an acquire (R401). -/
def execBarwait (o : Op) (s : State) : Out := .next (s.ccBarrier o .barwait [o.d.xIx] true)

/-- ssync: a release at scope part that closes the segment (R404). A participant's communication phase begins at T + A
unless one is still open (R405). -/
def execSsync (o : Op) (s : State) : Out :=
  let t := s.here
  let part := (t.task.map (·.ssp)).getD false
  let kind : ReqKind := if !part then .delay none else if t.super.isSome then .delay (some (0x0014, 0x10000)) else .ssync
  let s1 := s.ccSend o none { kind, arrival := 0, closes := true, release := if kind = .ssync then some 2 else none }
  .next (
    if kind = .ssync ∧ s.nextReq < s1.nextReq then
      s1.modHere fun u => { u with super := some { s := t.now + o.arrival } }
    else s1)

/-- sstat bar (R406). -/
def execSstatBar (o : Op) (s : State) : Out :=
  .next (s.ccSend o none { kind := .sstatBar, arrival := 0, d := [o.d.xIx] })
/-- sstat stg (R406). -/
def execSstatStg (o : Op) (s : State) : Out :=
  .next (s.ccSend o none { kind := .sstatStg, arrival := 0, d := [o.d.xIx] })

/-- A change of a trigger counter: a release at scope part that closes the segment (R410). -/
def State.ccCounter (s : State) (o : Op) (set : Bool) : State :=
  let x := s.here.cc.readX
  s.ccSend o none
    { kind := .tcadd (x o.a.xIx) (x o.b.xIx) set, arrival := 0, d := [o.d.xIx], release := some 2, closes := true }

/-- tcadd add (R410). -/
def execTcaddAdd (o : Op) (s : State) : Out := .next (s.ccCounter o false)
/-- tcadd set (R410). -/
def execTcaddSet (o : Op) (s : State) : Out := .next (s.ccCounter o true)
/-- tcrd: an acquire at scope part (R410). -/
def execTcrd (o : Op) (s : State) : Out :=
  .next (s.ccSend o none { kind := .tcrd (s.here.cc.readX o.a.xIx), arrival := 0, d := [o.d.xIx], acquire := true })

/-! ### Tables (R355) -/

/-- A table operation that receives a status in x_d. -/
def State.ccTable (s : State) (o : Op) (kind : ReqKind) : State := s.ccSend o none { kind, arrival := 0, d := [o.d.xIx] }

/-- A layout record's offset is usable (R360, R363). -/
def recordOffset (a : Word) : Bool := decide (a.toNat % 64 = 0) && decide (a.toNat + 64 ≤ 0x200000)

/-- A table operation that samples layout records in e + 1. -/
def State.ccLayout (s : State) (o : Op) (kind : ReqKind) (recs : List Word) : State :=
  s.ccSend o none { kind, arrival := 0, d := [o.d.xIx], sampling := (recs.filter recordOffset).map fun a => (a.toNat, 64) }

/-- lyc (R360). -/
def execLyc (o : Op) (s : State) : Out :=
  let a := s.here.cc.readX o.a.xIx
  .next (s.ccLayout o (.lyc a) [a])

/-- A query of a layout record (R363). -/
def State.ccQuery (s : State) (o : Op) (what : BitVec 8) : State :=
  let a := s.here.cc.readX o.a.xIx
  s.ccLayout o (.lyq a (s.here.cc.readX o.b.xIx) what) [a]

/-- lyq box (R363). -/
def execLyqBox (o : Op) (s : State) : Out := .next (s.ccQuery o 0)
/-- lyq shard (R363). -/
def execLyqShard (o : Op) (s : State) : Out := .next (s.ccQuery o 1)
/-- lyq nup (R363). -/
def execLyqNup (o : Op) (s : State) : Out := .next (s.ccQuery o 2)
/-- lyq ndn (R363). -/
def execLyqNdn (o : Op) (s : State) : Out := .next (s.ccQuery o 3)

/-- tsld slots (R367). -/
def execTsldSlots (o : Op) (s : State) : Out := .next (s.ccTable o (.tsld (s.here.cc.readX o.a.xIx) false))
/-- tsld red (R367). -/
def execTsldRed (o : Op) (s : State) : Out := .next (s.ccTable o (.tsld (s.here.cc.readX o.a.xIx) true))

/-- rtld (R373). -/
def execRtld (o : Op) (s : State) : Out :=
  let x := s.here.cc.readX
  .next (s.ccSystem 0xE2 1 fun s => s.ccTable o (.rtld (x o.a.xIx) (x o.b.xIx)))

/-- tlbinv: a release at scope part that closes the segment (R392). -/
def State.ccInvalidate (s : State) (o : Op) (what : BitVec 8) : State :=
  let x := s.here.cc.readX
  s.ccSystem 0xE4 0 fun s => s.ccSend o none
    { kind := .tlbinv (x o.a.xIx) (x o.b.xIx) what, arrival := 0, d := [o.d.xIx], release := some 2, closes := true }

/-- tlbinv page (R392). -/
def execTlbinvPage (o : Op) (s : State) : Out := .next (s.ccInvalidate o 0)
/-- tlbinv asid (R392). -/
def execTlbinvAsid (o : Op) (s : State) : Out := .next (s.ccInvalidate o 1)
/-- tlbinv all (R392). -/
def execTlbinvAll (o : Op) (s : State) : Out := .next (s.ccInvalidate o 2)

/-- atw (R390). -/
def execAtw (o : Op) (s : State) : Out :=
  let x := s.here.cc.readX
  .next (s.ccSystem 0xE4 1 fun s => s.ccTable o (.atw (x o.a.xIx) (x o.b.xIx) (x o.c.xIx)))

/-- A write of a die interleave table (R389). -/
def State.ccInterleave (s : State) (o : Op) (load : Bool) : State :=
  let x := s.here.cc.readX
  s.ccSystem 0xE4 2 fun s => s.ccTable o (.ditw (x o.a.xIx) (x o.b.xIx) load)

/-- ditw fill (R389). -/
def execDitwFill (o : Op) (s : State) : Out := .next (s.ccInterleave o false)
/-- ditw load (R389). -/
def execDitwLoad (o : Op) (s : State) : Out := .next (s.ccInterleave o true)

/-- fcol load (R382). -/
def execFcolLoad (o : Op) (s : State) : Out :=
  let x := s.here.cc.readX
  .next (s.ccTable o (.fcolLoad (x o.a.xIx) (x o.b.xIx)))
/-- fcol run (R383). -/
def execFcolRun (o : Op) (s : State) : Out :=
  let x := s.here.cc.readX
  .next (s.ccTable o (.fcolRun (x o.a.xIx) (x o.b.xIx)))

/-- ACT of the trigger descriptor at a virtual address, as its home holds it now (R385); none where it cannot be read. -/
def State.triggerAct (s : State) (va : Word) : Option Nat :=
  let t := s.here
  match s.checkWalk s.die { tile := s.tile, die := s.hereDie.id, level := t.cc.level, ctxid := t.cc.ctxid, asid := t.cc.asid }
    .read va with
  | .fail _ _ => none
  | .ok p =>
    match region p.local_, s.findDie p.die with
    | .dram, some d => some ((s.dieAt d).dram.read (p.local_ + 20)).toNat
    | .window t off, some d =>
      let x := s.tileAt d t
      some (x.winByte (x.byRole (pteRole p.leaf) off + 20)).toNat
    | .host a, _ => some (s.host.read (a + 20)).toNat
    | _, _ => none

/-- ftrig arm: with ACT 2 its issue closes the segment, and it waits for the accesses before it (R305, R387). -/
def execFtrigArm (o : Op) (s : State) : Out :=
  let x := s.here.cc.readX
  let adds := decide (s.triggerAct (x o.b.xIx) = some 2)
  .next (s.ccSend o none
    { kind := .ftrigArm (x o.a.xIx) (x o.b.xIx), arrival := 0, d := [o.d.xIx], closes := adds
      release := if adds then some 2 else none })
/-- ftrig disarm (R387). -/
def execFtrigDisarm (o : Op) (s : State) : Out := .next (s.ccTable o (.ftrigDisarm (s.here.cc.readX o.a.xIx)))
/-- ftrig query (R387). -/
def execFtrigQuery (o : Op) (s : State) : Out := .next (s.ccTable o (.ftrigQuery (s.here.cc.readX o.a.xIx)))

/-- rshd: both records are sampled in e + 1 (R377). -/
def execRshd (o : Op) (s : State) : Out :=
  let x := s.here.cc.readX
  .next (s.ccLayout o (.rshd (x o.a.xIx) (x o.b.xIx) (x o.c.xIx)) [x o.a.xIx, x o.b.xIx])

/-- A query of the die's re-shard plan (R380). -/
def State.ccPlan (s : State) (o : Op) (pairs : Bool) : State :=
  let x := s.here.cc.readX
  s.ccLayout o (.rshq (x o.a.xIx) (x o.b.xIx) pairs) [x o.a.xIx, x o.b.xIx]

/-- rshq total (R380). -/
def execRshqTotal (o : Op) (s : State) : Out := .next (s.ccPlan o false)
/-- rshq pairs (R380). -/
def execRshqPairs (o : Op) (s : State) : Out := .next (s.ccPlan o true)

/-! ### Kill and context swap (R234, R351) -/

/-- kill (R351). -/
def execKill (o : Op) (s : State) : Out :=
  let a := s.here.cc.readX o.a.xIx
  .next (s.ccSystem 0xBC 0 fun s => s.ccTable o (.kill a))

/-- A context swap (R234). -/
def State.ccSwap (s : State) (o : Op) (what : BitVec 8) : State :=
  let x := s.here.cc.readX
  s.ccSystem 0xE4 3 fun s => s.ccTable o (.ctxsw (x o.a.xIx) (x o.b.xIx) what)

/-- ctxsw out (R234, R235). -/
def execCtxswOut (o : Op) (s : State) : Out := .next (s.ccSwap o 0)
/-- ctxsw in (R234, R235). -/
def execCtxswIn (o : Op) (s : State) : Out := .next (s.ccSwap o 1)
/-- ctxsw xchg (R234, R235). -/
def execCtxswXchg (o : Op) (s : State) : Out := .next (s.ccSwap o 2)
/-- ctxsw spill (R234, R235). -/
def execCtxswSpill (o : Op) (s : State) : Out := .next (s.ccSwap o 3)

end Sys2Proof.Machine
end

