-- ==== Sys2Proof/Machine/Counters.lean ====
section
/-!
DEFINITION. Semaphores (R393 to R397), the outer loops of a stream (R79, R442) and the stage counter (R347).
-/
namespace Sys2Proof.Machine

/-- The semaphore that an operand names. -/
def Operand.kIx : Operand → Fin 16
  | .k i => i
  | _ => 0

/-- TVAL of a ceiling trap for the semaphores of a list: the lowest index, and a bit for each (R395). -/
def ceilingTval (ks : List (Fin 16)) : Word :=
  BitVec.ofNat 64 (ks.foldl (fun m k => min m k.val) 15 + 2 ^ 16 * (ks.eraseDups.map fun k => 2 ^ k.val).sum)

/-- kset and kset.reg: count and ceiling, at the end of the issue cycle (R397). -/
def State.kset (s : State) (o : Op) (c m : BitVec 8) : State :=
  let k := Operand.kIx o.d
  s.ccTry o (if m < c then some (0x000B, ceilingTval [k]) else none) fun s =>
    s.modHere fun t => t.ccResult o 1 [.kset k c m]

/-- kset (R397). -/
def execKset (o : Op) (s : State) : Out := .next (s.kset o (o.lit.extractLsb' 0 8) (o.lit.extractLsb' 8 8))

/-- kset.reg (R397). -/
def execKsetReg (o : Op) (s : State) : Out :=
  let v := s.here.cc.readX o.a.xIx
  .next (s.kset o (v.extractLsb' 0 8) (v.extractLsb' 8 8))

/-- kwait: a wait for n, made in the issue cycle (R394, R397). -/
def execKwait (o : Op) (tail : Option Tail) (s : State) : Out :=
  let k := Operand.kIx o.a
  let n := o.sub.toNat
  match tail with
  | none =>
    .next (if s.here.canWait k n then s.ccIssue o fun s => s.modHere fun t => t.takeSem k n else s.stallCc (.sem k n))
  | some tl =>
    .next (s.iterate (.kwait o tail) o tl id
      (fun _ _ _ => { block := if s.here.canWait k n then none else some (.sem k n), handshake := true })
      fun s x => (s.modHere fun t => t.takeSem k n).addResults x [])

/-- kpost: a post of n, made at the end of the issue cycle (R394, R397). -/
def execKpost (o : Op) (tail : Option Tail) (s : State) : Out :=
  let p : Post := { k := Operand.kIx o.a, n := o.sub }
  match tail with
  | none =>
    .next (s.ccIssue o fun s => s.modHere fun t =>
      t.issue { agent := .cc, left := 1, issued := t.now, post := some p, fpc := prevPc t.cc.pc })
  | some tl =>
    .next (s.iterate (.kpost o tail) o tl id (fun _ _ _ => { handshake := true }) fun s x => s.addResults { x with post := some p } [])

/-- loop: opens an outer level that begins with the next record (R79, R442). -/
def execLoop (o : Op) (tl : Tail) (s : State) : Out :=
  .next (s.iterate (.loop o tl) o { tl with t0 := 0 } id (fun _ _ _ => {}) fun s x =>
    (s.modHere fun t =>
      let q := nth t.seqs s.agent.seqIx
      t.setSeq s.agent { q with loops := { first := x.q.idx + 1, trips := tl.t0.toNat, index := 0 } :: q.loops }).addResults x [])

/-- endloop: the next pass begins at the first record of the loop, or the loop is closed (R79, R442). -/
def execEndloop (o : Op) (tl : Tail) (s : State) : Out :=
  .next (s.iterate (.endloop o tl) o tl id (fun _ _ _ => {}) fun s x =>
    (s.modHere fun t =>
      let q := nth t.seqs s.agent.seqIx
      t.setSeq s.agent (match x.q.loops with
        | l :: more =>
          if l.index + 1 < l.trips then
            { x.q with gap := 1, stalled := none, cur := none, idx := l.first, loops := { l with index := l.index + 1 } :: more }
          else if q.loops.isEmpty then q else { q with loops := more }
        | [] => q)).addResults x [])

/-- cstep: one more stage, at the end of the issue cycle; at 255 the counter stays and the tile takes a due-cycle trap in
the next cycle (R347, R407). -/
def execCstep (o : Op) (tl : Tail) (s : State) : Out :=
  .next (s.iterate (.cstep o tl) o tl id (fun _ _ _ => {}) fun s x =>
    let ag := s.agent
    if (nth s.here.seqs ag.seqIx).stg = 255 then
      (s.request ag { kind := .delay (some (0x0014, 0x10001)), arrival := 1, fpc := BitVec.ofNat 64 x.r.off, fidx := x.r.fidx }).addResults x []
    else s.addResults x [{ agent := ag, left := 1, issued := 0, effects := [.stage ag] }])

end Sys2Proof.Machine
end

