-- ==== Sys2Proof/Machine/Race.lean ====
section
/-!
DEFINITION. Race records (R306 to R313): the check and the update of a sector's record by an access, the buckets of the
spill area, and the sweep.
-/
namespace Sys2Proof.Machine

/-- A tile as race records name it: die ID and tile index (R309). -/
abbrev TileId := BitVec 18

/-- The identity of a tile. -/
def tileId (die : BitVec 12) (t : TileIx) : TileId := BitVec.ofNat 18 (die.toNat * 64 + t.val)

/-- What an access does to a record (R301, R306). -/
inductive RaceOp where
  | read
  | syncRead
  | write
  | syncWrite
  /-- A write counted into the barrier object at this physical address, in this phase. -/
  | counted (bar : Nat) (phase : Bool)
  deriving DecidableEq, Repr

/-- Whether the access writes. -/
def RaceOp.writes : RaceOp → Bool
  | .read | .syncRead => false
  | _ => true

/-- Whether the access synchronises. -/
def RaceOp.sync : RaceOp → Bool
  | .syncRead | .syncWrite => true
  | _ => false

/-- Open(id, s) of R306: the tile's present segment is s. A tile of a lost die counts by the SEG that it last held, so its
last segment stays open until its die is reset. DESIGN CHOICE (log 92). -/
def State.openSegment (s : State) (id : TileId) (seg : BitVec 11) : Bool :=
  match s.findDie (id.extractLsb' 6 12) with
  | some d => decide ((s.tileAt d (Fin.ofNat 64 (id.toNat % 64))).seg.setWidth 11 = seg)
  | none => false

/-- The phase of the barrier object at a physical address (R398). -/
def State.phaseAt (s : State) (bar : Nat) : Bool :=
  match s.findDie (BitVec.ofNat 12 (bar / 2 ^ 40)) with
  | some d => ((s.dieAt d).dram.value (bar % 2 ^ 40) 8).testBit 63
  | none => false

/-- The record of a sector. -/
def Die.race (x : Die) (sector : Nat) : RaceRec := ((x.races.find? fun p => decide (p.1 = sector)).map (·.2)).getD {}

/-- The record of a sector replaced; an empty record is not listed. -/
def Die.setRace (x : Die) (sector : Nat) (r : RaceRec) : Die :=
  let r' : RaceRec := if r = { spilled := r.spilled } then {} else r
  { x with races := x.races.filter (fun p => decide (p.1 < sector)) ++ (if r' = {} then [] else [(sector, r')])
                      ++ x.races.filter fun p => decide (sector < p.1) }

/-- Refuse of R306, for a record that may be published; an unpublished or acquired record is answered as the access is
to see it. -/
def State.raceCheck (s : State) (rc : RaceRec) (me : TileId) (op : RaceOp) : Option RaceRec :=
  match rc.published with
  | some (w, bar, phase) => if me ≠ w ∧ s.phaseAt bar = phase then none else some {}
  | none =>
    let clash := match rc.writer with
      | some (w, g) => s.openSegment w g && decide (w ≠ me) && !(rc.sync && op.sync)
      | none => false
    let readers := op.writes && rc.readers.any fun p => s.openSegment p.1 p.2 && decide (p.1 ≠ me)
    if clash || readers then none else some { rc with spilled := false }

/-- Extension entries that a record takes in its bucket (R309). -/
def RaceRec.extensions (r : RaceRec) : Nat := if r.published.isSome then 1 else r.readers.length - 1

/-- The bucket of a sector (R310). -/
def bucketOf (sector : Nat) : Nat :=
  let l := sector * 32
  (l / 32 % 2 ^ 22) ^^^ (l / 2 ^ 27 % 2 ^ 13)

/-- Whether a record's writer and readers are all closed (R311, R312). -/
def State.raceClosed (s : State) (r : RaceRec) : Bool :=
  r.published.isNone && (match r.writer with
    | some (w, g) => !s.openSegment w g
    | none => true) && r.readers.all fun p => !s.openSegment p.1 p.2

/-- Whether a sweep empties a record: closed, or published by a barrier that has flipped (R312). -/
def State.raceStale (s : State) (r : RaceRec) : Bool :=
  match r.published with
  | some (_, bar, phase) => decide (s.phaseAt bar ≠ phase)
  | none => s.raceClosed r

/-- Entries that a record holds in its bucket: the record itself when spilled, and its extension entries. -/
def RaceRec.entries (r : RaceRec) : Nat := (if r.spilled then 1 else 0) + r.extensions

/-- A record of a bucket whose closed entries are emptied: all of it, or extension entries of closed readers. -/
def State.cleanRecord (s : State) (r : RaceRec) : RaceRec :=
  if r.published.isSome then r
  else if s.raceClosed r then {}
  else { r with readers := r.readers.take 1 ++ (r.readers.drop 1).filter fun p => s.openSegment p.1 p.2 }

/-- Die d with every closed entry of a bucket emptied (R311). -/
def State.cleanBucket (s : State) (d : DieIx) (bucket : Nat) : State :=
  s.modDie d fun x =>
    { x with races := x.races.filterMap fun p =>
        if bucketOf p.1 = bucket ∧ 0 < p.2.entries then
          (let r := s.cleanRecord p.2
           if r = {} then none else some (p.1, r))
        else some p }

/-- Entries of a bucket that are taken, those of one sector left out. -/
def Die.bucketUse (x : Die) (bucket but : Nat) : Nat :=
  ((x.races.filter fun p => decide (bucketOf p.1 = bucket) && decide (p.1 ≠ but)).map fun p => p.2.entries).sum

/-- The record after an access that is not refused (R306). -/
def State.raceUpdate (s : State) (rc : RaceRec) (me : TileId) (seg : BitVec 11) (op : RaceOp) : RaceRec :=
  match op with
  | .read =>
    if rc.readers.any fun p => decide (p = (me, seg)) then rc
    else
      match rc.readers.findIdx? fun p => !s.openSegment p.1 p.2 with
      | some i => { rc with readers := rc.readers.set i (me, seg) }
      | none => { rc with readers := rc.readers ++ [(me, seg)] }
  | .syncRead => rc
  | .write => { writer := some (me, seg) }
  | .syncWrite => { writer := some (me, seg), sync := true }
  | .counted bar phase => { published := some (me, bar, phase) }

/-- The check and the update of one sector of die d: the cause of a refusal, or the state with the record (R306, R311). -/
def State.raceSector (s : State) (d : DieIx) (me : TileId) (seg : BitVec 11) (op : RaceOp) (sector : Nat) :
    Except (BitVec 16) State :=
  let rc := (s.dieAt d).race sector
  match s.raceCheck rc me op with
  | none => .error 0x0029
  | some seen =>
    let new := s.raceUpdate seen me seg op
    if new.extensions ≤ seen.extensions then .ok (s.modDie d fun x => x.setRace sector new)
    else
      let s1 := s.cleanBucket d (bucketOf sector)
      if 8 < (s1.dieAt d).bucketUse (bucketOf sector) sector + new.extensions then .error 0x002A
      else .ok (s1.modDie d fun x => x.setRace sector new)

/-- The sectors that n bytes at l touch. -/
def sectorsOf (l n : Nat) : List Nat := (List.range (sectorOf (l + n - 1) + 1 - sectorOf l)).map (sectorOf l + ·)

/-- The check and the update of every sector of an access: all or none (R306). A refusal names the sector. -/
def State.raceAccess (s : State) (d : DieIx) (me : TileId) (seg : BitVec 11) (op : RaceOp) :
    List Nat → Except (BitVec 16 × Nat) State
  | [] => .ok s
  | sec :: more =>
    match s.raceSector d me seg op sec with
    | .error c => .error (c, sec)
    | .ok s1 => s1.raceAccess d me seg op more

/-- The sweep of die d's slices: every record that has become stale is emptied (R312). -/
def State.sweepRecords (s : State) (d : DieIx) : State :=
  s.modDie d fun x => { x with races := x.races.filter fun p => !s.raceStale p.2 }

/-- The record of a sector goes to its bucket if there is room (R310, R311). -/
def State.spillSector (s : State) (d : DieIx) (sector : Nat) : Option State :=
  if (s.dieAt d).race sector = {} then some s
  else
    let s1 := s.cleanBucket d (bucketOf sector)
    let rc := (s1.dieAt d).race sector
    if rc = {} then some s1
    else if 8 < (s1.dieAt d).bucketUse (bucketOf sector) sector + rc.extensions + 1 then none
    else some (s1.modDie d fun x => x.setRace sector { rc with spilled := true })

/-! ### The lines of the slices (R27, R249, R310, R311) -/

/-- The 64-byte line of a sector. -/
def lineOfSector (sector : Nat) : Nat := sector / 2

/-- The home channel of a DRAM address (R27). -/
def channelOf (l : Nat) : Nat := (l / 2 ^ 16 % 32) ^^^ (l / 2 ^ 21 % 32)

/-- The home channel of a line. -/
def lineChannel (line : Nat) : Nat := channelOf (line * 64)

/-- Whether a slice of the die holds a sector of a line. -/
def Die.holdsLine (x : Die) (line : Nat) : Bool := x.slices.any fun c => decide (lineOfSector c.sector = line)

/-- The lines that the slice of a channel holds; its sectors are listed in rising order. -/
def Die.linesHeld (x : Die) (channel : Nat) : List Nat :=
  ((x.slices.filter fun c => decide (lineChannel (lineOfSector c.sector) = channel)).foldl (fun (out : List Nat) c =>
    if out.head? = some (lineOfSector c.sector) then out else lineOfSector c.sector :: out) []).reverse

/-- Whether the slice of a channel is full: 2 MiB of lines of 64 bytes. -/
def Die.sliceFull (x : Die) (channel : Nat) : Bool :=
  decide (32768 ≤ x.slices.length) && decide (32768 ≤ (x.linesHeld channel).length)

/-- A line leaves its slice, dirty sectors being written back: the records of its sectors go to their buckets, if these
have room (R310, R311). -/
def State.evictLine (s : State) (d : DieIx) (line : Nat) : Option State :=
  ((s.spillSector d (2 * line)).bind fun s1 => s1.spillSector d (2 * line + 1)).map fun s2 =>
    s2.modDie d fun x => { x with slices := x.slices.filter fun c => decide (lineOfSector c.sector ≠ line) }

/-- Room for a line in its slice: another line leaves a full one, the first that can; none when none can (R311). -/
def State.makeRoom (s : State) (d : DieIx) (line : Nat) : Option State :=
  let x := s.dieAt d
  if x.holdsLine line || !x.sliceFull (lineChannel line) then some s
  else (x.linesHeld (lineChannel line)).findSome? fun l => s.evictLine d l

end Sys2Proof.Machine
end

