-- ==== Sys2Proof/Machine/Home.lean ====
section
/-!
DEFINITION. An access at its home (R270, R299, R300): DRAM behind its slices (R249, R250) with race records (R306) and
crust maintenance (R288 to R290), tile windows (R242), and host memory (R267).
-/
namespace Sys2Proof.Machine

/-- A failed access: cause and TVAL (R258). -/
abbrev Failed := BitVec 16 × Word

/-! ### DRAM and its slices -/

/-- The bits of a sector. -/
def Die.sectorBits (x : Die) (sec : Nat) : BitVec 256 := BitVec.ofNat 256 (x.dram.value (sec * 32) 32)

/-- The bytes of a sector are read from DRAM: an error in one symbol is written back corrected and counted (R250). -/
def Die.fill (x : Die) (sec : Nat) : Die :=
  if x.flaws.contains sec && !x.slices.any fun c => decide (c.sector = sec) then
    { x with flaws := x.flaws.filter fun k => decide (k ≠ sec)
             dramce := if x.dramce = 0xFFFFFFFF then x.dramce else x.dramce + 1 }
  else x

/-- The records of a line that enters its slice return from the spill area (R310). -/
def Die.refill (x : Die) (line : Nat) : Die :=
  if x.races.any fun p => p.2.spilled && decide (lineOfSector p.1 = line) then
    { x with races := x.races.map fun p => if lineOfSector p.1 = line then (p.1, { p.2 with spilled := false }) else p }
  else x

/-- A slice holds a sector from now on; `dirty` marks it, keeping what DRAM still holds and the marks it bears (R249). -/
def Die.hold (x : Die) (dirty : Bool) (sec : Nat) : Die :=
  let x := x.refill (lineOfSector sec)
  let now := x.slices.find? fun c => decide (c.sector = sec)
  let old := match now with
    | some c => if dirty then c.old <|> some (x.sectorBits sec) else c.old
    | none => if dirty then some (x.sectorBits sec) else none
  let bad := now.any (·.bad) || (dirty && x.poison.contains sec)
  let flaw := now.any (·.flaw) || (dirty && x.flaws.contains sec)
  { x with slices := x.slices.filter (fun c => decide (c.sector < sec)) ++ [{ sector := sec, old, bad, flaw }]
                       ++ x.slices.filter fun c => decide (sec < c.sector) }

/-- A sector that has been written back: clean, and DRAM bears no mark of before (R249, R250). -/
def CacheSector.cleaned (c : CacheSector) : CacheSector := { sector := c.sector }

/-- The first poisoned sector among those that bytes touch. -/
def Die.poisonAt (x : Die) (l n : Nat) : Option Nat := (sectorsOf l n).find? fun k => x.poison.contains k

/-- The uncorrectable-data error of a sector (R250). -/
def Die.poisonFault (x : Die) (sec : Nat) : Failed := (0x0027, physical x.id (sec * 32))

/-- The walk of a virtual address at die d goes through its slices, which keep what it reads while they have room (R249). -/
def State.walked (s : State) (d : DieIx) (asid : BitVec 16) (va : Word) : State :=
  match (s.dieAt d).findAsid asid with
  | none => s
  | some q =>
    let root := (s.ctxAt d q).entry.ptroot
    if va.toNat ≥ 2 ^ 56 ∨ !root.getLsbD 0 then s
    else s.modDie d fun x =>
      (x.walkSectors va ((root.extractLsb' 16 24).toNat * 2 ^ 16) 4).foldl (fun y k =>
        let line := lineOfSector k
        let y := y.fill k
        if y.holdsLine line || !y.sliceFull (lineChannel line) then y.hold false k else y) x

/-- Room in the slices for the lines of sectors; where no line can leave, the access is refused, naming the sector's
virtual address as `va` at l gives it (R307, R311). -/
def State.roomFor (s : State) (d : DieIx) (va : Word) (l : Nat) : List Nat → Except Failed State
  | [] => .ok s
  | k :: ks =>
    match s.makeRoom d (lineOfSector k) with
    | none => .error (0x002A, va - BitVec.ofNat 64 l + BitVec.ofNat 64 (k * 32))
    | some s1 => s1.roomFor d va l ks

/-- A read of DRAM; the bytes at l have the virtual address va. -/
def State.dramRead (s : State) (d : DieIx) (va : Word) (l n : Nat) : Except Failed (State × List Byte) :=
  let x := s.dieAt d
  match x.poisonAt l n with
  | some k => .error (x.poisonFault k)
  | none =>
    (s.roomFor d va l (sectorsOf l n)).map fun s1 =>
      (s1.modDie d fun y => (sectorsOf l n).foldl (fun y k => (y.fill k).hold false k) y, x.dram.bytes l n)

/-- A write of DRAM: a poisoned sector takes a write of the whole sector only, which clears the mark; a part of a sector
is written into what a fill has read (R250). -/
def State.dramWrite (s : State) (d : DieIx) (va : Word) (l : Nat) (bs : List Byte) : Except Failed State :=
  let x := s.dieAt d
  let secs := sectorsOf l bs.length
  let whole (k : Nat) : Bool := decide (l ≤ k * 32) && decide (k * 32 + 32 ≤ l + bs.length)
  match secs.find? fun k => x.poison.contains k && !whole k with
  | some k => .error (x.poisonFault k)
  | none =>
    (s.roomFor d va l secs).map fun s1 => s1.modDie d fun y =>
      let y := secs.foldl (fun y k => (if whole k then y else y.fill k).hold true k) y
      { y with dram := y.dram.write l bs
               poison := y.poison.filter fun k => !secs.contains k
               flaws := y.flaws.filter fun k => !secs.contains k }

/-! ### Key pages (R288 to R290) -/

/-- Head dimension of a key page. -/
def keyDim (kd : Nat) : Nat := 32 * 2 ^ kd
/-- Bytes of a key element. -/
def keyBytes (kt : Bool) : Nat := if kt then 1 else 2
/-- KPS of R288. -/
def keyPageSize (kd : Nat) (kt : Bool) : Nat := 4 * keyDim kd + 64 * keyDim kd * keyBytes kt

/-- The offset of a place within its leaf's page. -/
def Place.pageOffset (p : Place) : Nat := p.local_ - pteLaddr p.leaf * 2 ^ 16

/-- Whether a place lies in a key page: bytes of a leaf page above its last key page are ordinary memory. -/
def Place.isKey (p : Place) : Bool :=
  let kps := keyPageSize (pteKd p.leaf) (pteKt p.leaf)
  decide (pteKd p.leaf ≠ 0) && inDram p.local_ && decide (p.pageOffset < p.size / kps * kps)

/-- A key element as bf16: every bf16 and e4m3 value is exact in it (R290). -/
def keyValue (kt : Bool) (v : Nat) : Nat :=
  if kt then convert ElemType.bf16.valueType ElemType.e4m3.valueType {} v else v

/-- Whether a bf16 encoding is a NaN. -/
def isNan16 (v : Nat) : Bool := decide (ElemType.bf16.fmt.value v = .nan)

/-- A channel's bounds after an element's value (R290). -/
def widenBounds (mn mx v : Nat) : Nat × Nat :=
  if isNan16 mn || isNan16 mx then (mn, mx)
  else if isNan16 v then (0xFF80, 0x7F80)
  else
    let f := ElemType.bf16.fmt
    (f.select {} false mn v, f.select {} true mx v)

/-- A widening applied at the crust's slice, as accesses to MIN and MAX of the channel; what fails there (R250, R290). -/
def State.applyWidening (s : State) (w : Widening) : Except Failed State :=
  let lo := w.crust + 2 * w.chan
  let hi := lo + 2 * w.dh
  let va (l : Nat) : Word := w.va + BitVec.ofNat 64 (l - w.crust)
  (s.dramRead w.die (va lo) lo 2).bind fun a => (a.1.dramRead w.die (va hi) hi 2).bind fun b =>
    let (mn, mx) := widenBounds (valueOf a.2) (valueOf b.2) w.value.toNat
    if mn = valueOf a.2 ∧ mx = valueOf b.2 then .ok b.1
    else (b.1.dramWrite w.die (va lo) lo (bytesOf 2 mn)).bind fun s1 => s1.dramWrite w.die (va hi) hi (bytesOf 2 mx)

/-- The home of a byte of the page that p lies in: page offset `off`, the virtual address being `va` at p (R260). -/
def State.siblingHome (s : State) (d : DieIx) (asid : BitVec 16) (p : Place) (va : Word) (off : Nat) : BitVec 12 :=
  (s.dieAt d).homeOf asid p.leaf (va - BitVec.ofNat 64 p.pageOffset + BitVec.ofNat 64 off)

/-- The place of that byte. -/
def State.siblingPlace (s : State) (d : DieIx) (asid : BitVec 16) (p : Place) (va : Word) (off : Nat) : Option DieIx × Nat :=
  (s.findDie (s.siblingHome d asid p va off), pteLaddr p.leaf * 2 ^ 16 + off)

/-- The widenings of a write of n bytes to place p of die d, made after it (R290). -/
def State.widenings (s : State) (d : DieIx) (req : Option Nat) (asid : BitVec 16) (p : Place) (va : Word) (n : Nat) :
    List Widening :=
  if pteKd p.leaf = 0 ∨ !inDram p.local_ then []
  else
    let kd := pteKd p.leaf
    let kt := pteKt p.leaf
    let dh := keyDim kd
    let es := keyBytes kt
    let kps := keyPageSize kd kt
    let g := p.size / kps
    let elems := ((List.range n).filterMap fun i =>
      let off := p.pageOffset + i
      let o := off % kps
      if off / kps < g ∧ 4 * dh ≤ o then some (off - (o - 4 * dh) % es) else none).eraseDups
    elems.filterMap fun off =>
      let o := off % kps
      let crustOff := off - o
      match s.siblingPlace d asid p va crustOff with
      | (some cd, l) =>
        let v := (s.dieAt d).dram.value (pteLaddr p.leaf * 2 ^ 16 + off) es
        some { req, home := d, die := cd, crust := l, dh, chan := (o - 4 * dh) / es % dh, value := BitVec.ofNat 16 (keyValue kt v)
               va := va - BitVec.ofNat 64 p.pageOffset + BitVec.ofNat 64 crustOff }
      | _ => none

/-! ### The race-record spill area (R310) -/

/-- The 64-bit record of an open or published form (R309). -/
def RaceRec.word (r : RaceRec) : Nat :=
  match r.published with
  | some (w, bar, ph) => w.toNat * 2 ^ 46 + bar / 16 % 2 ^ 43 * 2 ^ 3 + ph.toNat * 4 + 2
  | none =>
    let wr := match r.writer with
      | some (w, g) => w.toNat * 2 ^ 46 + g.toNat * 2 ^ 35 + 2 ^ 5
      | none => 0
    let rd := match r.readers with
      | (i, g) :: more => i.toNat * 2 ^ 17 + g.toNat * 2 ^ 6 + 2 ^ 4 + (if more = [] then 0 else 2 ^ 3)
      | [] => 0
    wr + rd + r.sync.toNat * 4 + (if wr + rd = 0 then 0 else 1)

/-- The extension entries of a record (R309). -/
def RaceRec.extensionWords (r : RaceRec) : List Nat :=
  match r.published with
  | some (_, bar, _) => [bar / 2 ^ 47 % 2 ^ 5 * 2 ^ 59 + 3]
  | none => (r.readers.drop 1).map fun p => p.1.toNat * 2 ^ 46 + p.2.toNat * 2 ^ 35 + 3

/-- The 128 bytes of a bucket. -/
def Die.bucketBytes (x : Die) (b : Nat) : List Byte :=
  let mine := x.races.filter fun p => decide (bucketOf p.1 = b)
  let entries := mine.flatMap fun p =>
    ((if p.2.spilled then [p.2.word] else []) ++ p.2.extensionWords).map fun w => (p.1 + 2 ^ 35) + w * 2 ^ 64
  let all := entries.flatMap fun v => bytesOf 16 v
  (all ++ List.replicate 128 0).take 128

/-- n bytes of the spill area. -/
def Die.spillBytes (x : Die) (l n : Nat) : List Byte :=
  (List.range n).map fun i =>
    let o := l + i - 0x0BE0000000
    (x.bucketBytes (o / 128)).getD (o % 128) 0

/-! ### Tile windows (R242, R299) -/

/-- Whether a requester may touch a window offset of a tile (R242). -/
def Tile.admits (t : Tile) (w : Who) (a : Nat) : Bool :=
  if w.level = .system then true
  else if a < 0x200000 then decide (t.active.owner = w.ctxid)
  else if a < 0x400000 then decide (t.shadow.owner = w.ctxid)
  else false

/-- Whether a tile is frozen before its next cycle by a result that has not landed or by a start signal (R30, R62); an
`ssync` that has failed ends the freeze (R403). -/
def State.frozen (s : State) (d : DieIx) (t : TileIx) : Bool :=
  let x := s.tileAt d t
  decide (x.phase = .start) &&
    ((s.reqs.any fun r => r.of d t && r.captured.isNone && decide (r.due = x.now) && decide (r.stage ≠ .landed) && decide (r.stage ≠ .retired)) ||
      (!x.cc.trap.halt && (x.super.any fun p => decide (p.s = x.now) && !p.started && !p.inComm)
        && !s.reqs.any fun r => r.of d t && decide (r.kind = .ssync) && r.resp.fault.isSome))

/-- The word at PC is due and its line is not held: the tile is frozen until it lands (R127). -/
def Tile.wantsLine (t : Tile) (line : Word) : Bool :=
  decide (t.mode = .running) && decide (t.cc.mode = .ready) && t.stalled.isNone && (decide (t.phase = .start) || decide (t.phase = .cc))
    && decide (lineOf t.cc.pc = line) && !(t.icache.any fun p => decide (p.1 = line)) && !t.fetchBad.any fun p => decide (p.1 = line)

/-- Whether a window access falls in a cycle of the tile; otherwise it is performed between cycles (R299): before a cycle
that a result, a start signal, a code line or a segment close freezes, and after a cycle whose end was held open (R30). -/
def State.inCycle (s : State) (d : DieIx) (t : TileIx) : Bool :=
  let x := s.tileAt d t
  (decide (x.mode = .running) || decide (x.mode = .ending)) && !s.frozen d t && !x.wantsLine (lineOf x.cc.pc)
    && !(x.closing && x.segmentsFull) && !(x.heldOpen && decide (x.phase = .close))

/-- Whether the end of a tile's cycle is held open: what arrives at its windows comes after the writes of that end (R30). -/
def State.endHeld (s : State) (d : DieIx) (t : TileIx) : Bool :=
  decide ((s.tileAt d t).phase = .finish) && (s.held d t || (s.tileAt d t).heldOpen)

/-- A byte by role as the accesses performed so far have left it: a remote write performed in the present cycle counts
(R300). -/
def Tile.nowByte (t : Tile) (a : Nat) : Byte := ((t.remote.reverse.find? fun c => decide (c.1 = a)).map (·.2)).getD (t.winByte a)

/-- A read through a window. -/
def State.windowRead (s : State) (d : DieIx) (t : TileIx) (w : Who) (role : Bool) (va : Word) (off n : Nat) :
    Except Failed (List Byte) :=
  let x := s.tileAt d t
  let a := x.byRole role off
  if x.admits w a then .ok ((List.range n).map fun i => x.nowByte (a + i)) else .error (0x0021, va)

/-- A write through a window: in a cycle of the tile it ranks fifth among that cycle's writes. -/
def State.windowWrite (s : State) (d : DieIx) (t : TileIx) (w : Who) (role : Bool) (va : Word) (off : Nat) (bs : List Byte) :
    Except Failed State :=
  let x := s.tileAt d t
  let a := x.byRole role off
  if !x.admits w a then .error (0x0021, va)
  else
    let cells := bs.zipIdx.map fun b => (a + b.2, b.1)
    .ok (s.setTile d t (if s.inCycle d t then { x with remote := x.remote ++ cells }
      else cells.foldl (fun y c => y.winWrite c.1 c.2) (x.noteUndo cells)))

/-! ### Any plain place -/

/-- Whether a place lies in the die control registers. -/
def Place.isRegister (x : Place) : Bool :=
  match region x.local_ with
  | .registers _ => true
  | _ => false

/-- The identity and segment under which an access is tracked. -/
structure Tracked where
  who : Who
  seg : BitVec 32
  /-- The request, for the widenings that its acknowledgement waits for. -/
  req : Option Nat := none
  /-- An access of the device or the host, which race records do not track (R308, R432). -/
  untracked : Bool := false

/-- Whether accesses to a place are tracked by race records (R308). -/
def State.tracks (s : State) (d : DieIx) (p : Place) : Bool :=
  decide (region p.local_ = .dram) && pteW p.leaf && !ptePriv p.leaf && !(s.dieAt d).atmode

/-- The race check of an access to DRAM at die d: a refusal names the virtual address of the sector's first byte (R307). -/
def State.track (s : State) (d : DieIx) (k : Tracked) (p : Place) (va : Word) (n : Nat) (op : RaceOp) : Except Failed State :=
  if k.untracked || !s.tracks d p then .ok s
  else
    match s.raceAccess d (tileId k.who.die k.who.tile) (k.seg.setWidth 11) op (sectorsOf p.local_ n) with
    | .ok s1 => .ok s1
    | .error (c, sec) => .error (c, va - BitVec.ofNat 64 p.local_ + BitVec.ofNat 64 (sec * 32))

/-- The request for which an access beyond the package is made; an access of the device has the number of the next. -/
def Tracked.key (k : Tracked) (s : State) : Nat := k.req.getD s.nextReq

/-- A read of n bytes that a die of another package performs or refuses: nothing is known of it (R1). -/
def State.awayRead (s : State) (k : Tracked) (va : Word) (n : Nat) : Except Failed (List Byte) :=
  let c := Config.awayCause (k.key s) va
  if c ≠ 0 then .error (c, va) else .ok ((List.range n).map fun i => Config.awayByte (k.key s) (va + BitVec.ofNat 64 i))

/-- A packet of the I/O die reaches the I/O port of a die (R17, R350). -/
def State.hostPacket (s : State) (d : DieIx) : State :=
  s.modDie d fun x => { x with ports := upd x.ports 7 { nth x.ports 7 with hostIn := (nth x.ports 7).hostIn + 1 } }

/-- A request for host memory and its answer pass the Oshel link and the I/O link of die d, each in one packet (R267, R350,
R432, log 102). -/
def State.overOshel (s : State) (d : DieIx) : State :=
  let s1 := s.hostPacket d
  { s1 with io := { s1.io with oshelOut := s1.io.oshelOut + 1, oshelIn := s1.io.oshelIn + 1 } }

/-- How an access to a place that is no memory fails: no task reaches the registers of a die, and nothing else is there
(R26, R417). -/
def Who.beyond (w : Who) (p : Place) (va : Word) : Failed :=
  if p.isRegister && decide (w.level = .task) then (0x0021, va) else (0x0024, physical p.die p.local_)

/-- A read of n bytes at a place. -/
def State.placeRead (s : State) (k : Tracked) (p : Place) (va : Word) (n : Nat) (op : RaceOp) :
    Except Failed (State × List Byte) :=
  match s.findDie p.die with
  | none => if s.isAway p.die then (s.awayRead k va n).map fun bs => (s, bs) else .error (0x0023, physical p.die p.local_)
  | some d =>
    match region p.local_ with
    | .dram =>
      match s.dramRead d va p.local_ n with
      | .error f => .error f
      | .ok (s1, bs) =>
        match s1.track d k p va n op with
        | .error f => .error f
        | .ok s2 => .ok (s2, bs)
    | .spill =>
      if k.who.level = .task then .error (0x0021, va) else .ok (s, (s.dieAt d).spillBytes p.local_ n)
    | .window t off =>
      match s.windowRead d t k.who (pteRole p.leaf) va off n with
      | .ok bs => .ok (s, bs)
      | .error f => .error f
    | .host a => .ok (s.overOshel d, s.host.bytes a n)
    | _ => .error (k.who.beyond p va)

/-- A write of bytes at a place, with its widenings. -/
def State.placeWrite (s : State) (k : Tracked) (p : Place) (va : Word) (bs : List Byte) (op : RaceOp) : Except Failed State :=
  match s.findDie p.die with
  | none => if s.isAway p.die then (s.awayRead k va 0).map fun _ => s else .error (0x0023, physical p.die p.local_)
  | some d =>
    match region p.local_ with
    | .dram =>
      match s.dramWrite d va p.local_ bs with
      | .error f => .error f
      | .ok s1 =>
        match s1.track d k p va bs.length op with
        | .error f => .error f
        | .ok s2 => .ok { s2 with widen := s2.widen ++ s2.widenings d k.req k.who.asid p va bs.length }
    | .spill => if k.who.level = .task then .error (0x0021, va) else .ok s
    | .window t off => s.windowWrite d t k.who (pteRole p.leaf) va off bs
    | .host a => .ok { s.overOshel d with host := s.host.write a bs }
    | _ => .error (k.who.beyond p va)

end Sys2Proof.Machine
end

