-- ==== Sys2Proof/Machine/Fabric.lean ====
section
/-!
DEFINITION. The fabric (R18 to R20, R370, R371): ports and the links between the package's dies, routes, access tables
(R265, R266), the touched-dies mask (R208), and what happens to a request that fails on its way.
-/
namespace Sys2Proof.Machine

/-! ### Ports and links (R18, R20, R370) -/

/-- The local coordinate of a die in dimension k (0 X, 1 Y, 2 Z). -/
def localCoord (d : DieIx) (k : Nat) : Nat := d.val / 2 ^ k % 2

/-- The dimension of a fabric port: 1 +X, 2 -X, 3 +Y, 4 -Y, 5 +Z, 6 -Z. -/
def portDim (p : Fin 8) : Nat := (p.val - 1) / 2

/-- Whether a fabric port points in the positive direction. -/
def portPlus (p : Fin 8) : Bool := decide (p.val % 2 = 1)

/-- The port of dimension k in a direction. -/
def portOf (k : Nat) (plus : Bool) : Fin 8 := Fin.ofNat 8 (2 * k + (if plus then 1 else 2))

/-- Whether a fabric port of a die is its in-package link. -/
def inPackage (d : DieIx) (p : Fin 8) : Bool := portPlus p == decide (localCoord d (portDim p) = 0)

/-- The other end of a fabric link within the package: in-package links, and edge links that a loopback plug joins (R20). -/
def State.partner (s : State) (d : DieIx) (p : Fin 8) : Option (DieIx × Fin 8) :=
  if p.val = 0 ∨ p.val = 7 then none
  else
    let k := portDim p
    let other : DieIx := Fin.ofNat 8 (if localCoord d k = 0 then d.val + 2 ^ k else d.val - 2 ^ k)
    if inPackage d p || decide ((s.dieAt d).torus k = 2) then some (other, portOf k (!portPlus p)) else none

/-- Whether a port is an edge port whose link leads to another package (R20). -/
def State.leaves (s : State) (d : DieIx) (p : Fin 8) : Bool := decide (p.val ≠ 0) && decide (p.val ≠ 7) && (s.partner d p).isNone

/-- Whether a link carries new flits: neither held down nor paused (R412, R429). -/
def Port.open_ (p : Port) : Bool := !p.down && !p.paused

/-- Whether a port takes one more packet: its link carries new flits, and its egress queue has room (R348). -/
def Port.takes (p : Port) : Bool := p.open_ && decide (p.egress.length < 512)

/-! ### Routes (R371) -/

/-- V of a route entry. -/
def routeValid (e : Word) : Bool := e.getLsbD 29

/-- The output port of a route entry at die d: with ALT the edge link of a dimension of size 2. -/
def State.routePort (s : State) (d : DieIx) (e : Word) : Fin 8 :=
  let p : Fin 8 := Fin.ofNat 8 (e.extractLsb' 25 3).toNat
  let k := portDim p
  if e.getLsbD 28 && decide ((s.dieAt d).torus k = 2) then portOf k (decide (localCoord d k = 1)) else p

/-- The first route entry that matches a packet. -/
def Die.routeFor (x : Die) (src dest : BitVec 12) : Option Word :=
  x.routes.toList.find? fun e =>
    routeValid e && decide (e.extractLsb' 0 12 = dest) && (e.getLsbD 24 || decide (e.extractLsb' 12 12 = src))

/-- The default route: X, Y, Z; the direction with fewer hops, +1 at a tie; in a dimension of size 2 the in-package link. -/
def State.defaultPort (s : State) (d : DieIx) (dest : BitVec 12) : Option (Fin 8) :=
  let x := s.dieAt d
  match [0, 1, 2].find? fun k => decide (idCoord x.id k ≠ idCoord dest k) with
  | none => none
  | some k =>
    let n := x.torus k
    if n = 2 then some (portOf k (decide (localCoord d k = 0)))
    else
      let forward := (idCoord dest k + n - idCoord x.id k) % n
      some (portOf k (decide (2 * forward ≤ n)))

/-- The output port at die d of a packet from die `src` to die `dest`. -/
def State.nextPort (s : State) (d : DieIx) (src dest : BitVec 12) : Option (Fin 8) :=
  match (s.dieAt d).routeFor src dest with
  | some e => some (s.routePort d e)
  | none => s.defaultPort d dest

/-- The router and port that send a packet over its last hop, within a number of hops. -/
def State.lastHop (s : State) (d : DieIx) (src dest : BitVec 12) : Nat → Option (DieIx × Fin 8)
  | 0 => none
  | n + 1 =>
    match s.nextPort d src dest with
    | none => none
    | some p =>
      match s.partner d p with
      | none => none
      | some (e, _) => if (s.dieAt e).id = dest then some (d, p) else s.lastHop e src dest n

/-! ### Flows (R372) -/

/-- The routers and ports that a packet passes from a die on, within a number of hops. -/
def State.pathFrom (s : State) (d : DieIx) (src dest : BitVec 12) : Nat → List (DieIx × Fin 8)
  | 0 => []
  | n + 1 =>
    if (s.dieAt d).id = dest then []
    else
      match s.nextPort d src dest with
      | none => []
      | some p =>
        (d, p) :: (match s.partner d p with
          | none => []
          | some (e, _) => s.pathFrom e src dest n)

/-- Whether every port on the way from a die to a die ID takes a packet (R348, R429). -/
def State.linkedTo (s : State) (d : DieIx) (id : BitVec 12) : Bool :=
  (s.pathFrom d (s.dieAt d).id id 64).all fun x => (nth (s.dieAt x.1).ports x.2).takes

/-- A packet on the fabric: beyond the first router, or in an egress queue of a fabric port. -/
def Req.flying (r : Req) : Bool :=
  match r.stage with
  | .egress _ p _ => decide (p.val ≠ 7)
  | .fabric _ h => decide (h ≠ 0)
  | _ => false

/-- The die that a packet travels to. -/
def Req.destination (r : Req) : DieIx := if r.back then r.die else r.target

/-- The ID of that die, which may be one of another package. -/
def Req.goal (s : State) (r : Req) : BitVec 12 := if r.back then (s.dieAt r.die).id else r.away.getD (s.dieAt r.target).id

/-- The die at which a packet has set out. -/
def Req.start (r : Req) : DieIx := if r.back then r.target else r.via.getD r.die

/-- Whether a request's packet belongs to a flow. -/
def Flow.carries (f : Flow) (s : State) (r : Req) : Bool :=
  decide (f.die = r.die) && decide (f.tile = r.tile) && decide (f.src = (s.dieAt r.start).id) && decide (f.dest = r.goal s)

/-- Whether packets of a flow are in flight. -/
def State.inFlight (s : State) (f : Flow) : Bool := s.reqs.any fun r => f.carries s r && r.flying

/-- The flow of a request's packet as its route stands now. -/
def State.newFlow (s : State) (r : Req) : Flow :=
  let src := (s.dieAt r.start).id
  { die := r.die, tile := r.tile, src, dest := r.goal s, ports := s.pathFrom r.start src (r.goal s) 64 }

/-- The flow that a packet is sent in: while packets of it are in flight it keeps its route. -/
def State.flowOf (s : State) (r : Req) : Flow :=
  match s.flows.find? fun f => f.carries s r && s.inFlight f with
  | some f => f
  | none => s.newFlow r

/-- The output port of a flow at a router. -/
def Flow.portAt (f : Flow) (d : DieIx) : Option (Fin 8) := (f.ports.find? fun p => decide (p.1 = d)).map (·.2)

/-- A flow among those in flight, from its first packet on. -/
def State.keepFlow (s : State) (f : Flow) : State :=
  { s with flows := f :: s.flows.filter fun g =>
      s.inFlight g && !(decide (g.die = f.die) && decide (g.tile = f.tile) && decide (g.src = f.src) && decide (g.dest = f.dest)) }

/-- Flows without packets in flight are forgotten. -/
def State.dropFlows (s : State) : State := { s with flows := s.flows.filter s.inFlight }

/-- Whether a route entry of a die is free: no flow in flight passes the router by it (R372). -/
def State.entryFree (s : State) (d : DieIx) (e : Word) : Bool :=
  !routeValid e || !s.flows.any fun f => s.inFlight f && (f.portAt d).isSome
    && decide (e.extractLsb' 0 12 = f.dest) && (e.getLsbD 24 || decide (e.extractLsb' 12 12 = f.src))

/-! ### Access tables (R266) -/

/-- Whether an entry matches a source die and a local address. -/
def accessMatches (e : BitVec 128) (src : BitVec 12) (l : Nat) : Bool :=
  let mask := e.extractLsb' 108 12
  e.getLsbD 0 && decide (src &&& mask = e.extractLsb' 96 12 &&& mask)
    && decide ((e.extractLsb' 24 24).toNat ≤ l / 2 ^ 16) && decide (l / 2 ^ 16 ≤ (e.extractLsb' 64 24).toNat)

/-- Whether the access table of a port (0 local) allows an access: the matching entries together grant its rights. -/
def Die.accessAllows (x : Die) (port : Fin 7) (src : BitVec 12) (l : Nat) (read write : Bool) : Bool :=
  let es := (nth x.access port).toList.filter fun e => accessMatches e src l
  (!read || es.any fun e => e.getLsbD 1) && (!write || es.any fun e => e.getLsbD 2)

/-! ### Touched dies (R208) -/

/-- The context that runs on a tile sends a request to a die. -/
def State.touch (s : State) (d : DieIx) (ctxid : BitVec 16) (id : BitVec 12) : State :=
  match (s.dieAt d).findCtx ctxid with
  | none => s
  | some q => s.modCtx d q fun c => { c with touched := c.touched ||| (1#4096 <<< id.toNat) }

/-! ### Requests -/

/-- The request with a number. -/
def State.findReq (s : State) (id : Nat) : Option Req := s.reqs.find? fun r => decide (r.id = id)

/-- A request replaced. -/
def State.setReq (s : State) (r : Req) : State := { s with reqs := s.reqs.map fun q => if q.id = r.id then r else q }

/-- Who makes a request's accesses. -/
def Req.who (r : Req) (s : State) : Who :=
  { tile := r.tile, die := (s.dieAt r.die).id, level := r.level, ctxid := r.ctxid, asid := r.asid }

/-- A request's accesses as race records see them. -/
def Req.tracked (r : Req) (s : State) : Tracked := { who := r.who s, seg := r.seg, req := some r.id }

/-- A response begins its way back from a die, or stands at the issuing die. -/
def Req.answered (r : Req) (h : DieIx) (resp : Response) : Req :=
  { r with resp, back := true, stage := if h = r.die then .done else .fabric h 0 }

/-- The rights that an access needs (R257). -/
def Piece.access (p : Piece) : Access := if p.read && p.write then .both else if p.write then .write else .read

/-- The block offset of a copy item, if it names a command block. -/
def CopyItem.blockAt (i : CopyItem) : Option Nat := i.block.map (·.1)

/-- The failure of a request as its response reports it: a copy item with a command block records it there (R338); a
load item of a stream fills its entry (R340); every other request reports a fault, nchase with the virtual address of the
read that failed unless a race record has refused it (R287, R307). -/
def Req.failure (r : Req) (f : Failed) : Response :=
  match r.kind with
  | .copy i =>
    let fill : Byte := if i.op.sub.getLsbD 4 then 0xFF else 0
    let stream := i.stream.map fun x => (x.1, x.2, vecOf (List.replicate 512 fill))
    (match i.blockAt with
      | some b => { status := some (b, some f.1, 0, i.t), stream }
      | none => { fault := some f, stream })
  | .signal _ _ b t _ _ _ => { status := some (b, some f.1, 0, t) }
  | .nchase .. =>
    { fault := some (f.1, if f.1 = 0x0029 ∨ f.1 = 0x002A then f.2 else (r.pieces.head?.map (·.va)).getD f.2) }
  | _ => { fault := some f }

end Sys2Proof.Machine
end

