-- ==== Sys2Proof/Machine/Layout.lean ====
section
/-!
DEFINITION. Tensor layout records (R356 to R363): their fields, validity, stamp, addresses and neighbours, and the plan
of a re-shard (R375).
-/
namespace Sys2Proof.Machine

/-- The value of the n bytes at offset `off` of a 64-byte structure. -/
def field (w : BitVec 512) (off n : Nat) : Nat := w.toNat / 2 ^ (8 * off) % 2 ^ (8 * n)

/-- A signed field. -/
def sfield (w : BitVec 512) (off n : Nat) : Int := readInt true (8 * n) (field w off n)

/-- The fields of a layout record (R357, R358); the stride of dimension 0 is 1. -/
structure Layout where
  base : Nat
  nd   : Nat
  v    : Bool
  shs  : Nat
  et   : Nat
  chk  : Nat
  alen : Nat
  rank : Nat
  per  : List Bool
  gs   : List Nat
  ms   : List Nat
  h    : List Nat
  st   : List Nat
  /-- The reserved bits, all of which have to be 0. -/
  res  : List Nat
  deriving DecidableEq, Repr

/-- The dimensions. -/
def dims : List Nat := [0, 1, 2, 3, 4]

/-- The record in 64 bytes (R357). -/
def layoutOf (w : BitVec 512) : Layout :=
  { base := field w 0 7, nd := field w 7 1 % 8, v := (field w 7 1).testBit 7, shs := field w 8 5, et := field w 13 1 % 16
    chk := field w 14 2, alen := field w 16 5, rank := field w 21 2 % 2 ^ 12
    per := dims.map fun d => (field w 23 1).testBit d
    gs := dims.map fun d => field w (24 + 3 * d) 3
    ms := dims.map fun d => field w (40 + d) 1
    h := dims.map fun d => field w (45 + d) 1
    st := 1 :: [0, 1, 2, 3].map fun d => field w (50 + 3 * d) 3
    res := [field w 7 1 / 8 % 16, field w 13 1 / 16, field w 21 2 / 2 ^ 12, field w 23 1 / 32, field w 39 1, field w 62 2] }

/-- Element d of a list of five. -/
def at5 (xs : List Nat) (d : Nat) : Nat := xs.getD d 0

/-- B_d of R358. -/
def Layout.block (l : Layout) (d : Nat) : Nat := at5 l.gs d / at5 l.ms d
/-- L_d of R358. -/
def Layout.extent (l : Layout) (d : Nat) : Nat := l.block d + 2 * at5 l.h d
/-- The element width in bits. -/
def Layout.width (l : Layout) : Nat := (ElemType.ofCode (BitVec.ofNat 4 l.et)).width
/-- The number of shards. -/
def Layout.shards (l : Layout) : Nat := l.ms.foldl (· * ·) 1
/-- BB of R358: the bytes of a shard's box. -/
def Layout.boxBytes (l : Layout) : Nat := (l.width * at5 l.st (l.nd - 1) * l.extent (l.nd - 1) + 7) / 8

/-- Mesh position of a shard along dimension d (R358). -/
def Layout.pos (l : Layout) (k d : Nat) : Nat := k / (l.ms.take d).foldl (· * ·) 1 % at5 l.ms d

/-- The shard at a mesh position. -/
def Layout.shardAt (l : Layout) (p : List Nat) : Nat :=
  (dims.foldl (fun (acc : Nat × Nat) d => (acc.1 + at5 p d * acc.2, acc.2 * at5 l.ms d)) (0, 1)).1

/-- The bit address of local coordinates c of shard k (R358). -/
def Layout.bitAddr (l : Layout) (k : Nat) (c : List Int) : Int :=
  (8 * (l.base + k * l.shs) : Nat) +
    (dims.map fun d => if d < l.nd then (l.width : Int) * (c.getD d 0 + at5 l.h d) * at5 l.st d else 0).sum

/-- Valid of R359. -/
def Layout.valid (l : Layout) : Bool :=
  let four := decide (l.width = 4)
  (l.res.all fun x => decide (x = 0)) && decide (1 ≤ l.nd) && decide (l.nd ≤ 5) && decide (l.et ≤ 13)
    && (dims.all fun d =>
      if l.nd ≤ d then
        decide (at5 l.gs d = 1) && decide (at5 l.ms d = 1) && decide (at5 l.h d = 0) && !l.per.getD d false
          && decide (at5 l.st d = 0)
      else
        decide (1 ≤ at5 l.gs d) && decide (1 ≤ at5 l.ms d) && decide (at5 l.ms d ≤ 16)
          && decide (at5 l.gs d % at5 l.ms d = 0) && decide (at5 l.h d ≤ l.block d)
          && (decide (d = 0) || decide (at5 l.st (d - 1) * l.extent (d - 1) ≤ at5 l.st d))
          && (!four || decide (d = 0) || decide (at5 l.st d % 2 = 0)))
    && decide (l.shards ≤ 4096) && decide (l.rank < l.shards)
    && (!four || (decide (l.block 0 % 2 = 0) && decide (at5 l.h 0 % 2 = 0)))
    && decide (l.base % 64 = 0) && decide (l.shs % 64 = 0) && decide (l.boxBytes ≤ l.shs)
    && decide ((l.shards - 1) * l.shs + l.boxBytes ≤ l.alen)

/-- CHK of the 64 bytes of a record (R361). -/
def layoutStamp (w : BitVec 512) : Nat :=
  let v := w ||| (1#512 <<< 63)
  ((List.range 32).filter (· ≠ 7)).foldl (fun x i => x ^^^ field v (2 * i) 2) 0xA5C3

/-- A user of a record requires V and a matching CHK (R361). -/
def layoutUsable (w : BitVec 512) : Bool := (layoutOf w).v && decide ((layoutOf w).chk = layoutStamp w)

/-- Whether a local coordinate of shard k has an element, with `free` a dimension whose global range is not checked
(R362). -/
def Layout.inside (l : Layout) (k : Nat) (c : List Int) (free : Option Nat) : Bool :=
  dims.all fun d =>
    let x := c.getD d 0
    let b : Int := if d < l.nd then l.block d else 1
    let h : Int := at5 l.h d
    let g : Int := l.pos k d * b + x
    decide (-h ≤ x) && decide (x < b + h)
      && (l.per.getD d false || decide (free = some d) || (decide (0 ≤ g) && decide (g < at5 l.gs d)))

/-- The rank of the neighbour of shard k along dimension d, if there is one (R362, R363). -/
def Layout.neighbour (l : Layout) (k d : Nat) (up : Bool) : Option Nat :=
  let p := l.pos k d
  let n := at5 l.ms d
  let q := if up then (if p + 1 < n then some (p + 1) else if l.per.getD d false then some 0 else none)
    else (if 0 < p then some (p - 1) else if l.per.getD d false then some (n - 1) else none)
  q.map fun x => l.shardAt (dims.map fun e => if e = d then x else l.pos k e)

/-! ### Re-shard plans (R375) -/

/-- The intersection of the boxes of shard a of one layout and shard b of another. -/
def boxMeet (x y : Layout) (a b : Nat) : Option (List Nat × List Nat) :=
  let lo := dims.map fun d => max (x.pos a d * x.block d) (y.pos b d * y.block d)
  let hi := dims.map fun d => min ((x.pos a d + 1) * x.block d) ((y.pos b d + 1) * y.block d)
  if dims.all fun d => decide (at5 lo d < at5 hi d) then some (lo, dims.map fun d => at5 hi d - at5 lo d) else none

/-- The plan of the die of rank q among n, given the rank of each shard's home die. -/
def planOf (x y : Layout) (homeX homeY : List Nat) (q n : Nat) : List Transfer :=
  (List.range n).flatMap fun s =>
    (List.range y.shards).flatMap fun b =>
      if homeY.getD b n ≠ (q + s) % n then []
      else (List.range x.shards).filterMap fun a =>
        if homeX.getD a n ≠ q then none
        else (boxMeet x y a b).map fun m => { s, b, a, lo := m.1, size := m.2 }

/-- Rows of a transfer. -/
def Transfer.rows (t : Transfer) : Nat := (t.size.drop 1).foldl (· * ·) 1
/-- Bytes of a row. -/
def Transfer.rowBytes (t : Transfer) (l : Layout) : Nat := at5 t.size 0 * l.width / 8

/-- Bit addresses of the first element of row ρ on both sides. -/
def Transfer.rowAddr (t : Transfer) (x y : Layout) (row : Nat) : Int × Int :=
  let g := dims.map fun d =>
    if d = 0 then at5 t.lo 0
    else at5 t.lo d + row / ((t.size.drop 1).take (d - 1)).foldl (· * ·) 1 % at5 t.size d
  let loc (l : Layout) (k : Nat) : List Int := dims.map fun d => (at5 g d : Int) - (l.pos k d * l.block d : Nat)
  (x.bitAddr t.a (loc x t.a), y.bitAddr t.b (loc y t.b))

end Sys2Proof.Machine
end

