-- ==== Sys2Proof/Machine/Copy.lean ====
section
/-!
DEFINITION. The records of the copy engines (R330 to R347): item sizes, command blocks, the moves of an item, the checks
of its issue cycle, and the requests that items make.
-/
namespace Sys2Proof

/-- VSRC of SUB. -/
def Op.vsrc (o : Op) : Bool := o.sub.getLsbD 0

/-- LAND of SUB. -/
def Op.land (o : Op) : Bool := o.sub.getLsbD 1

/-- CLS of SUB. -/
def Op.cls (o : Op) : Nat := (o.sub.extractLsb' 2 2).toNat

/-- The fill byte, by ONES of SUB. -/
def Op.fill (o : Op) : Byte := if o.sub.getLsbD 4 then 0xFF else 0

/-- VIDX of SUB. -/
def Op.vidx (o : Op) : Bool := o.sub.getLsbD 5

/-- The g register that holds the command block's offset. -/
def Op.blockReg (o : Op) : Option (Fin 16) :=
  match o.c with
  | .g i => some i
  | _ => none

namespace Machine

/-! ### What a record's fields say (R333, R334) -/

/-- MAJ and FN of a copy record. -/
structure Cmd where
  maj : Nat
  fn  : Nat
  deriving DecidableEq, Repr

/-- cpyt, cpyw and halo, which address memory through a layout record. -/
def Cmd.isTensor (c : Cmd) : Bool := decide (c = ⟨0xA0, 1⟩) || decide (c = ⟨0xA0, 5⟩) || decide (c.maj = 0xB0 ∧ c.fn = 0)
/-- cpyg, cpys and kgath, which take an index. -/
def Cmd.isIndexed (c : Cmd) : Bool := decide (c = ⟨0xA0, 2⟩) || decide (c = ⟨0xA0, 3⟩) || decide (c = ⟨0xB0, 1⟩)
/-- kgath. -/
def Cmd.isKgath (c : Cmd) : Bool := decide (c = ⟨0xB0, 1⟩)
/-- strm and strmq. -/
def Cmd.isStream (c : Cmd) : Bool := decide (c.maj = 0xAC)
/-- putsig. -/
def Cmd.isPutsig (c : Cmd) : Bool := decide (c = ⟨0xA8, 0⟩)
/-- cred. -/
def Cmd.isCred (c : Cmd) : Bool := decide (c = ⟨0xA8, 1⟩)


/-! ### Command blocks (R336) -/

/-- Whether the block's bytes that a command does not use are zero and its values lie in their ranges. -/
def blockFields (c : Cmd) (et : ElemType) (w : BitVec 512) : Bool :=
  let z (off n : Nat) : Bool := decide (field w off n = 0)
  let bar := decide (field w 16 8 % 16 = 0)
  let wrap := decide (field w 44 4 % 64 = 0)
  let lroff := decide (field w 24 4 % 64 = 0) && decide (field w 24 4 + 64 ≤ 0x200000)
  bar && z 48 16 &&
  match c.maj, c.fn with
  | 0xA0, 0 => z 24 20 && wrap
  | 0xA0, 1 => lroff && z 28 4 && z 42 2 && wrap
  | 0xA0, 2 | 0xA0, 3 => z 32 16
  | 0xA0, 4 => z 24 4 && z 32 16
  | 0xA0, 5 => lroff && z 42 6 && decide (field w 28 2 * et.width % 512 = 0) && decide (field w 28 2 * et.width ≤ 32768)
  | 0xA8, 0 => decide (field w 24 4 ≤ 1) && z 28 4 && decide (field w 32 8 % 8 = 0)
  | 0xA8, 1 => decide (field w 24 4 < 256) && z 32 16
  | 0xAC, 0 => z 24 24
  | 0xAC, 1 => z 24 20 && wrap && !z 44 4
  | 0xB0, 0 => lroff && z 42 6 && decide (field w 28 4 < 16) && decide (field w 28 1 % 8 ≤ 4)
  | _, _ => z 28 20

/-- What a copy record fixes in its first iteration: the block and the layout record it names, sampled now, and whether
they are malformed (R336). -/
def Tile.fixCopy (t : Tile) (c : Cmd) (o : Op) (run : Nat) : CopyFixed :=
  match o.blockReg with
  | none => { run := some run }
  | some g =>
    let off := (nth t.cc.g g).toNat
    if off % 64 ≠ 0 ∨ 0x200000 < off + 64 then { off := off, dead := true, run := some run }
    else
      let w : BitVec 512 := BitVec.ofNat 512 (t.active.bytes.value off 64)
      let rcd : BitVec 512 := BitVec.ofNat 512 (t.active.bytes.value (field w 24 4) 64)
      let ok := blockFields c o.et w && (!c.isTensor || layoutUsable rcd)
      { block := some w, off := off, layout := if c.isTensor && ok then some rcd else none, dead := !ok, run := some run }

/-! ### Moves -/

/-- A run of cells (bytes, or half bytes) from a source address to a destination address; none as the source for fill. -/
structure Move where
  src : Option Nat
  dst : Nat
  n   : Nat
  deriving DecidableEq, Repr

/-- A move with its memory side cut where a 64-byte line ends; `line` is the line's length in cells. -/
def Move.cut (onDst : Bool) (line : Nat) (m : Move) : Nat → List Move
  | 0 => []
  | fuel + 1 =>
    let mem := if onDst then m.dst else m.src.getD m.dst
    let k := min m.n (line - mem % line)
    if m.n ≤ k then (if m.n = 0 then [] else [m])
    else
      { m with n := k } :: Move.cut onDst line { src := m.src.map (· + k), dst := m.dst + k, n := m.n - k } fuel

/-- Adjacent moves that continue each other are one move. -/
def joinMoves : List Move → List Move
  | [] => []
  | m :: ms =>
    match joinMoves ms with
    | k :: rest =>
      let follows : Bool := match m.src, k.src with
        | some a, some b => decide (b = a + m.n)
        | none, none => true
        | _, _ => false
      if k.dst = m.dst + m.n ∧ follows then { m with n := m.n + k.n } :: rest else m :: k :: rest
    | [] => [m]

/-- The ring rule of R340, on unbounded integers (R11): an address below the base counts back from the ring's end. -/
def ring (wrap : Nat) (base : Word) (a : Nat) : Word :=
  if wrap = 0 then BitVec.ofNat 64 a else BitVec.ofInt 64 (base.toNat + ((a : Int) - base.toNat) % wrap)

/-- The item's command. -/
def CopyItem.cmd (i : CopyItem) : Cmd := ⟨i.maj, i.fn⟩

/-- A field of the item's command block; 0 without a block. -/
def CopyItem.blk (i : CopyItem) (off n : Nat) : Nat := (i.block.map fun b => field b.2 off n).getD 0

/-- The row stride RSTR. -/
def CopyItem.rstr (i : CopyItem) : Int := (i.block.map fun b => sfield b.2 28 4).getD 0

/-- Whether the item moves half bytes: a 4-bit type on either side of a tensor command. -/
def CopyItem.half (i : CopyItem) : Bool :=
  i.cmd.isTensor && (decide (i.op.et.width = 4) || (i.layout.map fun w => decide ((layoutOf w).width = 4)).getD false)

/-- Cells of a byte. -/
def CopyItem.cells (i : CopyItem) : Nat := if i.half then 2 else 1

/-- The elements of a tensor item: for each its memory cell, if it is not padding (R341, R362). -/
def CopyItem.tensorCell (i : CopyItem) (l : Layout) (e : Nat) : Option Nat :=
  let org (d : Nat) : Int := (i.block.map fun b => sfield b.2 (32 + 2 * d) 2).getD 0
  let per := i.bytes * 8 / i.op.et.width
  let step : Nat := if i.fn = 5 ∧ i.maj = 0xA0 then i.blk 30 2 else per
  let c : List Int := [org 0 + (step * i.l0 : Nat) + e, org 1 + i.l1, org 2 + i.l2, org 3 + i.l3, org 4]
  let cell (k : Nat) (c : List Int) : Nat :=
    let a := l.bitAddr k c
    (((if i.half then a / 4 else a / 8) % (2 : Int) ^ 65).toNat + i.shift.toNat * i.cells) % (2 ^ 64 * i.cells)
  if i.maj = 0xB0 then
    let fd := i.blk 28 1 % 8
    let low := (i.blk 28 1).testBit 3
    let j := c.getD fd 0
    let b : Int := l.block fd
    let h : Int := at5 l.h fd
    match (if j < 0 ∨ h ≤ j then none else l.neighbour l.rank fd (!low)) with
    | none => none
    | some k =>
      let x : Int := if i.engine = .le then (if low then b - h + j else j) else (if low then b + j else j - h)
      let c' := c.set fd x
      if l.inside k c' (some fd) then some (cell k c') else none
  else if l.inside l.rank c none then some (cell l.rank c) else none

/-- The moves of an item for the value of its index entry (R340 to R342); none for an item that makes no access. -/
def CopyItem.moves (i : CopyItem) (idx : Nat) : List Move :=
  let onDst := decide (i.engine = .se)
  let wrap := if (i.maj = 0xA0 ∧ i.fn ≤ 1) ∨ (i.maj = 0xAC ∧ i.fn = 1) then i.blk 44 4 else 0
  let a := i.src
  let d := i.dst
  let run (a d : Word) (n : Nat) : List Move := ({ src := some a.toNat, dst := d.toNat, n } : Move).cut onDst 64 (n / 64 + 2)
  let row (k : Int) : Word := BitVec.ofInt 64 (idx * k)
  let skip := decide (i.cmd.isIndexed) && (decide (idx = 0xFFFFFFFF) || decide (i.blk 24 4 ≤ idx))
  if i.cmd.isTensor then
    match i.layout with
    | none => []
    | some w =>
      let l := layoutOf w
      let n := i.bytes * 8 / i.op.et.width
      let u := if i.half then i.op.et.width / 4 else i.op.et.width / 8
      let sp (e : Nat) : Nat :=
        let base := if onDst then i.srcBase else i.dstBase
        let adr := (if onDst then a else d).toNat + e * i.op.et.width / 8
        (ring wrap base adr).toNat * i.cells + (if i.half then e * u % 2 else 0)
      let ms := (List.range n).filterMap fun e =>
        match i.tensorCell l e with
        | some m => some (if onDst then { src := some (sp e), dst := m, n := u } else { src := some m, dst := sp e, n := u })
        | none => if onDst then none else some ({ src := none, dst := sp e, n := u } : Move)
      (joinMoves ms).flatMap fun m => m.cut onDst (64 * i.cells) (n + 2)
  else if skip then
    (if i.maj = 0xA0 ∧ i.fn = 3 then []
      else ({ src := none, dst := d.toNat, n := i.bytes } : Move).cut true 64 (i.bytes / 64 + 2))
  else
    match i.maj, i.fn with
    | 0xA0, 0 =>
      (List.range (i.bytes / 64)).flatMap fun u =>
        run (a + BitVec.ofNat 64 (64 * u)) (ring wrap i.dstBase (d.toNat + 64 * u)) 64
    | 0xA0, 2 => run (a + row i.rstr) d i.bytes
    | 0xA0, 3 => run a (d + row i.rstr) i.bytes
    | 0xB0, _ => run (a + row i.bytes) d i.bytes
    | 0xA0, 4 =>
      let b := i.op.et.width / 8
      (List.range (i.bytes / b)).flatMap fun (e : Nat) =>
        run (a + BitVec.ofInt 64 ((e : Int) * i.rstr)) (d + BitVec.ofNat 64 (e * b)) b
    | 0xAC, _ =>
      if onDst then run a (ring wrap i.dstBase d.toNat) i.bytes else run (ring wrap i.srcBase a.toNat) d i.bytes
    | _, _ => run a d i.bytes

/-- The flags that an item's index sets (R337, R342). -/
def CopyItem.flags (i : CopyItem) (idx : Nat) : BitVec 8 :=
  if !i.cmd.isIndexed then 0 else if idx = 0xFFFFFFFF then 2 else if i.blk 24 4 ≤ idx then 1 else 0

/-! ### Cells of memories -/

/-- The half bytes of bytes, low half first. -/
def halves (bs : List Byte) : List Byte := bs.flatMap fun b => [b &&& 0x0F, b >>> 4]

/-- The bytes of half bytes. -/
def unhalves : List Byte → List Byte
  | a :: b :: more => (a ||| (b <<< 4)) :: unhalves more
  | [a] => [a]
  | [] => []

/-- The bytes that n cells from cell a on lie in: first byte and count. -/
def cellBytes (half : Bool) (a n : Nat) : Nat × Nat := if half then (a / 2, (a + n + 1) / 2 - a / 2) else (a, n)

/-- The cells that bytes from byte a / 2 on hold. -/
def cellsOf (half : Bool) (a n : Nat) (bs : List Byte) : List Byte := if half then ((halves bs).drop (a % 2)).take n else bs

/-- Bytes with n cells from cell a on replaced. -/
def cellsInto (half : Bool) (a : Nat) (old cells : List Byte) : List Byte :=
  if half then unhalves ((halves old).take (a % 2) ++ cells ++ (halves old).drop (a % 2 + cells.length)) else cells

/-- The memory accesses of an item's moves: a read for each on the LE with VSRC, a write for each on the SE. -/
def CopyItem.pieces (i : CopyItem) (idx : Nat) : List Piece :=
  let bar := i.blk 16 8
  let b : List Piece := if bar = 0 then [] else [bothPiece (BitVec.ofNat 64 bar) 16]
  b ++ (i.moves idx).filterMap fun m =>
    if i.engine = .se then
      let r := cellBytes i.half m.dst m.n
      some (writePiece (BitVec.ofNat 64 r.1) r.2)
    else if !i.op.vsrc then none
    else m.src.map fun a =>
      let r := cellBytes i.half a m.n
      readPiece (BitVec.ofNat 64 r.1) r.2

/-! ### The checks of the issue cycle (R335) -/

/-- The item bytes of an iteration. -/
def itemBytes (c : Cmd) (o : Op) (f : CopyFixed) : Nat :=
  if c = ⟨0xA0, 5⟩ then (f.block.map fun b => field b 28 2 * o.et.width / 8).getD 0
  else if c.isKgath then (f.kps.map fun k => k.1).getD 0
  else 64 * 2 ^ (o.mod.toNat % 8)

/-- Its occupancy in active cycles. -/
def itemOccupancy (bytes : Nat) : Nat := max 1 ((bytes + 511) / 512)

/-- The item that an iteration issues. `now` is its index entry read from the scratchpad. -/
def State.copyItem (s : State) (c : Cmd) (o : Op) (tl : Tail) (r : Running) (slot : Fin 4) : CopyItem :=
  let t := s.here
  let f := r.copy
  let base (x : Operand) : Word := nth t.cc.g (x.slot tl).bsel
  let at_ (x : Operand) : Word := if x.isAg then (t.agAddr r tl o.et x).2 else 0
  let ix := at_ o.b
  { op := o, tail := tl, maj := c.maj, fn := c.fn, engine := s.agent, record := r.off, run := f.run.getD 0, t := r.linear tl
    l0 := r.l0, l1 := r.l1, l2 := r.l2, l3 := r.l3, stg := (nth t.seqs s.agent.seqIx).stg.toNat
    block := f.block.map fun b => (f.off, b), layout := f.layout, dst := at_ o.d, src := at_ o.a, dstBase := base o.d
    srcBase := base o.a, slot := if o.land then some (t.slotBase tl.ctl.lslot) else none, bytes := itemBytes c o f
    key := (f.kps.map fun k => k.2).getD 0, keyFail := f.kfail
    index := if c.isIndexed && !o.vidx then some (t.active.bytes.value ix.toNat 4) else none
    indexVa := if c.isIndexed && o.vidx then some ix else none
    data := [], stream := match o.d with
      | .s i => if s.agent = .le then some (i, slot) else none
      | _ => none }

/-- Whether an item reads its source bytes from the own scratchpad. -/
def CopyItem.fromSp (i : CopyItem) : Bool := (decide (i.engine = .se) && !i.cmd.isStream) || (decide (i.engine = .le) && !i.op.vsrc)

/-- The scratchpad ranges of an item's moves: on the destination side of an LE item without LAND, on the source side of
an SE item and of an LE item without VSRC. A side whose row an index entry in memory still selects is left out. -/
def CopyItem.spRanges (i : CopyItem) (laterSrc laterDst : Bool) (ms : List Move) : List (Nat × Nat) :=
  let dst := if i.engine = .le ∧ i.slot.isNone ∧ i.stream.isNone ∧ !laterDst then ms.map fun m => cellBytes i.half m.dst m.n else []
  let src := if i.fromSp ∧ !laterSrc then
    ms.filterMap fun m => m.src.map fun a => cellBytes i.half a m.n else []
  dst ++ src

/-- The byte range that a side of a cpyx record spans: the lowest address, and one past the highest (R343). The trip counts
count whole: an idle iteration's elements are part of the range. DESIGN CHOICE (log 88). -/
def spanOf (t : Tile) (tl : Tail) (et : ElemType) (x : Operand) (stride : Int) (n : Nat) : Int × Int :=
  let sl := x.slot tl
  let w : Int := et.width / 8
  let base : Int := ((nth t.cc.g sl.bsel).toNat + sl.off.toNat : Nat)
  let ext (st : BitVec 18) (j : Nat) : Int := st.toInt * (tl.trip j - 1 : Nat) * w
  let all := [ext sl.str0 0, ext sl.str1 1, ext sl.str2 2, ext sl.str3 3, stride * (n - 1 : Nat)]
  (base + (all.map (min 0)).sum, base + (all.map (max 0)).sum + w)

/-- The checks, in the order of R335, then the overlap of R343. -/
def State.copyCheck (s : State) (i : CopyItem) (r : Running) (tl : Tail) : Option Failed :=
  let t := s.here
  let o := i.op
  let c := i.cmd
  let unit := if c.isTensor ∨ c = ⟨0xA0, 4⟩ then max 1 (o.et.width / 8) else 64
  let agBad (x : Operand) (u : Nat) : Option Failed :=
    if !x.isAg then none
    else
      let a := t.agAddr r tl o.et x
      if a.1 ≠ 0 ∨ a.2.toNat % u ≠ 0 then some (0x0004, a.2) else none
  let ixRange : Option Failed :=
    if c.isIndexed && !o.vidx then
      let a := (t.agAddr r tl o.et o.b).2
      if 0x200000 < a.toNat + 4 then some (0x0005, a) else none
    else none
  let ms := i.moves (i.index.getD 0)
  let past (p : Nat × Nat) : Bool := decide (0x200000 < p.1 + p.2)
  let rng : Option Failed := ((i.spRanges (i.indexVa.isSome && decide (i.fn = 2)) (i.indexVa.isSome && decide (i.fn = 3)) ms).find? past).map
    fun p => (0x0005, BitVec.ofNat 64 p.1)
  let land : Option Failed :=
    if o.land ∧ !(i.indexVa.isSome ∧ i.fn = 3) ∧ ms.any fun m => decide (t.slotSize tl.ctl.lslot < (cellBytes i.half m.dst m.n).1 + (cellBytes i.half m.dst m.n).2) then
      some (0x000A, BitVec.ofNat 64 (tl.ctl.lslot.val * 2 ^ 60 + i.dst.toNat % 2 ^ 60))
    else none
  let overlap : Option Failed :=
    if c = ⟨0xA0, 4⟩ ∧ !r.began ∧ s.agent = .le ∧ !o.vsrc ∧ !o.land then
      let n := i.bytes / (o.et.width / 8)
      let a := spanOf t tl o.et o.a i.rstr n
      let d := spanOf t tl o.et o.d (o.et.width / 8) n
      if a.1 < d.2 ∧ d.1 < a.2 then some (0x0012, BitVec.ofInt 64 d.1) else none
    else none
  agBad o.d unit <|> agBad o.a unit <|> agBad o.b 4 <|> ixRange <|> rng <|> land <|> overlap

/-! ### Sub-queues (R330) -/

/-- Items of a copy engine of a tile that hold entries of a class. -/
def State.subQueue (s : State) (d : DieIx) (t : TileIx) (ag : Agent) (cls : Nat) : Nat :=
  (s.reqs.filter fun r => r.of d t && decide (r.ctxid = (s.tileAt d t).cc.ctxid) && (match r.kind with
    | .copy i => decide (i.engine = ag) && decide (i.op.cls = cls)
    | _ => false)).length

/-! ### Issue -/

/-- The cells that an item's moves take from a scratchpad. -/
def CopyItem.sourceCells (i : CopyItem) (sp : Mem) (idx : Nat) : List Byte :=
  (i.moves idx).flatMap fun m =>
    match m.src with
    | some a =>
      let b := cellBytes i.half a m.n
      cellsOf i.half a m.n (sp.bytes b.1 b.2)
    | none => []

/-- What an item reads of its tile in its issue cycle: its bytes from the scratchpad or the popped stream entry, or the
scratchpad where an index entry in memory is to select the row (R315, R335, R342). -/
def CopyItem.sample (i : CopyItem) (t : Tile) : CopyItem :=
  match i.op.a with
  | .s k => { i with data := vecBytes (nth t.streams k).front }
  | _ =>
    if !i.fromSp then i
    else if i.indexVa.isSome then { i with rows := some t.active.bytes }
    else { i with data := i.sourceCells t.active.bytes (i.index.getD 0) }

/-- What the first iteration fixes of kgath: KPS, KD and KT of the leaf that maps addr(A), or the cause that leaves KPS
without a value (R335). -/
def State.fixKgath (s : State) (o : Op) (tl : Tail) (r : Running) (f : CopyFixed) : CopyFixed :=
  let t := s.here
  let va := (t.agAddr r tl o.et o.a).2
  let w : Who := { tile := s.tile, die := s.hereDie.id, level := t.cc.level, ctxid := t.cc.ctxid, asid := t.cc.asid }
  match s.checkWalk s.die w .read va with
  | .fail c _ => { f with kfail := c }
  | .ok p =>
    if p.isKey then
      { f with kps := some (keyPageSize (pteKd p.leaf) (pteKt p.leaf), BitVec.ofNat 3 (pteKd p.leaf * 2 + (pteKt p.leaf).toNat)) }
    else { f with kfail := 0x0021 }

/-- The slots of a tile's engine: phase cycle and entry index, in the order in which they are taken (R366, R369). -/
def TimeSlots.slotsOf (x : TimeSlots) (t : TileIx) (ag : Agent) : List (Nat × Nat) :=
  (x.entries.zipIdx.filter fun e =>
    decide ((e.1.extractLsb' 0 6).toNat = t.val) && (e.1.getLsbD 6 == decide (ag = .se))).flatMap fun e =>
      (List.range (e.1.extractLsb' 24 16).toNat).map fun k =>
        ((e.1.extractLsb' 8 16).toNat + k * (e.1.extractLsb' 40 8).toNat, e.2)

/-- The slots of an engine of the moving tile in its context's active table. -/
def State.engineSlots (s : State) (ag : Agent) : List (Nat × Nat) :=
  ((s.hereCtx.map fun (c : CtxDie) => c.slots).getD {}).slotsOf s.tile ag

/-- The tile cycle of the slot that the next iteration of an engine's scheduled segment takes (R369). -/
def State.slotCycle (s : State) (ag : Agent) : Option Nat :=
  match (nth s.here.seqs ag.seqIx).phase, s.here.super with
  | some (_, n), some p => ((s.engineSlots ag)[n]?).map fun e => p.s + e.1
  | _, _ => none

/-- The due cycle of what an iteration issues now: its slot's cycle, when it has one, and its arrival offset. An iteration
that a stall has made late lands late, which freezes the tile (R346). -/
def State.itemDue (s : State) (ag : Agent) (arrival : Nat) : Nat :=
  max (s.here.now + 1) ((s.slotCycle ag).getD s.here.now + arrival)

/-- A copy record's iteration. -/
def State.copyIterate (s : State) (c : Cmd) (ins : Instr) (o : Op) (tl : Tail) : State :=
  let ag := s.agent
  let t := s.here
  let q := nth t.seqs ag.seqIx
  let r0 := q.running ins
  let due := s.itemDue ag o.arrival
  let fix (r : Running) : Running :=
    let f := t.fixCopy c o s.nextReq
    { r with copy := if c.isKgath then s.fixKgath o tl r f else f }
  let plan (_ : Seq) (r : Running) (idle : Bool) : Plan :=
    let i := s.copyItem c o tl r 0
    { trap := if idle || r.copy.dead then none else s.copyCheck i r tl
      pops := if ag = .se ∧ !r.copy.dead then streamsOf [o.a] else [], push := if ag = .le ∧ !r.copy.dead then o.d.stream else none
      block := if !r.copy.dead && decide (32 ≤ s.subQueue s.die s.tile ag o.cls) then some (.subQueueFull o.cls) else none
      occ := itemOccupancy i.bytes, due := if r.copy.dead then none else some (due - t.now) }
  let frozen := c.isPutsig && r0.last tl && t.segmentsFull
  if frozen then s.awaitSweep
  else
    let s1 := s.iterate ins o tl fix plan fun s' x =>
      if x.r.copy.dead then
        (if x.r.began then s'.addResults x []
          else s'.request ag { kind := .delay (some (0x0013, BitVec.ofNat 64 x.r.copy.off)), arrival := o.arrival, due, post := x.post
                               fpc := BitVec.ofNat 64 x.r.off, fidx := x.r.fidx })
      else
        let i := s.copyItem c o tl x.r x.slot
        s'.request ag { kind := .copy (i.sample s.here), arrival := o.arrival, due, post := x.post, fpc := BitVec.ofNat 64 x.r.off, fidx := x.r.fidx
                        pieces := if i.indexVa.isSome then [] else i.pieces (i.index.getD 0) }
    let q1 := nth s1.here.seqs ag.seqIx
    let issued := q1.stalled.isNone && !q1.held
    if !issued then s1
    else
      let r := if r0.began then r0 else fix (t.fixRecord r0 tl)
      let zero := !r0.began && r.copy.block.isSome
      let s2 := if zero then s1.modHere fun u =>
          u.issue { agent := ag, left := 1, issued := u.now, effects := [.sp r.copy.off (List.replicate 16 0)] }
        else s1
      let s3 := if !r0.began && r.copy.dead && r.idle tl then
          s2.request ag { kind := .delay (some (0x0013, BitVec.ofNat 64 r.copy.off)), arrival := o.arrival, due }
        else s2
      if c.isPutsig && r0.last tl && !r.copy.dead then
        match r.copy.block with
        | none => s3
        | some b =>
          s3.request ag { kind := .signal (r.copy.run.getD 0) r.off r.copy.off (r.linear tl) (BitVec.ofNat 64 (field b 32 8))
                                    (BitVec.ofNat 64 (field b 40 8)) (decide (field b 24 4 = 1))
                          arrival := o.arrival, due, pieces := [writePiece (BitVec.ofNat 64 (field b 32 8)) 8], closes := true
                          release := some 2 }
      else s3

/-- cpy (R340). -/
def execCpy (o : Op) (tl : Tail) (s : State) : Out := .next (s.copyIterate ⟨0xA0, 0⟩ (.cpy o tl) o tl)
/-- cpyt (R341). -/
def execCpyt (o : Op) (tl : Tail) (s : State) : Out := .next (s.copyIterate ⟨0xA0, 1⟩ (.cpyt o tl) o tl)
/-- cpyg (R340, R342). -/
def execCpyg (o : Op) (tl : Tail) (s : State) : Out := .next (s.copyIterate ⟨0xA0, 2⟩ (.cpyg o tl) o tl)
/-- cpys (R340, R342). -/
def execCpys (o : Op) (tl : Tail) (s : State) : Out := .next (s.copyIterate ⟨0xA0, 3⟩ (.cpys o tl) o tl)
/-- cpyx (R340, R343). -/
def execCpyx (o : Op) (tl : Tail) (s : State) : Out := .next (s.copyIterate ⟨0xA0, 4⟩ (.cpyx o tl) o tl)
/-- cpyw (R341). -/
def execCpyw (o : Op) (tl : Tail) (s : State) : Out := .next (s.copyIterate ⟨0xA0, 5⟩ (.cpyw o tl) o tl)
/-- putsig (R344). -/
def execPutsig (o : Op) (tl : Tail) (s : State) : Out := .next (s.copyIterate ⟨0xA8, 0⟩ (.putsig o tl) o tl)
/-- cred (R345). -/
def execCred (o : Op) (tl : Tail) (s : State) : Out := .next (s.copyIterate ⟨0xA8, 1⟩ (.cred o tl) o tl)
/-- strm (R340). -/
def execStrm (o : Op) (tl : Tail) (s : State) : Out := .next (s.copyIterate ⟨0xAC, 0⟩ (.strm o tl) o tl)
/-- strmq (R340). -/
def execStrmq (o : Op) (tl : Tail) (s : State) : Out := .next (s.copyIterate ⟨0xAC, 1⟩ (.strmq o tl) o tl)
/-- halo (R341, R362). -/
def execHalo (o : Op) (tl : Tail) (s : State) : Out := .next (s.copyIterate ⟨0xB0, 0⟩ (.halo o tl) o tl)
/-- kgath (R340, R342). -/
def execKgath (o : Op) (tl : Tail) (s : State) : Out := .next (s.copyIterate ⟨0xB0, 1⟩ (.kgath o tl) o tl)

/-! ### Scheduled segments (R346) -/

/-- Whether a segment may be scheduled: it passes the checks of R133 and R82 and holds copy records and cstep only. -/
def Tile.schedulable (t : Tile) (ag : Agent) (off count : Word) : Bool :=
  (t.segmentCheck ag off count).isNone &&
    (List.range count.toNat).all fun i =>
      let maj := t.recordMajor off.toNat i
      [0xA0, 0xA8, 0xAC, 0xB0].contains maj || (maj == 0xAA && (t.active.bytes.read (off.toNat + 64 * i + 1)).toNat == 1)

/-- csched: the segment is checked and accepted in the issue cycle; the status lands at the due cycle (R346). -/
def execCsched (o : Op) (s : State) : Out :=
  let t := s.here
  let ag := engineOf o
  let off := t.cc.readX o.a.xIx
  let count := t.cc.readX o.b.xIx
  let status : Word :=
    if !(t.task.map (·.ssp)).getD false then 3
    else if !t.schedulable ag off count then 2
    else if (nth t.seqs ag.seqIx).sched.isSome then 1
    else 0
  let s1 := s.ccSend o none { kind := .csched status, arrival := 0, d := [o.d.xIx] }
  .next (
    if status = 0 ∧ s.nextReq < s1.nextReq then
      s1.modHere fun u => u.setSeq ag { nth u.seqs ag.seqIx with sched := some { off := off.toNat, count := count.toNat } }
    else s1)

end Machine

end Sys2Proof
end

