-- ==== Sys2Proof/Machine/Route.lean ====
section
/-!
DEFINITION. A request on its way: what holds it at its tile (R274, R275, R344), translation at the source and at the
target (R258, R264, R265), the order in which a tile's accesses are performed (R270), and refusals (R307).
-/
namespace Sys2Proof.Machine

/-! ### Progress -/

/-- Performed at its home (R270). -/
def Req.performed (r : Req) : Bool :=
  match r.stage with
  | .done | .landed | .retired => true
  | .fabric .. | .egress .. => r.back
  | _ => false

/-- Performed and acknowledged. -/
def Req.acked (r : Req) : Bool := decide (r.stage = .landed) || decide (r.stage = .retired)

/-- An access, as fences and releases count them: not a delay, a fence, or an operation on translations and contexts. -/
def ReqKind.isAccess : ReqKind → Bool
  | .delay _ | .fence _ | .tlbinv .. | .kill _ | .ctxsw .. | .csched _ => false
  | _ => true

/-- An access whose bytes are known only while it is performed. -/
def ReqKind.wide : ReqKind → Bool
  | .nchase .. | .ksel .. | .kcrust .. | .tsld .. | .rtld .. | .ditw .. | .fcolLoad .. | .fcolRun .. | .ftrigArm .. | .rshd ..
  | .rshq .. => true
  | .copy i => i.indexVa.isSome
  | _ => false

/-- Whether a piece lies within a scope of a tile (R274); one that is not placed yet counts as within. -/
def State.pieceInScope (s : State) (r : Req) (scope : Nat) (p : Piece) : Bool :=
  match p.place with
  | none => true
  | some x =>
    let own := decide (x.die = (s.dieAt r.die).id)
    match scope with
    | 0 => own && (match region x.local_ with
      | .window t _ => decide (t = r.tile)
      | _ => false)
    | 1 => own && !(match region x.local_ with
      | .host _ => true
      | _ => false)
    | 2 => (match region x.local_ with
      | .host _ => false
      | _ => true)
    | _ => true

/-- An operation whose later accesses are known only from those before them: they may lie anywhere. -/
def ReqKind.wanders : ReqKind → Bool
  | .nchase .. => true
  | _ => false

/-- Whether a request of the tile is an access within a scope. -/
def State.inScope (s : State) (q : Req) (scope : Nat) : Bool :=
  q.kind.isAccess &&
    (if q.kind.wanders then true
      else if q.pieces.isEmpty then decide (1 ≤ scope) && (decide (q.target = q.die) || decide (2 ≤ scope))
      else q.pieces.any fun p => s.pieceInScope q scope p)

/-- The same of bytes that an off-tile request lands there (R30). -/
def State.landingWrites (s : State) (d : DieIx) (t : TileIx) (c : Nat) : Bool :=
  let x := s.tileAt d t
  s.reqs.any fun q => q.of d t && q.captured.isNone && q.kind.lands && decide (q.issued < c) && decide (x.now < q.due)
    && !(decide (x.phase = .close) && decide (q.due = x.now + 1)) && decide (q.stage ≠ .retired)

/-- The scope of a request's release; a flag in host memory is released at scope sys (R314). -/
def Req.releaseScope (r : Req) : Option Nat :=
  r.release.map fun c =>
    match r.kind with
    | .signal .. =>
      if r.pieces.any fun p => p.place.any fun x => decide (0xC000000000 ≤ x.local_) then 3 else c.toNat
    | _ => c.toNat

/-- The requests of the same tile that were issued before this one. -/
def State.earlier (s : State) (r : Req) : List Req :=
  s.reqs.filter fun q => decide (q.die = r.die) && decide (q.tile = r.tile) && decide (q.id < r.id)

/-! ### The order of a tile's accesses (R270) -/

/-- The byte that a place names, in a space of its own: bytes of a window by the set that its leaf reaches (R242), host
memory once for all the dies whose windows show it (R267). -/
def State.spot (s : State) (p : Place) : Nat × Nat :=
  match region p.local_, s.findDie p.die with
  | .host a, _ => (2 ^ 12, a)
  | .window t off, some d => (p.die.toNat, 0x8000000000 + t.val * 0x1000000 + (s.tileAt d t).byRole (pteRole p.leaf) off)
  | _, _ => (p.die.toNat, p.local_)

/-- Whether two placed pieces share a byte, or both name registers of one die (R417). -/
def State.meets (s : State) (p q : Piece) : Bool :=
  match p.place, q.place with
  | some a, some b =>
    let x := s.spot a
    let y := s.spot b
    (a.isRegister && b.isRegister && decide (a.die = b.die)) || decide (x.1 = y.1) && decide (x.2 < y.2 + q.n) && decide (y.2 < x.2 + p.n)
  | _, _ => true

/-- A contribution that its home slice has accepted and holds for its turn (R317): no later one waits for it. -/
def Req.accepted (r : Req) : Bool :=
  decide (r.stage = .waiting) && (match r.kind with
    | .copy i => i.cmd.isCred
    | _ => false)

/-- Whether an earlier request of the tile has to be performed first. -/
def State.mustFollow (s : State) (r q : Req) : Bool :=
  q.kind.isAccess && !q.performed && !q.accepted
    && (r.kind.wide || q.kind.wide || q.pieces.any fun p => p.place.isNone || r.pieces.any fun x => s.meets x p)

/-! ### What holds a request at its tile (R274, R275, R344) -/

/-- Whether an earlier request of the tile holds a later one back. -/
def State.blocks (s : State) (q r : Req) : Bool :=
  (decide (q.issued < r.issued) &&
    ((r.releaseScope.any fun c => s.inScope q c && !q.acked) || (q.acquire && !q.performed) ||
      (match q.kind with
        | .fence _ => !q.acked
        | _ => false))) ||
  (match r.kind, q.kind with
    | .signal run .., .copy i => decide (i.run = run) && decide (i.engine = r.agent) && !q.acked
    | _, _ => false)

/-- Whether a request is one whose landing the tile awaits in a freeze or in a held end of its cycle (R30). -/
def State.isAwaited (s : State) (r : Req) : Bool :=
  let x := s.tileAt r.die r.tile
  r.captured.isNone && !r.acked &&
    ((decide (x.phase = .start) && decide (r.due = x.now)) ||
      (decide (x.phase = .finish) && r.kind.lands && r.landsNow r.die r.tile x.now))

/-- Whether a tile that makes no write until a request has landed awaits this one, or one that waits behind it. Such a
request does not wait for a write of the tile itself: R30 lets a freeze await only what lands without the tile. -/
def State.excused (s : State) (x : Req) : Bool :=
  let later := s.reqs.filter fun q => decide (q.die = x.die) && decide (q.tile = x.tile) && decide (x.id < q.id)
  let behind := later.foldl (fun out q =>
    if out.any fun y => (decide (q.stage = .issued) && s.blocks y q) || s.mustFollow q y then q :: out else out) [x]
  behind.any s.isAwaited

/-- Whether a request waits for accesses to the tile's own memory issued before cycle c: all of them, with the bytes that
requests land there, or only the writes of its pipelines. -/
def State.ownAccesses (s : State) (x : Req) (c : Nat) (all : Bool) : Bool :=
  let t := s.tileAt x.die x.tile
  (if all then t.pipeAccesses c || s.landingWrites x.die x.tile c else t.pipeWrites c) && !s.excused x

/-- The condition of a fence: every access in scope issued up to its cycle is performed and acknowledged (R275). -/
def State.fenceDone (s : State) (f : Req) (scope : Nat) : Bool :=
  (s.reqs.all fun q => !(decide (q.die = f.die) && decide (q.tile = f.tile) && decide (q.issued ≤ f.issued) && s.inScope q scope)
    || q.acked) && !s.ownAccesses f (f.issued + 1) true

/-- Whether a request is held at its tile: by an earlier one, or by writes to the tile's own memory that a release or a
fence at scope tile waits for. -/
def State.heldBack (s : State) (r : Req) : Bool :=
  (s.earlier r).any (s.blocks · r) || (r.release.isSome && s.ownAccesses r r.issued true) ||
    (s.tileAt r.die r.tile).tileFence.any fun c => decide (c < r.issued) && s.ownAccesses r (c + 1) false

/-- A request that is still to sample its operand in a cycle before which its tile is frozen: what the freeze awaits cannot
wait for it. -/
def State.sampleFrozen (s : State) (q : Req) : Bool := !q.sampling.isEmpty && s.frozen q.die q.tile

/-- Whether a request may be performed now as far as its tile's other accesses go. -/
def State.inTurn (s : State) (r : Req) : Bool := !(s.earlier r).any fun q => s.mustFollow r q && !s.sampleFrozen q

/-! ### Translation at the source (R258, R262) -/

/-- Whether some piece needs a walk: it is not placed, and no TLB holds its leaf. -/
def State.needsWalk (s : State) (r : Req) : Bool :=
  r.pieces.any fun p => p.place.isNone && (s.tlbHit r.die r.tile r.asid p.va).isNone

/-- One piece translated at the source: through the TLBs, or by a walk that fills them. -/
def State.translatePiece (s : State) (r : Req) (p : Piece) : State × Checked :=
  match p.place with
  | some x => (s, .ok x)
  | none =>
    match s.tlbHit r.die r.tile r.asid p.va with
    | some e => (s, s.checkLeaf r.die (r.who s) p.access p.va e.leaf e.size)
    | none =>
      match (s.dieAt r.die).walkAsid r.asid p.va with
      | .fault c v => (s, .fail c v)
      | .leaf e size =>
        ((s.walked r.die r.asid p.va).tlbLearn r.die r.tile (tlbEntry r.asid (s.dieAt r.die).gen p.va e size),
          s.checkLeaf r.die (r.who s) p.access p.va e size)

/-- What kinds of memory a request's accesses may not touch (R267, R281, R398, R465). `first` marks the BAR of a copy item. -/
def Req.badTarget (r : Req) (first : Bool) (p : Piece) (x : Place) : Bool :=
  let dram := decide (region x.local_ = .dram) || decide (region x.local_ = .spill)
  match r.kind with
  | .atom .. | .nchase .. | .signal .. =>
    (match r.kind with
      | .signal .. => false
      | _ => !((dram && !x.isKey) || (match region x.local_ with
        | .window _ off => decide (off < 0x400000)
        | _ => false))) ||
    (match r.kind with
      | .signal .. => x.isKey
      | _ => false)
  | .lenq .. | .ldeq _ | .barinit .. | .barexp .. | .barwait .. => !(dram && !x.isKey)
  | .copy i =>
    (first && decide (i.blk 16 8 ≠ 0) && decide (p.n = 16) && !(dram && !x.isKey))
      || (i.cmd.isKgath && !(first && decide (i.blk 16 8 ≠ 0)) && !dram)
  | _ => false

/-- Whether the first access of a request is that to a copy item's barrier object. -/
def Req.barFirst (r : Req) : Bool :=
  match r.kind with
  | .copy i => decide (i.blk 16 8 ≠ 0)
  | _ => false

/-- Every piece translated in order; the first failure ends it. The flag tells whether it was the BAR that failed. -/
def State.translateAll (s : State) (r : Req) : List Piece → Bool → State × Except (Failed × Bool) (List Piece)
  | [], _ => (s, .ok [])
  | p :: ps, first =>
    let isBar := first && r.barFirst
    let (s1, c) := s.translatePiece r p
    match c with
    | .fail a v => (s1, .error ((a, v), isBar))
    | .ok x =>
      if r.badTarget first p x then (s1, .error ((0x0021, p.va), isBar))
      else
        match s1.translateAll r ps false with
        | (s2, .ok more) => (s2, .ok ({ p with place := some x } :: more))
        | (s2, .error e) => (s2, .error e)

/-! ### The target's part of the checks (R264, R265) -/

/-- The access-table check of a request of die `id` to a die in ATMODE 1, by the router that sends it over the last hop
of its way from die `src`; the die's own local table for requests that start there. -/
def State.lastHopAllows (s : State) (src : DieIx) (dst : DieIx) (id : BitVec 12) (l : Nat) (read write : Bool) : Bool :=
  if src = dst then (s.dieAt dst).accessAllows 0 id l read write
  else
    match s.lastHop src id (s.dieAt dst).id 64 with
    | some (h, p) => (s.dieAt h).accessAllows (Fin.ofNat 7 p.val) id l read write
    | none => false

/-- Whether a packet from one die of the package to another finds its way within 64 hops (R371). -/
def State.routed (s : State) (src dst : DieIx) : Bool :=
  decide (src = dst) ||
    match (s.pathFrom src (s.dieAt src).id (s.dieAt dst).id 64).getLast? with
    | some (e, p) => decide ((s.partner e p).map (·.1) = some dst)
    | none => false

/-- The checks of an access placed at the source, at its target die: an access table in ATMODE 1, else the target's own
translation, through its ingress TLB or a walk. -/
def State.targetCheck (s : State) (src : DieIx) (w : Who) (a : Access) (va : Word) (x : Place) (phys : Bool) : State × Checked :=
  match s.findDie x.die with
  | none => (s, if s.isAway x.die then .ok x else .fail 0x0023 (physical x.die x.local_))
  | some d =>
    if !s.routed src d then (s, .fail 0x0023 (physical x.die x.local_))
    else if (s.dieAt d).atmode then
      let rd := decide (a ≠ .write)
      let wr := decide (a = .write) || decide (a = .both)
      if phys && s.lastHopAllows src d w.die x.local_ rd wr then (s, .ok x) else (s, .fail 0x0026 (physical x.die x.local_))
    else if d = src then (s, .ok x)
    else
      match tlbFind (s.dieAt d).itlb w.asid va with
      | some e =>
        if ((s.dieAt d).findAsid w.asid).isNone then (s, .fail 0x0020 va)
        else (s, s.checkTarget d w a va e.leaf e.size)
      | none =>
        match (s.dieAt d).walkAsid w.asid va with
        | .fault c v => (s, .fail c v)
        | .leaf e size =>
          let t := tlbEntry w.asid (s.dieAt d).gen va e size
          let s1 := (s.walked d w.asid va).modDie d fun y => { y with itlb := tlbFill 1024 y.itlb t }
          (s1, s.checkTarget d w a va e size)

/-- Whether the way of an access from die d to a place is open: its links (R21, R348), the I/O port before host memory
(R17), and no tile cycle whose end is held open (R30). -/
def State.wayOpen (s : State) (d : DieIx) (x : Place) : Bool :=
  s.linkedTo d x.die &&
    match s.findDie x.die, region x.local_ with
    | some h, .host _ => (nth (s.dieAt h).ports 7).takes
    | some h, .window t _ => !s.endHeld h t
    | _, _ => true

/-- Whether an access made at once goes on. -/
def State.passes (s : State) (d : DieIx) (x : Place) : Bool := decide (s.ways = .passed) || s.wayOpen d x

/-- Both translations of one access made at an instant, by an operation whose addresses are known only now. Where its way is
not open it waits, and so does all that it belongs to: what follows in the row is not looked at. -/
def State.fullCheck (s : State) (d : DieIx) (w : Who) (a : Access) (va : Word) : State × Checked :=
  let s1 := s.walked d w.asid va
  match s1.checkWalk d w a va with
  | .fail c v => (s1, if s.awaits then .ok { die := w.die, local_ := 0, leaf := 0, size := 1 } else .fail c v)
  | .ok x =>
    if s1.passes d x then s1.targetCheck d w a va x (((s1.findDie x.die).map fun h => (s1.dieAt h).atmode).getD false)
    else (s1.await, .ok x)

/-- Every placed piece checked at its target, in order. The flag tells whether it was the BAR that failed. -/
def State.targetAll (s : State) (r : Req) : List Piece → Bool → State × Except (Failed × Bool) (List Piece)
  | [], _ => (s, .ok [])
  | p :: ps, first =>
    let isBar := first && r.barFirst
    match p.place with
    | none => (s, .error ((0x0020, p.va), isBar))
    | some x =>
      let src := r.via.getD r.die
      match s.targetCheck src (r.who s) p.access p.va x (r.phys.contains x.die || decide (x.die = (s.dieAt src).id)) with
      | (s1, .fail c v) => (s1, .error ((c, v), isBar))
      | (s1, .ok y) =>
        if r.badTarget first p y then (s1, .error ((0x0021, p.va), isBar))
        else
          match s1.targetAll r ps false with
          | (s2, .ok more) => (s2, .ok ({ p with place := some y } :: more))
          | (s2, .error e) => (s2, .error e)

/-! ### Failures and refusals (R307, R338) -/

/-- Whether a release or a fence of the tile was holding q behind the access r. -/
def State.heldBehind (s : State) (r q : Req) : Bool :=
  decide (q.stage = .issued) && decide (q.die = r.die) && decide (q.tile = r.tile) && decide (r.id < q.id) &&
    ((q.releaseScope.any fun c => decide (r.issued < q.issued) && s.inScope r c) ||
      s.reqs.any fun f => decide (f.die = r.die) && decide (f.tile = r.tile) && decide (r.issued ≤ f.issued)
        && decide (f.issued < q.issued) && !f.acked &&
        (match f.kind with
          | .fence c => s.inScope r c.toNat
          | _ => false))

/-- A payload item of a putsig that has failed marks its run (R344). -/
def State.markRun (s : State) (r : Req) : State :=
  match r.kind with
  | .copy i =>
    if i.cmd.isPutsig then s.modTile r.die r.tile fun t => { t with failedRuns := t.failedRuns ++ [i.run] } else s
  | _ => s

/-- Whether the response still waits for the addition to the item's barrier object (R338, R465). -/
def Req.addsLater (r : Req) : Bool :=
  match r.kind with
  | .copy i => decide (i.blk 16 8 ≠ 0)
  | _ => false

/-- A request has failed at die h. An item with a barrier object whose BAR has not failed still makes its addition. -/
def State.failAlone (s : State) (r : Req) (h : DieIx) (f : Failed) (bar : Bool := false) : State :=
  (s.markRun r).setReq (if r.addsLater && !bar then { r with resp := r.failure f, stage := .adding } else r.answered h (r.failure f))

/-- A piece checked at its source and its target at once. -/
def State.placePiece (s : State) (r : Req) (first : Bool) (p : Piece) : State × Except Failed Piece :=
  match s.fullCheck r.die (r.who s) p.access p.va with
  | (s1, .fail c v) => (s1, .error (c, v))
  | (s1, .ok x) => (s1, if !s1.awaits && r.badTarget first p x then .error (0x0021, p.va) else .ok { p with place := some x })

/-- Every piece checked; the first failure ends it. -/
def State.placePieces (s : State) (r : Req) : List Piece → State × Except Failed (List Piece)
  | [] => (s, .ok [])
  | p :: ps =>
    match s.placePiece r false p with
    | (s1, .error f) => (s1, .error f)
    | (s1, .ok x) =>
      let (s2, more) := s1.placePieces r ps
      (s2, more.map fun more => x :: more)

/-- The barrier object's piece of an item, checked (R465). -/
def State.placeBar (s : State) (r : Req) (i : CopyItem) : State × Except Failed (List Piece) :=
  if i.blk 16 8 = 0 then (s, .ok [])
  else
    let (s1, p) := s.placePiece r true (bothPiece (BitVec.ofNat 64 (i.blk 16 8)) 16)
    (s1, p.map fun p => [p])

/-- A request fails at its tile: what that leaves to do, and the request as it then stands. An item with a barrier object
whose own checks pass still makes its addition (R338, R465), which waits for its way when it is made. -/
def State.sourceFailure (s : State) (r : Req) (f : Failed) (bar : Bool) : State × Req × Failed × Bool :=
  match r.kind with
  | .copy i =>
    if bar || decide (i.blk 16 8 = 0) then (s, r, f, true)
    else
      match s.atOnce.placeBar r i with
      | (s1, .ok ps) => (s1.rejoin s, { r with pieces := ps }, f, false)
      | (s1, .error g) => (s1.rejoin s, r, g, true)
  | _ => (s, r, f, bar)

/-- Whether a failure is a refusal of a race record or of its bucket (R307, R311). -/
def refusal (f : Failed) : Bool := decide (f.1 = 0x0029) || decide (f.1 = 0x002A)

/-- Every request that was held behind a refused access is discarded and reported failed with its cause (R307). -/
def State.discardBehind (s : State) (r : Req) (f : Failed) : State :=
  (s.reqs.filter fun q => s.heldBehind r q).foldl (fun s q =>
    let (s1, q1, g, bar) := s.sourceFailure q f false
    s1.failAlone q1 q.die g bar) s

/-- The same, with what a refusal takes along. -/
def State.failReq (s : State) (r : Req) (h : DieIx) (f : Failed) (bar : Bool := false) : State :=
  (if refusal f then s.discardBehind r f else s).failAlone r h f bar

/-- A request that its own translation fails. -/
def State.failSource (s : State) (r : Req) (f : Failed) (bar : Bool) : State :=
  let (s1, r1, g, b) := s.sourceFailure r f bar
  s1.failReq r1 r.die g b

/-- A contribution that a reduction slot refuses always traps, beside what its status records (R317, R338). -/
def State.scheduleFault (s : State) (r : Req) (h : DieIx) (slot : Nat) : State :=
  let f : Failed := (0x0014, BitVec.ofNat 64 slot)
  let resp := { r.failure f with fault := some f }
  s.setReq (if r.addsLater then { r with resp, stage := .adding } else r.answered h resp)

/-- A request has been performed at die h, with this response. -/
def State.finishReq (s : State) (r : Req) (h : DieIx) (resp : Response) : State :=
  s.setReq (if r.addsLater then { r with resp, stage := .adding } else r.answered h resp)

end Sys2Proof.Machine
end

