-- ==== Sys2Proof/Machine/Near.lean ====
section
/-!
DEFINITION. What a request does at its home: loads and stores (R273), atomics at a near-memory unit or at a bank (R281 to
R284), list queues (R285, R286), pointer chasing (R287), barrier objects (R398 to R401, R465), and keys (R288 to R295).
Each answers the state and the response, or a failure.
-/
namespace Sys2Proof.Machine

/-- What performing a request yields. -/
abbrev Performed := Except Failed (State × Response)

/-- The first access of a request with its place. -/
def Req.place1 (r : Req) : Option (Piece × Place) :=
  match r.pieces with
  | p :: _ => p.place.map fun x => (p, x)
  | [] => none

/-- The failure of a request whose access has no place. -/
def Req.noPlace (r : Req) : Failed := (0x0020, (r.pieces.head?.map (·.va)).getD 0)

/-- What n bytes, read as an integer, are. -/
abbrev wordOf (v : Nat) : Word := BitVec.ofNat 64 v

/-- A near-memory unit reads n bytes: in the spill area of race records what that area shows, at system level (R26). -/
def State.nearRead (s : State) (d : DieIx) (r : Req) (va : Word) (l n : Nat) : Except Failed (State × List Byte) :=
  if region l = .spill then (if r.level = .task then .error (0x0021, va) else .ok (s, (s.dieAt d).spillBytes l n))
  else s.dramRead d va l n

/-- A near-memory unit writes bytes; the spill area follows the records alone. -/
def State.nearWrite (s : State) (d : DieIx) (va : Word) (l : Nat) (bs : List Byte) : Except Failed State :=
  if region l = .spill then .ok s else s.dramWrite d va l bs

/-! ### Loads and stores (R273, R301) -/

/-- A load. -/
def State.performLoad (s : State) (r : Req) (et : ElemType) : Performed :=
  match r.place1 with
  | none => .error r.noPlace
  | some (p, x) =>
    (s.placeRead (r.tracked s) x p.va p.n (if r.acquire then .syncRead else .read)).map fun a =>
      (a.1, { x := r.d.map fun i => (i, et.extend a.2) })

/-- A store. -/
def State.performStore (s : State) (r : Req) (bs : List Byte) : Performed :=
  match r.place1 with
  | none => .error r.noPlace
  | some (p, x) =>
    (s.placeWrite (r.tracked s) x p.va bs (if r.release.isSome then .syncWrite else .write)).map fun s1 => (s1, {})

/-! ### Atomics (R281 to R284) -/

/-- An atomic in DRAM: a comparison that fails counts as a read (R306). -/
def State.performAtom (s : State) (r : Req) (k : AtomKind) : Performed :=
  match r.place1 with
  | none => .error r.noPlace
  | some (p, x) =>
    match s.findDie x.die with
    | none => .error (0x0023, physical x.die x.local_)
    | some d =>
      match s.nearRead d r p.va x.local_ p.n with
      | .error f => .error f
      | .ok (s1, old) =>
        let a := k.perform old
        let resp : Response := { x := r.d.zip a.1 }
        match s1.track d (r.tracked s) x p.va p.n (if a.2.isSome then .syncWrite else .syncRead) with
        | .error f => .error f
        | .ok s2 =>
          match a.2 with
          | none => .ok (s2, resp)
          | some bs => (s2.nearWrite d p.va x.local_ bs).map fun s3 => (s3, resp)

/-- An atomic at the bank of a tile (R282, R299): it reads what writes of earlier cycles have left, and its bytes rank as
those of a remote write of the cycle. -/
def State.performBankAtom (s : State) (r : Req) (k : AtomKind) : Performed :=
  match r.place1 with
  | none => .error r.noPlace
  | some (p, x) =>
    match s.findDie x.die, region x.local_ with
    | some d, .window t off =>
      match s.windowRead d t (r.who s) (pteRole x.leaf) p.va off p.n with
      | .error f => .error f
      | .ok old =>
        let a := k.perform old
        let resp : Response := { x := r.d.zip a.1 }
        match a.2 with
        | none => .ok (s, resp)
        | some bs => (s.windowWrite d t (r.who s) (pteRole x.leaf) p.va off bs).map fun s1 => (s1, resp)
    | _, _ => .error (0x0021, p.va)

/-! ### List queues (R285, R286) -/

/-- Whether a list header is malformed. -/
def listMalformed (l : Nat) (head tail cap : Nat) (reserved : Nat) : Bool :=
  decide (cap = 0) || decide (65536 < l % 65536 + 32 + 8 * cap) || decide (cap < (tail + 2 ^ 64 - head) % 2 ^ 64)
    || decide (reserved ≠ 0)

/-- The local address of entry i. -/
def listEntry (l cap i : Nat) : Nat := l + 32 + 8 * (i % cap)

/-- A list operation: `value` is what lenq enters, none for ldeq. Only the bytes it touches are checked and tracked: the
header, and the entry when it is read or written. -/
def State.performList (s : State) (r : Req) (value : Option Word) : Performed :=
  match r.place1 with
  | none => .error r.noPlace
  | some (p, x) =>
    match s.findDie x.die with
    | none => .error (0x0023, physical x.die x.local_)
    | some d =>
      let l := x.local_
      match s.nearRead d r p.va l 32 with
      | .error f => .error f
      | .ok (s1, h) =>
        let head := valueOf (h.take 8)
        let tail := valueOf ((h.drop 8).take 8)
        let cap := valueOf ((h.drop 16).take 2)
        let answer (a b : Word) : Response :=
          { x := r.d.zip (if value.isSome then [b] else [a, b]) }
        let idle (b : Word) : Performed :=
          (s1.track d (r.tracked s) x p.va 32 .syncRead).map fun s2 => (s2, answer 0 b)
        if listMalformed l head tail cap (valueOf (h.drop 18)) then idle 0xFFFFFFFFFFFFFFFE
        else if (if value.isSome then decide ((tail + 2 ^ 64 - head) % 2 ^ 64 = cap) else decide (head = tail)) then
          idle 0xFFFFFFFFFFFFFFFF
        else
          let i := if value.isSome then tail else head
          let e := listEntry l cap i
          let eva := p.va + wordOf (e - l)
          let secs := (sectorsOf l 32 ++ sectorsOf e 8).eraseDups
          match s1.nearRead d r eva e 8 with
          | .error f => .error f
          | .ok (s2, old) =>
            match (if s2.tracks d x then s2.raceAccess d (tileId (r.who s).die r.tile) (r.seg.setWidth 11) .syncWrite secs
                else .ok s2) with
            | .error (c, sec) => .error (c, p.va - wordOf l + wordOf (sec * 32))
            | .ok s3 =>
              let count := bytesOf 8 ((i + 1) % 2 ^ 64)
              match value with
              | some v =>
                match s3.nearWrite d eva e (bytesOf 8 v.toNat) with
                | .error f => .error f
                | .ok s4 => (s4.nearWrite d (p.va + 8) (l + 8) count).map fun s5 => (s5, answer 0 (wordOf i))
              | none =>
                (s3.nearWrite d p.va l count).map fun s4 => (s4, answer (wordOf (valueOf old)) (wordOf i))

/-! ### Pointer chasing (R287) -/

/-- A read of bytes made at an instant by an operation that translates on its way; zeros while it waits, which nothing
sees. -/
def State.freeRead (s : State) (r : Req) (va : Word) (op : RaceOp) (n : Nat := 8) : Except Failed (State × List Byte) :=
  match s.fullCheck r.die (r.who s) .read va with
  | (_, .fail c v) => .error (c, v)
  | (s1, .ok x) =>
    if s1.awaits then .ok (s1, List.replicate n 0) else (s1.touch r.die r.ctxid x.die).placeRead (r.tracked s1) x va n op

/-- What a read of nchase leaves: the end of the chase with the values of its two registers, or the next read at a node,
with the hops made. -/
inductive Chased where
  | done (p why : Word)
  | read (node : Word) (hops : Nat) (link : Bool)
  deriving DecidableEq, Repr

/-- At a node whose key is not the one sought. -/
def chaseOn (control p : Word) (h : Nat) : Chased :=
  if h = control.toNat % 256 then .done p (wordOf (2 * 256 + h)) else .read p h true

/-- At a node that has been reached. -/
def chaseAt (control p : Word) (h : Nat) : Chased := if control.getLsbD 40 then .read p h false else chaseOn control p h

/-- After the read of a node's next pointer, or of its key, has yielded v. -/
def chaseStep (control key p : Word) (h : Nat) (link : Bool) (v : Word) : Chased :=
  if link then
    if v = 0 then .done p (wordOf (1 * 256 + h))
    else if v.toNat % 8 ≠ 0 then .done v (wordOf (3 * 256 + h))
    else chaseAt control v (h + 1)
  else if v = key then .done p (wordOf h)
  else chaseOn control p h

/-- An nchase packet goes from the home of one read to that of the next, whose address is translated where the packet is
(R264, R287). -/
def State.chaseForward (s : State) (r : Req) (node : Word) (h : Nat) (link : Bool) (control key : Word) : State :=
  let p := chasePiece control node link
  let r := { r with kind := .nchase node control key h link, pieces := [p], via := some r.target, away := none
                    gen := (s.dieAt r.target).gen }
  let s := s.walked r.target r.asid p.va
  match s.checkWalk r.target (r.who s) .both p.va with
  | .fail c v => s.failReq r r.target (c, v)
  | .ok x =>
    if r.badTarget true p x then s.failReq r r.target (0x0021, p.va)
    else
      match s.findDie x.die with
      | none =>
        if s.isAway x.die then
          (s.touch r.die r.ctxid x.die).setReq
            { r with pieces := [{ p with place := some x }], stage := .fabric r.target 0, away := some x.die }
        else s.failReq r r.target (0x0023, p.va)
      | some d =>
        let s1 := if d = r.die then s else s.touch r.die r.ctxid x.die
        let placed := { p with place := some x }
        if d ≠ r.target then
          s1.setReq { r with pieces := [placed], stage := .fabric r.target 0, target := d
                             phys := if (s1.dieAt d).atmode then [x.die] else [] }
        else
          match s1.targetAll r [placed] true with
          | (s2, .ok ps) => s2.setReq { r with pieces := ps }
          | (s2, .error (f, _)) => s2.failReq r r.target f

/-- nchase: the read of one node at its home, as a plain load; the chase goes on from there, or ends (R287). A malformed
control operand ends it before its first read. -/
def State.performChase (s : State) (r : Req) (node control key : Word) (h : Nat) (link : Bool) : State :=
  match r.place1 with
  | none =>
    if r.pieces.isEmpty then s.finishReq r r.target { x := r.d.zip [0, wordOf (7 * 256)] } else s.failReq r r.target r.noPlace
  | some (p, x) =>
    match s.placeRead (r.tracked s) x p.va 8 .read with
    | .error f => s.failReq r r.target f
    | .ok (s1, bs) =>
      match chaseStep control key node h link (wordOf (valueOf bs)) with
      | .done v why => s1.finishReq r r.target { x := r.d.zip [v, why] }
      | .read p' h' link' => s1.chaseForward r p' h' link' control key

/-! ### Barrier objects (R398 to R401) -/

/-- A barrier object. -/
structure Barrier where
  arrived  : Nat
  phase    : Bool
  ovf      : Bool
  expected : Nat
  deriving DecidableEq, Repr

/-- The barrier object that 16 bytes hold. -/
def barrierOf (v : Nat) : Barrier :=
  { arrived := v / 2 ^ 64 % 2 ^ 48, phase := v.testBit 63, ovf := v.testBit 62, expected := v % 2 ^ 48 }

/-- Its 16 bytes; reserved bits keep what `old` holds. -/
def Barrier.into (b : Barrier) (old : Nat) : Nat :=
  let reserved := old / 2 ^ 48 % 2 ^ 14 * 2 ^ 48 + old / 2 ^ 112 % 2 ^ 16 * 2 ^ 112
  reserved + b.expected + b.ovf.toNat * 2 ^ 62 + b.phase.toNat * 2 ^ 63 + b.arrived * 2 ^ 64

/-- The flip of R399. -/
def Barrier.flip (b : Barrier) : Barrier :=
  if !b.ovf && decide (b.expected ≠ 0) && decide (b.arrived = b.expected) then { b with phase := !b.phase, arrived := 0 } else b

/-- An addition and whether it overflows. -/
def Barrier.add (b : Barrier) (n : Nat) : Barrier × Bool :=
  if b.ovf || (decide (b.expected ≠ 0) && decide (b.expected < b.arrived + n)) || decide (2 ^ 48 ≤ b.arrived + n) then
    ({ b with ovf := true }, true)
  else (({ b with arrived := b.arrived + n } : Barrier).flip, false)

/-- The barrier object at a local address replaced. -/
def State.putBarrier (s : State) (d : DieIx) (va : Word) (l : Nat) (b : Barrier) : Except Failed State :=
  s.nearWrite d va l (bytesOf 16 (b.into ((s.dieAt d).dram.value l 16)))

/-- A barrier-object operation. -/
inductive BarOp where
  | init (n : Word)
  | exp (n : Word)
  | wait (phase : Word)
  deriving DecidableEq, Repr

/-- The operation on the object at its home (R401). -/
def State.performBarrier (s : State) (r : Req) (op : BarOp) : Performed :=
  match r.place1 with
  | none => .error r.noPlace
  | some (p, x) =>
    match s.findDie x.die with
    | none => .error (0x0023, physical x.die x.local_)
    | some d =>
      match s.nearRead d r p.va x.local_ 16 with
      | .error f => .error f
      | .ok (s1, old) =>
        let v := valueOf old
        let b := barrierOf v
        let excess (n : Word) : Bool := decide (2 ^ 48 ≤ n.toNat)
        let sync : RaceOp := match op with
          | .wait _ => .syncRead
          | _ => .syncWrite
        let run (f : Barrier → Barrier) (xs : List Word) : Performed :=
          match s1.track d (r.tracked s) x p.va 16 sync with
          | .error f => .error f
          | .ok s2 =>
            match op with
            | .wait _ => .ok (s2, { x := r.d.zip xs })
            | _ => (s2.putBarrier d p.va x.local_ (f b)).map fun s3 => (s3, { x := r.d.zip xs })
        match op with
        | .init n => if excess n then .error (0x0015, p.va) else run (fun b => { b with expected := n.toNat, arrived := 0, ovf := false }) []
        | .exp n =>
          run (fun b => if excess n || decide (n.toNat < b.arrived) then { b with ovf := true }
            else ({ b with expected := n.toNat } : Barrier).flip) [wordOf v]
        | .wait ph =>
          run id [wordOf (b.arrived * 2 ^ 16 + b.phase.toNat * 4 + b.ovf.toNat * 2 + (b.phase != ph.getLsbD 0).toNat)]

/-- The addition of n bytes to the barrier object at a place; overflow, or the failure of its DRAM (R399, R465). No race
record checks it. DESIGN CHOICE (log 93). -/
def State.barrierAdd (s : State) (r : Req) (x : Place) (va : Word) (n : Nat) : Except Failed State × Bool :=
  match s.findDie x.die with
  | none => (if s.isAway x.die then (s.awayRead (r.tracked s) va 0).map fun _ => s else .error (0x0023, physical x.die x.local_), false)
  | some d =>
    match s.nearRead d r va x.local_ 16 with
    | .error f => (.error f, false)
    | .ok (s1, old) =>
      let (b, excess) := (barrierOf (valueOf old)).add n
      (s1.putBarrier d va x.local_ b, excess)

/-! ### Keys (R288 to R295) -/

/-- Channels empty and unbounded (R289). -/
def channelEmpty (mn mx : Nat) : Bool := (ElemType.bf16.fmt.value mx).lt (ElemType.bf16.fmt.value mn) false

/-- An unbounded channel. -/
def channelOpen (mn mx : Nat) : Bool := (decide (mn = 0xFF80) && decide (mx = 0x7F80)) || isNan16 mn || isNan16 mx

/-- The bound of a page: queries as f32 or bf16 encodings, with the page's bounds for each channel (R293). -/
def pageBound (et : ElemType) (qs : List Nat) (bounds : List (Nat × Nat)) : Nat :=
  let f := ElemType.f32.fmt
  let c : RoundCtx := { mode := 2 }
  if bounds.all fun b => channelEmpty b.1 b.2 then 0xFF800000
  else
    let product (q v : Nat) : Nat := f.round c ((et.fmt.value q).mul (ElemType.bf16.fmt.value v)).exact
    let go := (qs.zip bounds).foldl (fun (a : Nat × Bool) x =>
      let (q, mn, mx) := x
      if a.2 || (et.fmt.value q).isZero || channelEmpty mn mx then a
      else if decide (et.fmt.value q = .nan) || channelOpen mn mx then (0x7F800000, true)
      else
        let t := f.select c true (product q mn) (product q mx)
        let n := f.round c ((f.value a.1).add (f.value t))
        if f.value n = .nan then (0x7F800000, true) else (n, false)) (0, false)
    go.1

/-- A key page at a virtual address: its place, with the rights that the operation needs and the KD and KT of the first
page (R291, R292). -/
def State.keyPage (s : State) (r : Req) (a : Access) (va : Word) (like : Option (Nat × Bool)) :
    State × Except (BitVec 16) Place :=
  match s.fullCheck r.die (r.who s) a va with
  | (s1, .fail c _) => (s1, .error c)
  | (s1, .ok x) =>
    let kps := keyPageSize (pteKd x.leaf) (pteKt x.leaf)
    let same := match like with
      | some k => decide (k = (pteKd x.leaf, pteKt x.leaf))
      | none => true
    (s1, if x.isKey && same && decide (x.pageOffset % kps = 0) && decide (x.pageOffset / kps < x.size / kps) then .ok x
      else .error 0x0021)

/-- Bytes of a key page read at its home, outside race tracking: what fails is the page that begins at va (R291, R295). -/
def State.keyRead (s : State) (r : Req) (va : Word) (x : Place) (n : Nat) : Except Failed (State × List Byte) :=
  match s.placeRead { r.tracked s with untracked := true } x va n .read with
  | .ok a => .ok a
  | .error f => .error (f.1, va)

/-- MIN and MAX of each channel, as the bytes of a crust hold them. -/
def crustBounds (dh : Nat) (bs : List Byte) : List (Nat × Nat) :=
  let half (k : Nat) : Nat := valueOf ((bs.drop (2 * k)).take 2)
  (List.range dh).map fun c => (half c, half (dh + c))

/-- The bounds of pages i to i + n - 1. -/
def State.pageBounds (s : State) (r : Req) (et : ElemType) (qs : List Nat) (base : Word) (like : Nat × Bool) (i : Nat) :
    Nat → Except Failed (State × List Nat)
  | 0 => .ok (s, [])
  | n + 1 =>
    let kps := keyPageSize like.1 like.2
    let va := base + wordOf (i * kps)
    let dh := keyDim like.1
    match s.keyPage r .read va (some like) with
    | (_, .error c) => .error (c, va)
    | (s1, .ok x) =>
      if s1.awaits then .ok (s1, [])
      else
        match s1.keyRead r va x (4 * dh) with
        | .error f => .error f
        | .ok (s2, bs) =>
          (s2.pageBounds r et qs base like (i + 1) n).map fun more => (more.1, pageBound et qs (crustBounds dh bs) :: more.2)

/-- Whether bound a is greater than bound b; neither is a NaN. -/
def boundAbove (a b : Nat) : Bool := (ElemType.f32.fmt.value b).lt (ElemType.f32.fmt.value a) false

/-- The pages with bounds in falling order, equal bounds in rising page order. -/
def rankPages (ps : List (Nat × Nat)) : List (Nat × Nat) :=
  ps.foldl (fun out p =>
    let (hi, lo) := out.span fun q => !boundAbove p.2 q.2
    hi ++ p :: lo) []

/-- ksel (R292 to R295): `op` holds the descriptor and the query as sampled. -/
def State.performKsel (s : State) (r : Req) (et : ElemType) (op : List Byte) : Performed :=
  let w := BitVec.ofNat 512 (valueOf (op.take 64))
  let np := field w 8 2
  let k := field w 10 2
  let lo := field w 12 2
  let inn := field w 14 2
  let qoff := field w 16 4
  let loff := field w 20 4
  let kbase := wordOf (field w 0 8)
  let len := k + inn
  let none_ : Performed := .ok (s, { x := r.d.map fun i => (i, 0xFFFFFFFFFFFFFFFF) })
  if field w 24 40 ≠ 0 ∨ np = 0 ∨ 4096 < np ∨ 256 < k ∨ 256 < inn ∨ np < lo + inn ∨ len = 0 ∨ qoff % 64 ≠ 0 ∨ loff % 64 ≠ 0
    ∨ 0x200000 < loff + 8 * len then none_
  else
    match s.keyPage r .read kbase none with
    | (_, .error c) => .error (c, kbase)
    | (s1, .ok x) =>
      let like := (pteKd x.leaf, pteKt x.leaf)
      let dh := keyDim like.1
      let es := et.width / 8
      if s1.awaits then .ok (s1, {})
      else if 0x200000 < qoff + dh * es then none_
      else
        let q := op.drop 64
        let qs := (List.range dh).map fun c => valueOf ((q.drop (c * es)).take es)
        match s1.pageBounds r et qs kbase like 0 np with
        | .error f => .error f
        | .ok (s2, bs) =>
          let all := bs.zipIdx.map fun b => (b.2, b.1)
          let isIn (i : Nat) : Bool := decide (lo ≤ i) && decide (i < lo + inn)
          let best := (rankPages (all.filter fun p => !isIn p.1 && decide (p.2 ≠ 0xFF800000))).take k
          let sel := all.filter fun p => isIn p.1 || best.contains p
          let pad := List.replicate (len - sel.length)
          let list := (sel.map Prod.fst ++ pad 0xFFFFFFFF ++ sel.map Prod.snd ++ pad 0xFF800000).flatMap fun (v : Nat) => bytesOf 4 v
          .ok (s2, { x := r.d.map fun i => (i, wordOf sel.length), sp := [(loff, list)] })

/-- The n sectors from page offset `off` on of the page that a place lies in, read at their homes (R260, R291). -/
def State.siblingBytes (s : State) (r : Req) (x : Place) (va : Word) (off : Nat) : Nat → Except Failed (State × List Byte)
  | 0 => .ok (s, [])
  | n + 1 =>
    let y : Place := { x with die := s.siblingHome r.die r.asid x va off, local_ := pteLaddr x.leaf * 2 ^ 16 + off }
    if !s.passes r.die y then .ok (s.await, [])
    else
      match s.keyRead r va y 32 with
      | .error f => .error f
      | .ok (s1, bs) => (s1.siblingBytes r x va (off + 32) n).map fun more => (more.1, bs ++ more.2)

/-- The tight bounds of a channel's elements. -/
def tightBounds (kt : Bool) (vs : List Nat) : Nat × Nat :=
  let f := ElemType.bf16.fmt
  let xs := vs.map (keyValue kt)
  if xs.any isNan16 then (0xFF80, 0x7F80)
  else (xs.foldl (fun a v => f.select {} false a v) (xs.headD 0), xs.foldl (fun a v => f.select {} true a v) (xs.headD 0))

/-- kcrust from page i on, n pages being left (R291). No race record checks its reads of keys or its writes of the crust.
DESIGN CHOICE (log 94). -/
def State.crustPages (s : State) (r : Req) (base : Word) (like : Option (Nat × Bool)) (i : Nat) : Nat → State × Option Failed
  | 0 => (s, none)
  | n + 1 =>
    let kps := match like with
      | some k => keyPageSize k.1 k.2
      | none => 0
    let va := base + wordOf (i * kps)
    match s.keyPage r .both va like with
    | (s1, .error c) => (s1, some (c, va))
    | (s1, .ok x) =>
      let kd := pteKd x.leaf
      let kt := pteKt x.leaf
      let dh := keyDim kd
      let es := keyBytes kt
      match s1.siblingBytes r x va (x.pageOffset + 4 * dh) (2 * dh * es) with
      | .error f => (s1, some f)
      | .ok (s2, ks) =>
        let bounds : List (Nat × Nat) := (List.range dh).map fun c =>
          tightBounds kt ((List.range 64).map fun k => valueOf ((ks.drop ((k * dh + c) * es)).take es))
        let crust := (bounds.map Prod.fst ++ bounds.map Prod.snd).flatMap fun (v : Nat) => bytesOf 2 v
        match s2.placeWrite { r.tracked s2 with untracked := true } x va crust .write with
        | .error f => (s2, some (f.1, va))
        | .ok s3 => s3.crustPages r base (some (kd, kt)) (i + 1) n

/-- kcrust (R291): pages below a failing one have been recomputed. -/
def State.performKcrust (s : State) (r : Req) (va n : Word) : State × Except Failed Response :=
  if n.toNat < 1 ∨ 4096 < n.toNat then (s, .ok { x := r.d.map fun i => (i, 0xFFFFFFFFFFFFFFFF) })
  else
    match s.crustPages r va none 0 n.toNat with
    | (s1, none) => (s1, .ok { x := r.d.map fun i => (i, n) })
    | (s1, some f) => (s1, .error f)

end Sys2Proof.Machine
end

