-- ==== Sys2Proof/Machine/Frame.lean ====
section
/-!
DEFINITION. Frame slots and image areas (R230 to R233, R331): how a stopped tile is written to its context's frame slot,
and how it is read back, as system software may have edited it.
-/
namespace Sys2Proof.Machine

/-- Bytes at offsets, offsets rising and ranges apart; every other byte is zero. -/
abbrev Image := List (Nat × List Byte)

/-- The cells of an image placed at a base address. -/
def Image.cells (im : Image) (base : Nat) : Mem := im.flatMap fun p => Mem.cells (base + p.1) p.2

/-- An image shifted by an offset. -/
def Image.at (im : Image) (off : Nat) : Image := im.map fun p => (off + p.1, p.2)

/-- The device writes an image of n bytes at a physical place of its own DRAM: sectors it covers are clean and unmarked. -/
def Die.putImage (x : Die) (base n : Nat) (im : Image) : Die :=
  let inside (k : Nat) : Bool := decide (base / 32 ≤ k) && decide (k < (base + n) / 32)
  { x with
    dram := x.dram.splice base n (im.cells base)
    slices := x.slices.map fun c => if inside c.sector then c.cleaned else c
    poison := x.poison.filter fun k => !inside k, flaws := x.flaws.filter fun k => !inside k }

/-- Whether n bytes of DRAM hold an image. -/
def Die.holdsImage (x : Die) (base n : Nat) (im : Image) : Bool := decide (x.dram.part base n = im.cells base)

/-- The frame slot and the image area of a tile (R230). -/
def CtxEntry.frame (e : CtxEntry) (t : TileIx) : Nat := e.fbase.toNat * 2 ^ 28 + t.val * 0x100000
/-- The image area. -/
def CtxEntry.imageArea (e : CtxEntry) (t : TileIx) : Nat := e.fbase.toNat * 2 ^ 28 + 0x4000000 + t.val * 0x200000
/-- Whether the frame area lies in DRAM. -/
def CtxEntry.frameOk (e : CtxEntry) : Bool := decide (e.fbase.toNat * 2 ^ 28 + 0xC000000 ≤ 0x0BE0000000)

/-! ### Latch entries (R233) -/

/-- The SP byte of a latch's post. -/
def postByte (p : Option Post) : Nat := (semCode (p.map (·.k))).toNat

/-- The value and specifier of a register write. -/
def Effect.register : Effect → Option (Word × Operand)
  | .x i v => some (v, .x i)
  | .seed v => some (v, .srseed)
  | .b i v => some (v, .b i)
  | .g i v => some (v, .g i)
  | .n i v => some (v.setWidth 64, .n i)
  | _ => none

/-- The write of a value to the register that a specifier names. -/
def registerEffect (o : Operand) (v : Word) : List Effect :=
  match o with
  | .x i => [.x i v]
  | .srseed => [.seed v]
  | .b i => [.b i v]
  | .g i => [.g i v]
  | .n i => [.n i (v.setWidth 16)]
  | _ => []

/-- Whether a captured result is an internal write of the control core. -/
def Latch.internal (l : Latch) : Bool := decide (l.agent = .cc) && !l.effects.isEmpty && l.effects.all fun e => e.register.isNone

/-- Entries with their post on the last, in 16 bytes each. -/
def Latch.ccEntries (l : Latch) : List (List Byte) :=
  let rs := l.effects.filterMap Effect.register
  rs.zipIdx.map fun x =>
    let post := if x.2 + 1 = rs.length then postByte l.post else 0
    bytesOf 16 (x.1.1.toNat + x.1.2.code.toNat * 2 ^ 64 + l.r % 256 * 2 ^ 72 + post * 2 ^ 80)

/-- A captured result from an entry. -/
def ccEntryLatch (v : Nat) : Latch :=
  let k := semOfCode (BitVec.ofNat 8 (v / 2 ^ 80))
  { r := v / 2 ^ 72 % 256, agent := .cc, issued := 0, post := k.map fun k => { k }
    effects := match Operand.ofCode (BitVec.ofNat 8 (v / 2 ^ 64)) with
      | some o => registerEffect o (wordOf (v % 2 ^ 64))
      | none => [] }

/-- The internal-write latch in 64 bytes. -/
def Latch.internalBytes (l : Latch) : List Byte :=
  let p := postByte l.post * 2 ^ 16
  match l.effects with
  | .sp off bs :: _ => bytesOf 32 (1 + bs.length * 2 ^ 8 + p + off * 2 ^ 32) ++ (bs ++ List.replicate 32 0).take 32
  | .tagIns e tag sbase slen :: _ =>
    bytesOf 64 (2 + p + e * 2 ^ 32 + tag.toNat * 2 ^ 64 + sbase.toNat * 2 ^ 128 + slen.toNat * 2 ^ 144)
  | .tagInv e :: _ => bytesOf 64 (3 + p + e * 2 ^ 32)
  | .tagInvAll :: _ => bytesOf 64 (4 + p)
  | .tagInvTag tag :: _ => bytesOf 64 (5 + p + tag.toNat * 2 ^ 64)
  | _ => List.replicate 64 0

/-- The internal write that 64 bytes describe. -/
def internalLatch (v : BitVec 512) : List Latch :=
  let k := semOfCode (BitVec.ofNat 8 (field v 2 1))
  let mk (e : Effect) : List Latch := [{ r := 0, agent := .cc, issued := 0, effects := [e], post := k.map fun k => { k } }]
  match field v 0 1 with
  | 1 => mk (.sp (field v 4 4) (bytesOf (field v 1 1) (field v 32 32)))
  | 2 => mk (.tagIns (field v 4 4 % 1024) (wordOf (field v 8 8)) (BitVec.ofNat 15 (field v 16 2)) (BitVec.ofNat 16 (field v 18 2)))
  | 3 => mk (.tagInv (field v 4 4 % 1024))
  | 4 => mk .tagInvAll
  | 5 => mk (.tagInvTag (wordOf (field v 8 8)))
  | _ => []

/-- The effects of a captured result as its bytes stand now: a sample not yet taken is foreseen. -/
def Latch.foreseen (l : Latch) (t : Tile) : List Effect :=
  match l.sample with
  | some (_, smp) => l.effects ++ (t.take smp).1
  | none => l.effects

/-- The bits of a mask of elements of width w, one for each element. -/
def elementBits (w : Nat) (m : Vec) : List Bool := (List.range (4096 / w)).map fun i => m.getLsbD (w * i)

/-- Element m of a group is element m / n of its register m mod n (R145). -/
def interleaveBits (n : Nat) (ms : List (List Bool)) : List Bool :=
  (List.range (n * (ms.headD []).length)).map fun m => ((ms.getD (m % n) []).getD (m / n) false)

/-- Consecutive registers that are written together. -/
def vregRun : List Effect → List (Nat × Vec × Vec)
  | .vreg d data mask :: es =>
    match vregRun es with
    | (k, x) :: more => if k = d.val + 1 then (d.val, data, mask) :: (k, x) :: more else [(d.val, data, mask)]
    | [] => [(d.val, data, mask)]
  | _ => []

/-- The entries of a vector engine's captured result, in 4,096 bytes each: writes of registers in a group, of a mask, or
of a stream entry. -/
def Latch.veEntries (l : Latch) (t : Tile) : List Image :=
  let es := l.foreseen t
  let sp := postByte l.post
  let head (d : Operand) (n entry : Nat) (post : Bool) : Nat × List Byte :=
    (0, bytesOf 5 (d.code.toNat + n * 2 ^ 8 + l.r % 256 * 2 ^ 16 + (if post then sp else 0) * 2 ^ 24 + entry * 2 ^ 32))
  let bits (bs : List Bool) : Nat × List Byte := (64, bytesOf 128 (packLanes 1 (bs.map Bool.toNat)))
  let groups : List (List Effect) := match es with
    | .vreg .. :: _ =>
      let n := (vregRun es).length
      if n = es.length ∧ (n = 2 ∨ n = 4) then [es] else es.map fun e => [e]
    | _ => es.map fun e => [e]
  groups.zipIdx.filterMap fun g =>
    let last := decide (g.2 + 1 = groups.length)
    match g.1 with
    | .vreg d _ _ :: _ =>
      let rs := vregRun g.1
      some [head (.v d) rs.length 0 last, bits (interleaveBits rs.length (rs.map fun r => elementBits l.ew r.2.2)),
        (256, rs.flatMap fun r => vecBytes r.2.1)]
    | .qreg d data mask :: _ =>
      some [head (.q d) 0 0 last, (64, bytesOf 128 mask.toNat), (256, bytesOf 128 data.toNat)]
    | .stream s slot data :: _ =>
      some [head (.s s) 1 slot.val last, bits (List.replicate (4096 / l.ew) true), (256, vecBytes data)]
    | _ => none

/-- The bytes of a captured store of the vector engine, and its write mask. -/
def Effect.stored (ew : Nat) : Effect → Option (List Byte × List Bool)
  | .sp _ bs => some (bs, List.replicate (8 * bs.length / ew) true)
  | .spBits _ data mask => some (vecBytes data, elementBits ew mask)
  | _ => none

/-- The entry of a captured store of the vector engine: it names no register, and its address has no place. -/
def Latch.storeEntry (l : Latch) : Option Image :=
  match l.effects.filterMap (Effect.stored l.ew) with
  | [] => none
  | xs => some [(0, bytesOf 4 (l.r % 256 * 2 ^ 16 + postByte l.post * 2 ^ 24)),
      (64, bytesOf 128 (packLanes 1 (((xs.flatMap (·.2)).take 1024).map Bool.toNat))), (256, (xs.flatMap (·.1)).take 2048)]

/-- Whether a captured result of an engine is read back from its form in the frame. -/
def Latch.framed (l : Latch) (t : Tile) : Bool :=
  (l.foreseen t).all fun e =>
    match l.agent, e with
    | .ve, .vreg .. => true
    | .ve, .qreg .. => true
    | .ve, .stream .. => true
    | .me, .accRow .. => true
    | .me, .accStep .. => true
    | .me, .stream .. => true
    | _, _ => false

/-- A captured result from a vector entry; `old` gives the element width, which an entry does not state. -/
def veEntryLatch (ew : Nat) (v : Nat) : List Latch :=
  let get (off n : Nat) : Nat := v / 2 ^ (8 * off) % 2 ^ (8 * n)
  let k := semOfCode (BitVec.ofNat 8 (get 3 1))
  let mk (es : List Effect) : List Latch :=
    [{ r := get 2 1, agent := .ve, issued := 0, effects := es, post := k.map (fun k => { k }), ew }]
  let q := BitVec.ofNat 1024 (get 64 128)
  match Operand.ofCode (BitVec.ofNat 8 (get 0 1)) with
  | some (.v d) =>
    let n := max 1 (get 1 1)
    mk ((List.range n).map fun j =>
      .vreg (xAfter d j) (BitVec.ofNat 4096 (get (256 + 512 * j) 512)) (laneMask ew q j n))
  | some (.q d) => mk [.qreg d (BitVec.ofNat 1024 (get 256 128)) q]
  | some (.s s) => mk [.stream s (Fin.ofNat 4 (get 4 1)) (BitVec.ofNat 4096 (get 256 512))]
  | _ => []

/-- The entry of a matrix engine's captured result, in 1,024 bytes: a row as the accumulator stands now, or a stream
entry. -/
def Latch.meEntries (l : Latch) (t : Tile) : List Image :=
  let sp := postByte l.post
  let es := l.foreseen t
  let entry (kind a b : Nat) (last : Bool) : Nat :=
    kind + a * 2 ^ 8 + b * 2 ^ 16 + (if last then sp else 0) * 2 ^ 24 + l.r % 2 ^ 16 * 2 ^ 32
  let row (q : Fin 4) (r : Fin 128) (data mask : Vec) (last : Bool) : Image :=
    [(0, bytesOf 6 (entry 0 q.val r.val last)), (16, bytesOf 16 (packLanes 1 ((elementBits 32 mask).map Bool.toNat))),
      (512, vecBytes data)]
  es.zipIdx.filterMap fun e =>
    let last := decide (e.2 + 1 = es.length)
    match e.1 with
    | .accRow q r data mask => some (row q r data mask last)
    | .accStep q r groups totals info =>
      let x := stepRow info groups totals (nth (nth t.me.acc q) r)
      some (row q r x.1 x.2 last)
    | .stream s slot data => some [(0, bytesOf 6 (entry 1 s.val slot.val last)), (512, vecBytes data)]
    | _ => none

/-- A captured result from a matrix entry. -/
def meEntryLatch (v : Nat) : List Latch :=
  let get (off n : Nat) : Nat := v / 2 ^ (8 * off) % 2 ^ (8 * n)
  let k := semOfCode (BitVec.ofNat 8 (get 3 1))
  let data := BitVec.ofNat 4096 (get 512 512)
  let e : Effect :=
    if get 0 1 = 0 then
      .accRow (Fin.ofNat 4 (get 1 1)) (Fin.ofNat 128 (get 2 1)) data (laneMask 32 (BitVec.ofNat 1024 (get 16 16)) 0 1)
    else .stream (Fin.ofNat 8 (get 1 1)) (Fin.ofNat 4 (get 2 1)) data
  [{ r := get 4 2, agent := .me, issued := 0, effects := [e], post := k.map fun k => { k } }]

/-! ### Pending arrivals and sub-queues (R233, R331) -/

/-- A request that a cut of a context's task on a tile has captured. -/
def Req.capturedOf (r : Req) (d : DieIx) (t : TileIx) (c : BitVec 16) : Bool :=
  r.of d t && r.captured.isSome && decide (r.ctxid = c)

/-- A request that a cut of the tile's present task has captured. -/
def State.isCaptured (s : State) (d : DieIx) (t : TileIx) (r : Req) : Bool := r.capturedOf d t (s.tileAt d t).cc.ctxid

/-- The pending arrivals of a context's task on a tile: its captured requests, in rising r and in order of issue (R219,
R446). -/
def State.arrivals (s : State) (d : DieIx) (t : TileIx) (c : BitVec 16) : List Req :=
  sortBy (fun r => r.captured.getD 0) (s.reqs.filter fun r => r.capturedOf d t c)

/-- A slot table. -/
abbrev SlotTable := Vector (BitVec 32) 16

/-- The 64-byte units of the staging pool: what lies in no slot of the silo (R246). -/
def poolUnits (slots : SlotTable) : List Nat :=
  (List.range 2048).filter fun u => !slots.toList.any fun v =>
    decide ((v.extractLsb' 0 11).toNat ≤ u) && decide (u < (v.extractLsb' 0 11).toNat + (v.extractLsb' 16 16).toNat)

/-- The data of a response that has landed before its due cycle, in whole units. -/
def Req.staged (r : Req) : List Byte :=
  if r.stage ≠ .landed ∨ r.resp.fault.isSome then []
  else
    let bs := (r.resp.x.flatMap fun v => bytesOf 8 v.2.toNat) ++ r.resp.sp.flatMap (·.2) ++ r.resp.slot.flatMap (·.2)
      ++ (r.resp.stream.map fun x => vecBytes x.2.2).getD []
    bs ++ List.replicate ((64 - bs.length % 64) % 64) 0

/-- Data for runs of bytes of the same lengths, and what is left. -/
def refill (runs : List (Nat × List Byte)) (bs : List Byte) : List (Nat × List Byte) × List Byte :=
  runs.foldl (fun a p => (a.1 ++ [(p.1, a.2.take p.2.length)], a.2.drop p.2.length)) ([], bs)

/-- A response with the data that its place in the pool holds. -/
def Req.unstaged (r : Req) (bs : List Byte) : Req :=
  let n := r.resp.x.length
  let xs := r.resp.x.zipIdx.map fun v => (v.1.1, wordOf (valueOf ((bs.drop (8 * v.2)).take 8)))
  let (sp, more) := refill r.resp.sp (bs.drop (8 * n))
  let (slot, rest) := refill r.resp.slot more
  { r with resp := { r.resp with x := xs, sp, slot, stream := r.resp.stream.map fun x => (x.1, x.2.1, vecOf (rest.take 512)) } }

/-- Requests with the units of the pool that hold their data, each at its silo offset. -/
def stageIn : List Nat → List Req → List (Nat × List (Nat × List Byte))
  | _, [] => []
  | pool, r :: rs =>
    let bs := r.staged
    let n := bs.length / 64
    (r.id, (pool.take n).zipIdx.map fun u => (64 * u.1, (bs.drop (64 * u.2)).take 64)) :: stageIn (pool.drop n) rs

/-- Where the data of pending arrivals wait. DESIGN CHOICE (log 76): the spec does not say where in the pool; they take its
units in order. -/
def State.staging (s : State) (d : DieIx) (t : TileIx) (c : BitVec 16) (slots : SlotTable) : List (Nat × List (Nat × List Byte)) :=
  stageIn (poolUnits slots) (s.arrivals d t c)

/-- The silo with the data of pending arrivals in its pool (R226, R246). -/
def State.stagedSilo (s : State) (d : DieIx) (t : TileIx) (c : BitVec 16) (slots : SlotTable) (silo : Mem) : Mem :=
  (s.staging d t c slots).foldl (fun m p => p.2.foldl (fun m u => m.write u.1 u.2) m) silo

/-- The silo offset of an item's landing slot that its first byte goes to. -/
def Req.slotOffset (r : Req) : Option Nat :=
  match r.kind with
  | .copy i => i.slot.map fun b => (b + i.dst.toNat) % 2 ^ 17
  | _ => none

/-- A pending arrival in 16 bytes; `place` is where its data wait. -/
def Req.arrivalBytes (r : Req) (place : Option Nat) : List Byte :=
  let f := r.resp.fault
  let dest := match f, r.d with
    | some x, _ => x.2.toNat
    | none, i :: _ => (Operand.x i).code.toNat
    | none, [] => (place <|> r.slotOffset).getD 0
  bytesOf 16 (r.captured.getD 0 % 2 ^ 16 + (f.map fun x => x.1.toNat).getD 0 * 2 ^ 16
    + (decide (r.stage = .landed)).toNat * 2 ^ 32 + f.isSome.toNat * 2 ^ 33 + agentCode (some r.agent) * 2 ^ 34 + dest * 2 ^ 64)

/-- The agent that a pending arrival names. -/
def agentOf (n : Nat) : Agent :=
  match n with
  | 1 => .ve | 2 => .me | 3 => .le | 4 => .se | _ => .cc

/-- A request whose edited entry says anew that it has landed, has been sent, or neither. DEDUCED (log 76): one that is said to
have been sent, and was not, has no response to wait for; one that is said not to have been sent goes out anew. -/
def Req.restaged (r : Req) (sent landed : Bool) : Req :=
  if landed then { r with stage := .landed }
  else if !sent then
    { r with stage := .issued, back := false, resp := {}, pieces := r.pieces.map fun p => { p with place := none } }
  else if r.stage = .issued ∨ r.stage = .landed then { r with stage := .waiting }
  else r

/-- A request as its edited pending arrival gives it, `was` being the entry as it was written: a field that the edit has
left alone says nothing of what the request has come to since (R215, R221, R233). -/
def Req.edited (r : Req) (was v : Nat) : Req :=
  let moved := decide (v / 2 ^ 64 ≠ was / 2 ^ 64)
  let r1 := { r with captured := some (v % 2 ^ 16), agent := agentOf (v / 2 ^ 34 % 8) }
  if v.testBit 33 then
    if was.testBit 33 && !moved && decide (v / 2 ^ 16 % 2 ^ 16 = was / 2 ^ 16 % 2 ^ 16) then r1
    else { r1 with resp := { r1.resp with fault := some (BitVec.ofNat 16 (v / 2 ^ 16), wordOf (v / 2 ^ 64)) }, stage := .landed }
  else
    let r2 := if was.testBit 33 then { r1 with resp := { r1.resp with fault := none } } else r1
    let d := if !moved then r.d else
      match r.d, Operand.ofCode (BitVec.ofNat 8 (v / 2 ^ 64)) with
      | _ :: more, some (.x i) => i :: more
      | ds, _ => ds
    let r3 := { r2 with d, resp := { r2.resp with x := if moved then d.zip (r2.resp.x.map (·.2)) else r2.resp.x } }
    let r4 := if v.testBit 32 = was.testBit 32 then r3 else r3.restaged (decide (r.stage ≠ .issued)) (v.testBit 32)
    match r.kind, r.slotOffset with
    | .copy i, some off =>
      if r.stage = .landed ∨ !moved then r4
      else { r4 with kind := .copy { i with slot := i.slot.map fun b => b + v / 2 ^ 64 % 2 ^ 17 - off } }
    | _, _ => r4

/-- A request that a pending arrival written by software makes (R215): its fault, if it has one, at its due cycle. One
that is said not to have landed has no response to wait for. -/
def State.addedArrival (s : State) (d : DieIx) (t : TileIx) (v : Nat) : State :=
  let s1 : State := { s with die := d, tile := t }
  let f : Option (BitVec 16 × Word) := if v.testBit 33 then some (BitVec.ofNat 16 (v / 2 ^ 16), wordOf (v / 2 ^ 64)) else none
  let r := s1.newRequest (agentOf (v / 2 ^ 34 % 8)) { kind := .delay f, arrival := 0 }
  { s with nextReq := s.nextReq + 1
           reqs := s.reqs ++ [{ r with captured := some (v % 2 ^ 16), stage := if v.testBit 32 || v.testBit 33 then .landed else .waiting }] }

/-- The captured copy items of a copy engine in a class. -/
def State.subItems (s : State) (d : DieIx) (t : TileIx) (c : BitVec 16) (ag : Agent) (cls : Nat) : List (Req × CopyItem) :=
  s.reqs.filterMap fun r =>
    match r.kind with
    | .copy i => if r.capturedOf d t c && decide (i.engine = ag) && decide (i.op.cls = cls) then some (r, i) else none
    | _ => none

/-- The memory-side virtual address of an item: that of its first move, for a command that takes it from a layout record. -/
def CopyItem.memoryVa (i : CopyItem) : Word :=
  if i.cmd.isTensor then
    match (i.moves 0).findSome? fun m => if i.engine = .se then some m.dst else m.src with
    | some a => BitVec.ofNat 64 (a / i.cells)
    | none => 0
  else if i.engine = .se then i.dst else i.src

/-- The cause with which a copy item has failed. -/
def Req.itemCause (r : Req) : Option (BitVec 16) := (r.resp.status.bind fun x => x.2.1) <|> r.resp.fault.map (·.1)

/-- A sub-queue entry in 64 bytes. -/
def subEntry (r : Req) (i : CopyItem) : List Byte :=
  let va := i.memoryVa
  let cause := r.itemCause
  let sent := decide (r.stage ≠ .issued)
  bytesOf 64 (va.toNat + r.gen.toNat * 2 ^ 64 + i.bytes % 2 ^ 16 * 2 ^ 80 + (cause.map (·.toNat)).getD 0 * 2 ^ 96
    + (1 + sent.toNat * 2 + (decide (r.stage = .landed)).toNat * 4 + cause.isSome.toNat * 8) * 2 ^ 112
    + i.record % 2 ^ 32 * 2 ^ 128 + i.t % 2 ^ 32 * 2 ^ 160 + i.blockAt.getD 0 * 2 ^ 192 + r.captured.getD 0 % 2 ^ 16 * 2 ^ 224)

/-- Where the sub-queue image of a copy engine lies in the slot. -/
def subBase (ag : Agent) : Nat := if ag = .le then 0xE0000 else 0xE8000

/-- The sub-queue entries of a copy engine. -/
def State.subEntries (s : State) (d : DieIx) (t : TileIx) (c : BitVec 16) (ag : Agent) : List FrameEntry :=
  [0, 1, 2].flatMap fun cls => (s.subItems d t c ag cls).zipIdx.map fun x =>
    { req := x.1.1.id, off := subBase ag + 0x800 * cls + 64 * x.2, bytes := subEntry x.1.1 x.1.2 }

/-- Entries as an image from an offset of the slot on. -/
def entryImage (base : Nat) (es : List FrameEntry) : Image := es.map fun e => (e.off - base, e.bytes)

/-- An item as its edited entry describes it: address, bytes, record, t and block (R331). -/
def CopyItem.edited (i : CopyItem) (t : Tile) (w : BitVec 512) : CopyItem :=
  let va : Word := wordOf (field w 0 8)
  let off := field w 24 4
  let i1 := { i with bytes := field w 10 2, record := field w 16 4, t := field w 20 4
                     block := if off = 0 then none else if i.blockAt = some off then i.block
                       else some (off, BitVec.ofNat 512 (t.active.bytes.value off 64)) }
  if i.cmd.isTensor then { i1 with shift := i.shift + (va - i.memoryVa) }
  else if i.engine = .se then { i1 with dst := va } else { i1 with src := va }

/-- A copy item as its edited entry gives it, `was` being the entry as it was written; none when the entry is no longer
valid (R215, R221, R332). -/
def Req.editedItem (r : Req) (i : CopyItem) (t : Tile) (was w : BitVec 512) : Option Req :=
  let flags := field w 14 1
  let before := field was 14 1
  if flags % 2 = 0 then none
  else
    let j := i.edited t w
    let moved := decide (j.memoryVa ≠ i.memoryVa) || decide (j.bytes ≠ i.bytes)
    let r1 : Req := { r with
      captured := some (field w 28 2), gen := if field w 8 2 = field was 8 2 then r.gen else BitVec.ofNat 16 (field w 8 2), kind := .copy j
      pieces := if moved && i.indexVa.isNone then j.pieces (j.index.getD 0) else r.pieces }
    let cause : BitVec 16 := BitVec.ofNat 16 (field w 12 2)
    if flags.testBit 3 then
      some (if before.testBit 3 && decide (field was 12 2 = field w 12 2) then r1
        else { r1 with resp := r1.failure (cause, j.memoryVa), stage := .landed })
    else
      let r2 := if before.testBit 3 then
          { r1 with resp := { r1.resp with fault := none, status := r1.resp.status.map fun y => (y.1, none, y.2.2) } }
        else r1
      some (if flags % 8 = before % 8 then r2 else r2.restaged (flags.testBit 1) (flags.testBit 2))

/-- The request of iteration m of the copy record at a scratchpad offset, as its issue would make it now; none where that is
no record of a copy engine (R331, R332). -/
def State.itemAt (s : State) (d : DieIx) (t : TileIx) (ag : Agent) (off m : Nat) : Option (Req × CopyItem) :=
  let s1 : State := { s with die := d, tile := t, agent := ag }
  let x := s.tileAt d t
  let word := BitVec.ofNat 512 (x.active.bytes.value off 64)
  match decodeRecord ag word with
  | .bad _ => none
  | .ok ins =>
    match ins.coded with
    | none => none
    | some c =>
      match c.tail with
      | none => none
      | some tl =>
        let r0 : Running :=
          { off, word, instr := ins, l0 := m % tl.trip 0, l1 := m / tl.trip 0 % tl.trip 1
            l2 := m / (tl.trip 0 * tl.trip 1) % tl.trip 2, l3 := m / (tl.trip 0 * tl.trip 1 * tl.trip 2) }
        let cmd : Cmd := ⟨c.maj, c.fn⟩
        let f := x.fixCopy cmd c.op s.nextReq
        if !([0xA0, 0xA8, 0xAC, 0xB0].contains c.maj) ∨ f.dead then none
        else
          let f := if cmd.isKgath then s1.fixKgath c.op tl r0 f else f
          let i := (s1.copyItem cmd c.op tl { r0 with copy := f } 0).sample x
          some (s1.newRequest ag { kind := .copy i, arrival := c.op.arrival, fpc := BitVec.ofNat 64 off, fidx := r0.fidx
                                   pieces := if i.indexVa.isSome then [] else i.pieces (i.index.getD 0) }, i)

/-- The item that an entry written by software describes (R215, R331): the record at its offset gives the command, t the
iteration. -/
def State.addedItem (s : State) (d : DieIx) (t : TileIx) (ag : Agent) (w : BitVec 512) : State :=
  match s.itemAt d t ag (field w 16 4) (field w 20 4) with
  | none => s
  | some (r, i) =>
    match r.editedItem i (s.tileAt d t) 0 w with
    | some r => { s with reqs := s.reqs ++ [r], nextReq := s.nextReq + 1 }
    | none => s

/-- Entries of the frame that software has added: pending arrivals, and entries of sub-queues. -/
def State.addedEntries (s : State) (d : DieIx) (t : TileIx) (arrivals : List Nat) (items : List (Agent × BitVec 512)) : State :=
  items.foldl (fun s p => s.addedItem d t p.1 p.2) (arrivals.foldl (fun s v => s.addedArrival d t v) s)

/-- A captured copy item read back from its edited entry. An edit of the record's offset or of t makes it the item of that
iteration of that record, since the entry alone holds its state (R332). -/
def State.rereadItem (s : State) (d : DieIx) (t : TileIx) (r : Req) (i : CopyItem) (was w : BitVec 512) : Option Req :=
  let other := if field w 16 8 = field was 16 8 then none else s.itemAt d t i.engine (field w 16 4) (field w 20 4)
  match other with
  | none => r.editedItem i (s.tileAt d t) was w
  | some (q, j) =>
    let j := { j with run := i.run }
    ({ r with kind := .copy j, pieces := q.pieces, fpc := q.fpc, fidx := q.fidx } : Req).editedItem j (s.tileAt d t) was w

/-! ### Sequencer blocks (R232) -/

/-- A sequencer block in 1,024 bytes: the queue with its head entry in progress, the record, loops and counts. -/
def Seq.block (q : Seq) (me : Bool) : Image :=
  let (queue, idx, cur, loops) := match q.aside with
    | some a => a
    | none => (q.queue, q.idx, q.cur, q.loops)
  let left := match queue with
    | e :: _ => e.count - idx
    | [] => 0
  let off := match cur, queue with
    | some r, _ => r.off
    | none, e :: _ => e.off + 64 * idx
    | none, [] => 0
  let l (j : Nat) : Nat := (loops[j]?.map (·.index)).getD 0
  let r : Running := cur.getD { off := 0, word := 0, instr := .resultWriteback }
  let w0 := off % 2 ^ 21 + left % 2 ^ 9 * 2 ^ 21 + cur.isNone.toNat * 2 ^ 30
  let w1 := r.l0 + r.l1 * 2 ^ 16 + r.l2 * 2 ^ 32 + r.l3 * 2 ^ 48
  let w2 := l 0 % 2 ^ 16 + l 1 % 2 ^ 16 * 2 ^ 16 + r.valid.getD 0 % 2 ^ 16 * 2 ^ 32 + (if me then 0 else q.gap % 256 * 2 ^ 48)
    + q.stg.toNat * 2 ^ 56
  let first (j : Nat) : Nat := (loops[j]?.map (·.first)).getD 0
  let trips (j : Nat) : Nat := (loops[j]?.map (·.trips)).getD 0
  let w3 := first 0 % 256 + first 1 % 256 * 2 ^ 8 + trips 0 % 2 ^ 16 * 2 ^ 16 + trips 1 % 2 ^ 16 * 2 ^ 32 + loops.length * 2 ^ 48
  let w4 := r.waited.toNat + queue.length % 64 * 2 ^ 16
  [(0, bytesOf 8 w0 ++ bytesOf 8 w1 ++ bytesOf 8 w2 ++ bytesOf 8 w3 ++ bytesOf 8 w4),
    (0x40, queue.flatMap fun e => bytesOf 8 (e.off % 2 ^ 21 + e.count % 2 ^ 9 * 2 ^ 21))]
  ++ (if me && cur.isSome then [(0x140, r.nest.toList.flatMap fun w => bytesOf 8 w.toNat)] else [])

/-- The bits of a nest-table entry that are not reserved (R184). -/
def nestBits : Word := 0x0003FFFFFFFFFFFF#64

/-- A sequencer from an edited block; what the block does not say of the record in issue stays as it was kept. -/
def Seq.ofBlock (q : Seq) (ag : Agent) (t : Tile) (get : Nat → Nat → Nat) : Seq :=
  let w0 := get 0 8
  let w2 := get 0x10 8
  let w3 := get 0x18 8
  let w4 := get 0x20 8
  let n := w4 / 2 ^ 16 % 64
  let queue : List Seg := (List.range n).map fun i =>
    { off := get (0x40 + 8 * i) 8 % 2 ^ 21, count := get (0x40 + 8 * i) 8 / 2 ^ 21 % 2 ^ 9 }
  let idx := match queue with
    | e :: _ => e.count - w0 / 2 ^ 21 % 2 ^ 9
    | [] => 0
  let off := w0 % 2 ^ 21
  let loops : List OpenLoop := (List.range (w3 / 2 ^ 48 % 4)).map fun j =>
    { first := w3 / 2 ^ (8 * j) % 256, trips := w3 / 2 ^ (16 + 16 * j) % 2 ^ 16, index := w2 / 2 ^ (16 * j) % 2 ^ 16 }
  let word := BitVec.ofNat 512 (t.active.bytes.value off 64)
  let kept := match q.aside with
    | some a => a.2.2.1
    | none => q.cur
  let base : Option Running := match kept with
    | some r => if r.off = off then some r else none
    | none => none
  let cur : Option Running :=
    if w0.testBit 30 then none
    else
      let r : Option Running := match base with
        | some r => some r
        | none => match decodeRecord ag word with
          | .ok i => some { off, word, instr := i }
          | _ => none
      r.map fun r =>
        { r with
          l0 := get 8 2, l1 := get 10 2, l2 := get 12 2, l3 := get 14 2, waited := w4.testBit 0
          valid := r.valid.map fun _ => w2 / 2 ^ 32 % 2 ^ 16
          nest := if ag = .me then Vector.ofFn fun j => wordOf (get (0x140 + 8 * j.val) 8) &&& nestBits else r.nest }
  let gap := if ag = .le ∨ ag = .se then w2 / 2 ^ 48 % 256 else q.gap
  let stg := BitVec.ofNat 8 (w2 / 2 ^ 56)
  match q.aside with
  | some _ => { q with aside := some (queue, idx, cur, loops), gap, stg }
  | none => { q with queue, idx, cur, loops, gap, stg }

/-! ### The stop record (R230, R231) -/

/-- The captured results of a tile by their parts of the frame. -/
structure Captures where
  cc1 : List Latch
  cc2 : List Latch
  ve  : List Latch
  me  : List Latch
  deriving DecidableEq, Repr

/-- The register entries of a bank with their latches, in increasing r and in the order of issue (R446). -/
def bankRows (ls : List Latch) : List (Latch × List Byte) :=
  (sortBy Latch.r (ls.filter fun l => !l.internal)).flatMap fun l => l.ccEntries.map fun e => (l, e)

/-- The register entries of a bank. -/
def bankEntries (ls : List Latch) : List (List Byte) := (bankRows ls).map (·.2)

/-- The captured results of an engine, in increasing r and in the order of issue (R446). -/
def Tile.latchesOf (t : Tile) (ag : Agent) : List Latch := sortBy Latch.r (t.engLatches.filter fun l => decide (l.agent = ag))

/-- The vector entries of a tile. -/
def Tile.veImages (t : Tile) : List Image :=
  (t.latchesOf .ve).flatMap fun l => if l.framed t then l.veEntries t else l.storeEntry.toList

/-- A latch that carries nothing but a post. -/
def Latch.bare (l : Latch) : Bool := l.effects.isEmpty && l.sample.isNone

/-- Whether the last row still due of a step, latch x of these, carries in the frame the post that latch m makes (R205,
R219). A step with MV below 128 has no row 127: its last row below MV carries the post, with that row's r, and where no
row is left the post stands in no entry. DESIGN CHOICE (log 96). -/
def Latch.hosts (ls : List Latch) (x m : Latch) : Bool :=
  m.bare && m.post.isSome && !x.bare && decide (x.agent = m.agent) && decide (x.issued = m.issued) && x.post.isNone
    && decide ((ls.filter fun l => !l.bare && decide (l.agent = m.agent) && decide (l.issued = m.issued)).getLast? = some x)

/-- The accumulators after the writes of a captured result. -/
def Tile.afterLatch (t : Tile) (l : Latch) : Tile :=
  (l.foreseen t).foldl (fun u e => match e with
    | .accRow .. | .accStep .. | .accClear _ | .accMul .. => t.apply u e
    | _ => u) t

/-- The matrix entries of captured results, each with the sums of those before it in its row (R205); `all` are those among
which a step's post finds its row. -/
def Tile.meImagesOf (t : Tile) (all : List Latch) : List Latch → List Image
  | [] => []
  | l :: more =>
    (if l.framed t then
      ({ l with post := l.post <|> (all.find? fun m => Latch.hosts all l m).bind (·.post) } : Latch).meEntries t
    else []) ++ (t.afterLatch l).meImagesOf all more

/-- The matrix entries of a tile. -/
def Tile.meImages (t : Tile) : List Image := t.meImagesOf (t.latchesOf .me) (t.latchesOf .me)

/-- The vector entries of one latch, each with the captured store that it describes, if it is one. -/
def Tile.veHomes (t : Tile) (l : Latch) : List (Option Latch) :=
  if l.framed t then (l.veEntries t).map fun _ => none else l.storeEntry.toList.map fun _ => some l

/-- A captured store with the offset, the post, the data and the mask that its edited entry holds. -/
def Latch.editedStore (l : Latch) (v : Nat) : Latch :=
  let get (off n : Nat) : Nat := v / 2 ^ (8 * off) % 2 ^ (8 * n)
  let take (a : List Effect × Nat) (e : Effect) : List Effect × Nat :=
    let bytes (n : Nat) : List Byte := bytesOf n (get (256 + a.2) n)
    match e with
    | .sp off bs => (a.1 ++ [.sp off (bytes bs.length)], a.2 + bs.length)
    | .spBits off _ _ =>
      (a.1 ++ [.spBits off (vecOf (bytes 512)) (laneMask l.ew (BitVec.ofNat 1024 (get 64 128)) (a.2 * 8 / l.ew) 1)], a.2 + 512)
    | e => (a.1 ++ [e], a.2)
  { l with r := get 2 1, post := (semOfCode (BitVec.ofNat 8 (get 3 1))).map (fun k => { k })
           effects := (l.effects.foldl take ([], 0)).1 }

/-- Images of equal size laid one after another. -/
def stack (size : Nat) (ims : List Image) : Image := ims.zipIdx.flatMap fun x => Image.at x.1 (size * x.2)

/-- The latch bank of handlers at depth k in 384 bytes, and its internal-write latch. -/
def bankImage (ls : List Latch) : Image := stack 16 ((bankEntries ls).map fun e => [(0, e)])

/-- The internal-write latch of a bank. -/
def internalImage (ls : List Latch) : Image := ((ls.find? Latch.internal).map fun l => [(0, l.internalBytes)]).getD []

/-- COUNTS of the header. -/
def State.frameCounts (s : State) (d : DieIx) (t : TileIx) : Nat :=
  let x := s.tileAt d t
  min 31 (bankEntries x.bank1).length + min 31 (bankEntries x.bank2).length * 2 ^ 8 + min 31 x.veImages.length * 2 ^ 16
    + min 511 x.meImages.length * 2 ^ 32 + min 8191 (s.arrivals d t x.cc.ctxid).length * 2 ^ 48

/-- The remaining budget of a task at a cut: BUDGET less the cycles counted since its base (R51, R231). -/
def Tile.budgetLeft (t : Tile) : Nat :=
  match t.task with
  | some k => k.budget.toNat - (t.cc.tcyc - k.base).toNat
  | none => 0

/-- The remaining limit of the wfe that the stop interrupted, 0 for none: of the code below every handler while there is
one, else of the code that was running. -/
def Tile.wfeLeft (t : Tile) : Nat := ((t.stopWfe <|> t.cc.wfeBack).getD 0) % 2 ^ 32

/-- The header (R231). -/
def State.frameHeader (s : State) (d : DieIx) (t : TileIx) (reason : Nat) (level : Level) (pc fpc fidx : Word) : Image :=
  let x := s.tileAt d t
  let c := x.cc
  let ws : List Nat :=
    [1 + reason * 2 ^ 8, pc.toNat, level.bit + c.ctxid.toNat * 2 ^ 16,
      (c.trap.tstat ||| (if x.ipnd then 4 else 0)).toNat, c.trap.tcause.toNat, c.trap.tval.toNat, c.trap.tepc.toNat,
      c.trap.tvec.toNat, c.tcyc.toNat, c.tscr.toNat, c.fpctl.toNat, c.srseed.toNat, fpc.toNat, fidx.toNat,
      x.budgetLeft % 2 ^ 32 + x.wfeLeft * 2 ^ 32, s.frameCounts d t]
  [(0, ws.flatMap fun w => bytesOf 8 w)]

/-- The entries of the pending arrivals. -/
def State.arrivalEntries (s : State) (d : DieIx) (t : TileIx) (c : BitVec 16) (slots : SlotTable) : List FrameEntry :=
  let places := s.staging d t c slots
  let place (r : Req) : Option Nat := (places.find? fun p => decide (p.1 = r.id)).bind fun p => p.2.head?.map (·.1)
  (s.arrivals d t c).zipIdx.map fun r => { req := r.1.id, off := 0xD0000 + 16 * r.2, bytes := r.1.arrivalBytes (place r.1) }

/-- The entries of the captured requests of a context's task on a tile: pending arrivals and sub-queue entries. -/
def State.requestEntries (s : State) (d : DieIx) (t : TileIx) (c : BitVec 16) (slots : SlotTable) : List FrameEntry :=
  s.arrivalEntries d t c slots ++ s.subEntries d t c .le ++ s.subEntries d t c .se

/-- The stop record as the tile writes it now, where software may edit it. -/
def State.recordNow (s : State) (d : DieIx) (t : TileIx) : WrittenRecord :=
  let x := s.tileAt d t
  { entries := s.requestEntries d t x.cc.ctxid x.slots, ve := stack 4096 x.veImages, me := stack 1024 x.meImages
    counts := s.frameCounts d t }

/-- The four sequencer blocks, from offset 0x400 of the slot on. -/
def Tile.seqImage (t : Tile) : Image :=
  stack 0x400 [(nth t.seqs 0).block false, (nth t.seqs 1).block true, (nth t.seqs 2).block false, (nth t.seqs 3).block false]

/-- The parts of the stop record behind the header and the sequencer blocks, with their offsets and sizes. -/
def State.recordParts (s : State) (d : DieIx) (t : TileIx) : List (Nat × Nat × Image) :=
  let x := s.tileAt d t
  let w := s.recordNow d t
  [(0x1400, 384, bankImage x.bank1), (0x1580, 384, bankImage x.bank2), (0x1700, 64, internalImage x.bank1),
    (0x1740, 64, internalImage x.bank2), (0x80000, 0x10000, w.ve), (0x90000, 0x40000, w.me),
    (0xD0000, 0x20000, entryImage 0xD0000 w.entries)]

/-- The tile writes its stop record into its frame slot (R219, R230). -/
def State.writeStopRecord (s : State) (d : DieIx) (t : TileIx) (e : CtxEntry) (header : Image) : State :=
  let base := e.frame t
  let parts := (0, 256, header) :: (0x400, 0x1000, (s.tileAt d t).seqImage) :: s.recordParts d t
  if e.frameOk then
    (s.modTile d t fun x => { x with record := s.recordNow d t }).modDie d fun x =>
      parts.foldl (fun y p => y.putImage (base + p.1) p.2.1 p.2.2) x
  else s

/-! ### The rest of the slot (R230) -/

/-- Eight-byte words. -/
def wordBytes (ws : List Word) : List Byte := ws.flatMap fun w => bytesOf 8 w.toNat

/-- The word of mstat (R204). -/
def MatrixState.word (m : MatrixState) : Nat :=
  m.act.val + (nth m.planes 0).desc.toNat * 2 ^ 8 + (nth m.planes 1).desc.toNat * 2 ^ 32

/-- The state byte of a stream register: entries reserved and written, and the head (R230). -/
def Stream.word (x : Stream) : Nat :=
  let cells := (List.range x.used).map fun i => (nth x.entries (Fin.ofNat 4 (x.head.val + i))).st
  (cells.filter fun c => decide (c = .reserved)).length + (cells.filter fun c => decide (c = .written)).length * 8
    + x.head.val * 64

/-- A stream register from its state byte: written entries first, from the head on. -/
def Stream.ofWord (x : Stream) (v : Nat) : Stream :=
  let reserved := v % 8
  let written := v / 8 % 8
  let head : Fin 4 := Fin.ofNat 4 (v / 64)
  let st (j : Fin 4) : EntryState :=
    let i := (j.val + 4 - head.val) % 4
    if i < written then .written else if i < written + reserved then .reserved else .free
  { entries := Vector.ofFn fun j => { nth x.entries j with st := st j }, head, used := min 4 (written + reserved) }

/-- A plane in 33,792 bytes. -/
def Plane.image (p : Plane) (off : Nat) : Image :=
  (p.rows.toList.zipIdx.map fun r => (off + 256 * r.2, bytesOf 256 r.1.toNat)) ++
    [(off + 0x8000, vecBytes p.scales), (off + 0x8200, bytesOf 3 p.desc.toNat)]

/-- The part of the slot that only a swap-out writes. -/
def Tile.restImage (t : Tile) : Image :=
  let c := t.cc
  [(0x100, wordBytes ((List.finRange 32).map c.readX)), (0x200, wordBytes c.b.toList), (0x220, wordBytes c.g.toList),
    (0x2A0, c.n.toList.flatMap fun v => bytesOf 2 v.toNat),
    (0x2A8, t.sems.toList.flatMap fun k => bytesOf 2 (k.count.toNat + k.ceil.toNat * 256)),
    (0x2C8, wordBytes t.me.pending.toList), (0x2F8, wordBytes t.me.active.toList), (0x328, bytesOf 8 t.me.word),
    (0x330, t.streams.toList.flatMap fun x => bytesOf 8 x.word)]

/-- Its large parts. -/
def Tile.bulkImage (t : Tile) : Image :=
  (t.ve.v.toList.zipIdx.map fun v => (0x2000 + 512 * v.2, vecBytes v.1))
  ++ (t.ve.q.toList.zipIdx.map fun q => (0x6000 + 128 * q.2, bytesOf 128 q.1.toNat))
  ++ (t.streams.toList.zipIdx.flatMap fun x => x.1.entries.toList.zipIdx.map fun e =>
      (0x8000 + 2048 * x.2 + 512 * e.2, vecBytes e.1.data))
  ++ (nth t.me.planes 0).image 0xC000 ++ (nth t.me.planes 1).image 0x14400
  ++ (t.me.acc.toList.zipIdx.flatMap fun a => a.1.toList.zipIdx.map fun r =>
      (0x20000 + 0x10000 * a.2 + 512 * r.2, vecBytes r.1))

/-- The silo as part of an image: its cells as they are. -/
def siloCells (silo : Mem) (base : Nat) : Mem := silo.map fun c => (base + c.1, c.2)

/-- A die whose range of DRAM is replaced by cells of that range. -/
def Die.putCells (x : Die) (base n : Nat) (m : Mem) : Die :=
  let inside (k : Nat) : Bool := decide (base / 32 ≤ k) && decide (k < (base + n) / 32)
  { x with
    dram := x.dram.splice base n m
    slices := x.slices.map fun c => if inside c.sector then c.cleaned else c
    poison := x.poison.filter fun k => !inside k, flaws := x.flaws.filter fun k => !inside k }

/-- The rest of the slot is written, the stop record standing; the touched-dies mask goes to tile 0's slot (R208). -/
def State.writeRest (s : State) (d : DieIx) (t : TileIx) (e : CtxEntry) (touched : BitVec 4096) : State :=
  let base := e.frame t
  let x := s.tileAt d t
  if !e.frameOk then s
  else s.modDie d fun y =>
    let y := y.putImage (base + 0x100) 0x300 (x.restImage.map fun p => (p.1 - 0x100, p.2))
    let y := y.putImage (base + 0x1780) 2176 []
    let y := y.putImage (base + 0x2000) 0x5E000 (x.bulkImage.map fun p => (p.1 - 0x2000, p.2))
    let y := y.putCells (base + 0x60000) 0x20000 (siloCells (s.stagedSilo d t x.cc.ctxid x.slots x.silo) (base + 0x60000))
    y.putImage (base + 0xF0000) 0x10000 (if t = 0 then [(0xFE00, bytesOf 512 touched.toNat)] else [])

/-- Whether some of n bytes of DRAM lie in a poisoned sector (R250). -/
def Die.poisonWithin (x : Die) (l n : Nat) : Bool :=
  x.poison.any fun k => decide (sectorOf l ≤ k) && decide (k * 32 < l + n)

/-- The reason that a frame slot holds (R231). -/
def Die.frameReason (x : Die) (base : Nat) : Nat := x.dram.value base 8 / 2 ^ 8 % 16

/-- A slot that a swap-in may restore: format version 1 and reason 1. -/
def Die.frameValid (x : Die) (base : Nat) : Bool := decide (x.dram.value base 8 % 256 = 1) && decide (x.frameReason base = 1)

/-! ### Reading back (R215, R220, R235) -/

/-- What the bytes of a part yield: what was kept when they are unchanged, else what they say. -/
def Die.reload {α : Type} (x : Die) (base n : Nat) (im : Image) (kept : α) (parsed : (Nat → Nat → Nat) → α) : α :=
  if x.holdsImage base n im then kept else parsed fun off k => x.dram.value (base + off) k

/-- The device reads n bytes of a frame slot: errors in one symbol are corrected and counted (R250). -/
def Die.readFrame (x : Die) (base n : Nat) : Die :=
  (x.flaws.filter fun k => decide (sectorOf base ≤ k) && decide (k * 32 < base + n)).foldl (fun y k => y.fill k) x

/-- The device reads n bytes of a frame area of die d. -/
def State.frameRead (s : State) (d : DieIx) (base n : Nat) : State := s.modDie d fun x => x.readFrame base n

/-- The stop record of a slot: offsets and sizes of its parts. -/
def recordRanges : List (Nat × Nat) := [(0, 0x100), (0x400, 0x1380), (0x80000, 0x70000)]

/-- The failure of reading a tile's stop record back: a sector of it is poisoned (R250). -/
def State.recordPoison (s : State) (d : DieIx) (t : TileIx) (e : CtxEntry) : Option Failed :=
  let x := s.dieAt d
  let hit (k : Nat) : Bool := recordRanges.any fun p =>
    decide (sectorOf (e.frame t + p.1) ≤ k) && decide (k * 32 < e.frame t + p.1 + p.2)
  if e.frameOk then (x.poison.find? hit).map x.poisonFault else none

/-- What reading a stop record back gives: the tile, the requests of the package, and what software has added to the frame. -/
structure StopParts where
  tile     : Tile
  reqs     : List Req
  arrivals : List Nat
  items    : List (Agent × BitVec 512)
  deriving DecidableEq, Repr

/-- The parts of a tile's stop record as the frame of context entry e holds them (R215): latch banks with their internal
writes, the engine latches, pending arrivals, sub-queue images, sequencer blocks, and the limit of a wfe. -/
def State.stopParts (s : State) (d : DieIx) (t : TileIx) (e : CtxEntry) (bank2 : Bool) : StopParts :=
  let base := e.frame t
  let y := s.dieAt d
  let x := s.tileAt d t
  let w := x.record
  let counts := y.dram.value (base + 0x78) 8
  let same (at_ n : Nat) : Bool := decide (counts / 2 ^ at_ % 2 ^ n = w.counts / 2 ^ at_ % 2 ^ n)
  let bank (off ioff at_ : Nat) (kept : List Latch) : List Latch :=
    let rows := bankRows kept
    let below (i : Nat) : Bool := ((rows[i]?).map fun p => p.1.below).getD false
    let regs := if same at_ 5 && y.holdsImage (base + off) 384 (bankImage kept) then kept.filter fun l => !l.internal
      else (List.range (counts / 2 ^ at_ % 32)).map fun i =>
        { ccEntryLatch (y.dram.value (base + off + 16 * i) 16) with below := below i }
    let inner := y.reload (base + ioff) 64 (internalImage kept) (kept.filter Latch.internal) fun get =>
      internalLatch (BitVec.ofNat 512 (get 0 64))
    regs ++ inner
  let ves := x.latchesOf .ve
  let mes := x.latchesOf .me
  let ew := ((ves.find? fun l => l.framed x && !l.bare).map (·.ew)).getD 32
  let homes := ves.flatMap x.veHomes
  let ve := if same 16 5 && y.holdsImage (base + 0x80000) 0x10000 w.ve then ves
    else (ves.filter fun l => (x.veHomes l).isEmpty) ++ (List.range (counts / 2 ^ 16 % 32)).flatMap fun i =>
      let v := y.dram.value (base + 0x80000 + 4096 * i) 4096
      match homes[i]? with
      | some (some l) => [l.editedStore v]
      | _ => veEntryLatch ew v
  let me := if same 32 9 && y.holdsImage (base + 0x90000) 0x40000 w.me then mes
    else (mes.filter fun m => if m.bare then !mes.any fun l => Latch.hosts mes l m else !m.framed x)
      ++ (List.range (counts / 2 ^ 32 % 512)).flatMap fun i => meEntryLatch (y.dram.value (base + 0x90000 + 1024 * i) 1024)
  let unframed := x.engLatches.filter fun l => !(decide (l.agent = .ve) || decide (l.agent = .me))
  let seq (i : Fin 4) (ag : Agent) (off : Nat) : Seq :=
    let q := nth x.seqs i
    y.reload (base + off) 0x400 (q.block (ag = .me)) q fun get => q.ofBlock ag x get
  let entry (r : Req) (lo hi : Nat) : Option FrameEntry :=
    w.entries.find? fun e => decide (e.req = r.id) && decide (lo ≤ e.off) && decide (e.off < hi)
  let written (lo hi : Nat) : Nat := (w.entries.filter fun e => decide (lo ≤ e.off) && decide (e.off < hi)).length
  let pending := counts / 2 ^ 48 % 8192
  let rem := y.dram.value (base + 0x74) 4
  let x1 : Tile := { x with
    bank1 := bank 0x1400 0x1700 0 x.bank1
    bank2 := if bank2 then bank 0x1580 0x1740 8 x.bank2 else x.bank2
    engLatches := ve ++ me ++ unframed
    seqs := Vector.ofFn fun i => match i with
      | 0 => seq 0 .ve 0x400
      | 1 => seq 1 .me 0x800
      | 2 => seq 2 .le 0xC00
      | _ => seq 3 .se 0x1000
    cc := { x.cc with wfeBack := x.stopWfe.map fun _ => rem } }
  let reqs := s.reqs.filterMap fun r =>
    if !s.isCaptured d t r then some r
    else
      let arrived := match entry r 0xD0000 0xE0000 with
        | none => some r
        | some a =>
          if pending ≤ (a.off - 0xD0000) / 16 then none
          else y.reload (base + a.off) 16 [(0, a.bytes)] (some r) fun get => some (r.edited (valueOf a.bytes) (get 0 16))
      match r.kind, entry r 0xE0000 0xF0000 with
      | .copy _, some a =>
        let r1 := arrived.getD r
        y.reload (base + a.off) 64 [(0, a.bytes)] (some r1) fun get =>
          match r1.kind with
          | .copy i => s.rereadItem d t r1 i (BitVec.ofNat 512 (valueOf a.bytes)) (BitVec.ofNat 512 (get 0 64))
          | _ => some r1
      | .copy _, none => some (arrived.getD r)
      | _, _ => arrived
  let items := [Agent.le, .se].flatMap fun ag => [0, 1, 2].flatMap fun cls =>
    let lo := subBase ag + 0x800 * cls
    ((List.range 32).drop (written lo (lo + 0x800))).map fun j => (ag, BitVec.ofNat 512 (y.dram.value (base + lo + 64 * j) 64))
  { tile := x1, reqs, items
    arrivals := ((List.range pending).drop (written 0xD0000 0xE0000)).map fun j => y.dram.value (base + 0xD0000 + 16 * j) 16 }

/-- A tile and its captured requests take their stop record back (R215). -/
def State.reloadRecord (s : State) (d : DieIx) (t : TileIx) (e : CtxEntry) (bank2 : Bool) : State :=
  if !e.frameOk then s
  else
    let s := s.modDie d fun y => recordRanges.foldl (fun y p => y.readFrame (e.frame t + p.1) p.2) y
    let p := s.stopParts d t e bank2
    ({ s with reqs := p.reqs }.setTile d t p.tile).addedEntries d t p.arrivals p.items

/-- The bits of TSTAT that are held: not reserved, and not IPND (R210). -/
def tstatBits : Word := 0x0000FFFF00FF0139#64

/-- The bits of a code address that are not always 0 (R115, R211). -/
def addrBits : Word := 0x00FFFFFFFFFFFFF0#64

/-- The rest of the slot is read back into a tile, with the header's registers; reserved bits that software has set are
dropped (R6, R231, R235). Of the two copies of a plane's descriptor the one in the ME word counts. DESIGN CHOICE
(log 95). -/
def Die.readRest (x : Die) (base : Nat) (t : Tile) (kept : Vector Stream 8) (halt : Bool) : Tile :=
  let w (off : Nat) : Word := wordOf (x.dram.value (base + off) 8)
  let vec (off : Nat) : Vec := BitVec.ofNat 4096 (x.dram.value (base + off) 512)
  let plane (off : Nat) : Plane :=
    { rows := Vector.ofFn fun k => BitVec.ofNat 2048 (x.dram.value (base + off + 256 * k.val) 256)
      scales := vec (off + 0x8000) }
  let mst := x.dram.value (base + 0x328) 8
  let stream (i : Fin 8) : Stream :=
    let k := nth kept i
    let v := x.dram.value (base + 0x330 + 8 * i.val) 8
    let y := if k.word = v then k else Stream.ofWord k v
    { y with entries := Vector.ofFn fun j => { nth y.entries j with data := vec (0x8000 + 2048 * i.val + 512 * j.val) }
             popped := false, claimed := false }
  let rem := x.dram.value (base + 0x74) 4
  { t with
    cc := { t.cc with
      x := Vector.ofFn fun i => w (0x100 + 8 * i.val), b := Vector.ofFn fun i => w (0x200 + 8 * i.val)
      g := Vector.ofFn fun i => w (0x220 + 8 * i.val)
      n := Vector.ofFn fun i => BitVec.ofNat 16 (x.dram.value (base + 0x2A0 + 2 * i.val) 2)
      pc := w 0x08 &&& addrBits, level := Level.ofBit ((w 0x10).getLsbD 0), tcyc := w 0x40, tscr := w 0x48
      fpctl := fpctlWritten (w 0x50), srseed := w 0x58
      trap := { tstat := w 0x18 &&& tstatBits, tcause := w 0x20 &&& 0xFFFF#64, tval := w 0x28, tepc := w 0x30 &&& addrBits
                tvec := w 0x38 &&& addrBits }
      wfeBack := if halt && t.stopWfe.isSome then t.cc.wfeBack else t.cc.wfeBack.map fun _ => rem }
    ve := { v := Vector.ofFn fun i => vec (0x2000 + 512 * i.val)
            q := Vector.ofFn fun i => BitVec.ofNat 1024 (x.dram.value (base + 0x6000 + 128 * i.val) 128) }
    sems := Vector.ofFn fun i =>
      { count := BitVec.ofNat 8 (x.dram.value (base + 0x2A8 + 2 * i.val) 1)
        ceil := BitVec.ofNat 8 (x.dram.value (base + 0x2A9 + 2 * i.val) 1) }
    me := {
      planes := Vector.ofFn fun p =>
        let y := if p = 0 then plane 0xC000 else plane 0x14400
        { y with desc := BitVec.ofNat 24 (mst / 2 ^ (8 + 24 * p.val)) &&& 0xFFFF1F#24 }
      act := Fin.ofNat 2 (mst % 2)
      acc := Vector.ofFn fun q => Vector.ofFn fun r => vec (0x20000 + 0x10000 * q.val + 512 * r.val)
      pending := Vector.ofFn fun j => w (0x2C8 + 8 * j.val) &&& nestBits
      active := Vector.ofFn fun j => w (0x2F8 + 8 * j.val) &&& nestBits }
    streams := Vector.ofFn stream
    silo := (x.dram.part (base + 0x60000) 0x20000).map fun c => (c.1 - (base + 0x60000), c.2) }

/-! ### Images of bank sets (R228, R235) -/

/-- A bank set's bytes are written to the tile's image area. -/
def State.writeImage (s : State) (d : DieIx) (t : TileIx) (e : CtxEntry) (b : BankSet) : State :=
  let base := e.imageArea t
  if e.frameOk then s.modDie d fun x => x.putCells base 0x200000 (b.bytes.map fun c => (base + c.1, c.2)) else s

/-- The bank set that the image area holds, with an empty tag table (R245). -/
def Die.readImage (x : Die) (e : CtxEntry) (t : TileIx) (owner : BitVec 16) : BankSet :=
  let base := e.imageArea t
  { bytes := (x.dram.part base 0x200000).map fun c => (c.1 - base, c.2), tags := [], owner }

end Sys2Proof.Machine
end

