-- ==== Sys2Proof/Machine/Graph.lean ====
section
/-!
DEFINITION. Graphs and records at the dispatcher (R35 to R48, R59, R320 to R324): the device's own reads and writes of
records, readiness and placement, retirement with its successors, error tokens, stalls, freezes, and the superstep
barrier's count of participants (R61, R402 to R404).
-/
namespace Sys2Proof.Machine

/-! ### The device's own accesses under a context (R36, R40, R308) -/

/-- The device as a requester for context q of die d: at system level, of no tile. -/
def State.deviceWho (s : State) (d : DieIx) (q : Fin 16) : Who :=
  let e := (s.ctxAt d q).entry
  { tile := 0, die := (s.dieAt d).id, level := .system, ctxid := e.ctxid, asid := e.asid }

/-- The checks of a device access; a private page belongs to a tile (R259). -/
def State.deviceCheck (s : State) (d : DieIx) (q : Fin 16) (a : Access) (va : Word) : State × Checked :=
  match s.fullCheck d (s.deviceWho d q) a va with
  | (s1, .ok x) => (s1, if ptePriv x.leaf then .fail 0x0021 va else .ok x)
  | f => f

/-- The runs of n bytes at va that lie in one 64 KiB granule each. -/
def granules (va : Word) (n : Nat) : List (Word × Nat) :=
  let o := va.toNat % 65536
  (List.range ((o + n + 65535) / 65536)).map fun k =>
    let lo := max (65536 * k) o
    let hi := min (65536 * (k + 1)) (o + n)
    (va + wordOf (lo - o), hi - lo)

/-- A device read within one granule. -/
def State.deviceReadIn (s : State) (d : DieIx) (q : Fin 16) (a : Access) (va : Word) (n : Nat) :
    State × Except (BitVec 16) (List Byte) :=
  match s.deviceCheck d q a va with
  | (s1, .fail c _) => (s1, .error c)
  | (s1, .ok x) =>
    if s1.awaits then (s1, .ok (List.replicate n 0))
    else
      match s1.placeRead { who := s.deviceWho d q, seg := 0, untracked := true } x va n .read with
      | .ok r => (r.1, .ok r.2)
      | .error f => (s1, .error f.1)

/-- A device read: the bytes, or the cause of the failure. -/
def State.deviceRead (s : State) (d : DieIx) (q : Fin 16) (a : Access) (va : Word) (n : Nat) :
    State × Except (BitVec 16) (List Byte) :=
  if n = 0 then (s, .ok [])
  else (granules va n).foldl (fun acc g =>
    match acc with
    | (s, .error c) => (s, .error c)
    | (s, .ok bs) =>
      let (s1, more) := s.deviceReadIn d q a g.1 g.2
      (s1, more.map fun more => bs ++ more)) (s, .ok [])

/-- A device write within a granule, which waits for no way; none when a check fails (R36). -/
def State.deviceWrite (s : State) (d : DieIx) (q : Fin 16) (va : Word) (bs : List Byte) : Option State :=
  match s.atOnce.deviceCheck d q .write va with
  | (_, .fail _ _) => none
  | (s1, .ok x) =>
    match s1.placeWrite { who := s.deviceWho d q, seg := 0, untracked := true } x va bs .write with
    | .ok s2 => some (s2.rejoin s)
    | .error _ => none

/-! ### Records (R35, R36, R48) -/

/-- Codes of the task states (R48). -/
def TaskState.code : TaskState → Nat
  | .waiting => 0 | .ready => 1 | .placed => 2 | .running => 3 | .done => 4 | .cancelled => 5 | .faulted => 6 | .suspended => 7

/-- Record i of the live graph of queue q. -/
def CtxDie.record (c : CtxDie) (i : Nat) : Option Record := c.live.bind fun g => g.records[i]?

/-- Record i replaced. -/
def CtxDie.setRecord (c : CtxDie) (i : Nat) (r : Record) : CtxDie :=
  { c with live := c.live.map fun g => { g with records := g.records.set i r } }

/-- The virtual address of record i. -/
def CtxDie.recordVa (c : CtxDie) (i : Nat) : Word := ((c.live.map (·.gbase)).getD 0) + wordOf (64 * i)

/-- The STATUS double word (R36). -/
def Record.status (r : Record) : Word :=
  wordOf (r.ranTile.toNat * 2 ^ 52 + r.ranDie.toNat * 2 ^ 40 + r.cause.toNat * 2 ^ 24 + r.wait % 2 ^ 16 * 2 ^ 8 + r.state.code)

/-- A device write into a record; one that fails is reported by WLOST (R36). -/
def State.writeRecord (s : State) (d : DieIx) (q : Fin 16) (i off : Nat) (bs : List Byte) : State :=
  if ((s.ctxAt d q).record i).isNone then s
  else match s.deviceWrite d q ((s.ctxAt d q).recordVa i + wordOf off) bs with
  | some s1 => s1
  | none => s.modCtx d q fun c => { c with gq := { c.gq with wlost := true } }

/-- A record changed, with its STATUS written. -/
def State.changeRecord (s : State) (d : DieIx) (q : Fin 16) (i : Nat) (f : Record → Record) : State :=
  match (s.ctxAt d q).record i with
  | none => s
  | some r =>
    let r1 := f r
    (s.modCtx d q fun c => c.setRecord i r1).writeRecord d q i 56 (bytesOf 8 r1.status.toNat)

/-- The graph queue freezes (R323). -/
def State.freezeQueue (s : State) (d : DieIx) (q : Fin 16) (cause : BitVec 16) (i : Nat) : State :=
  s.modCtx d q fun c =>
    { c with gq := if c.gq.frz then c.gq else { c.gq with frz := true, cause, ridx := BitVec.ofNat 20 i } }

/-- The successor list of a record (R37, R41). -/
def State.successors (s : State) (d : DieIx) (q : Fin 16) (i : Nat) : State × Except (BitVec 16) (List Nat) :=
  match (s.ctxAt d q).record i with
  | none => (s, .ok [])
  | some r =>
    if r.nsucc = 0 then (s, .ok [])
    else
      let (s1, bs) := s.deviceRead d q .read (r.succ &&& 0x00FFFFFFFFFFFFFF#64) (4 * r.nsucc)
      (s1, bs.map fun bs => (List.range r.nsucc).map fun k => valueOf ((bs.drop (4 * k)).take 4))

/-! ### Participants (R61, R402 to R404) -/

/-- The IDs of a die list, in rising order. -/
def listedIds (m : BitVec 4096) : List (BitVec 12) :=
  ((List.range 4096).filter fun j => m.getLsbD j).map fun j => BitVec.ofNat 12 j

/-- The live dies of the partition of die d, in rising order of ID. -/
def State.partition (s : State) (d : DieIx) : List DieIx :=
  (listedIds (s.dieAt d).plist).filterMap fun id => (s.findDie id).filter fun h => s.live h

/-- Whether a die ID is listed in the partition of die d. -/
def State.inPartition (s : State) (d : DieIx) (id : BitVec 12) : Bool := (s.dieAt d).plist.getLsbD id.toNat

/-- The ID of the barrier home that a die knows: that of the lowest ID in its partition list, or the one chosen since the
loss of that die (R402, R403). -/
def Die.barrierId (x : Die) : Option (BitVec 12) := x.homeId <|> (listedIds x.plist).head?

/-- The barrier home that die d knows; none while it is lost. -/
def State.barrierHome (s : State) (d : DieIx) : Option DieIx :=
  match (s.dieAt d).barrierId with
  | some id => (s.findDie id).filter fun h => s.live h
  | none => none

/-- Every die of the partition on which a context is present, with its queue index there. -/
def State.presences (s : State) (d : DieIx) (ctxid : BitVec 16) : List (DieIx × Fin 16) :=
  (s.partition d).filterMap fun h => ((s.dieAt h).findCtx ctxid).map fun q => (h, q)

/-- Every die and queue index at which a context is present. -/
def State.everywhere (s : State) (ctxid : BitVec 16) : List (DieIx × Fin 16) :=
  (List.finRange 8).filterMap fun h => ((s.dieAt h).findCtx ctxid).map fun q => (h, q)

/-- Contributions that still wait at the firing are discarded and reported to their tiles (R368). -/
def State.dropContributions (s : State) (d : DieIx) (q : Fin 16) : State :=
  (s.ctxAt d q).red.foldl (fun s x => x.2.waiting.foldl (fun s w =>
    match s.findReq w.2.2.2 with
    | some r => s.scheduleFault r d x.1
    | none => s) s) s

/-- A firing on one die of the context: SSNUM rises, pending tables become active (R368), and start signals leave for the
participant tiles; that of a participant which has been stopped after its arrival awaits its return. -/
def State.fireOn (s : State) (d : DieIx) (q : Fin 16) : State :=
  let ctxid := (s.ctxAt d q).entry.ctxid
  let idle (x : Nat × RedSlot) : Nat × RedSlot := (x.1, { x.2 with waiting := [] })
  let tell (x : Tile) : Tile :=
    if decide (x.cc.ctxid = ctxid) && x.task.any (fun k => k.ssp) && x.super.isSome then { x with signal := true } else x
  ((s.dropContributions d q).modCtx d q fun c =>
    { c with
      entry := { c.entry with ssnum := c.entry.ssnum + 1 }
      slots := c.slotsNew.getD c.slots, slotsNew := none
      red := c.redNew.getD (c.red.map idle), redNew := none, ssnews := true
      parked := c.parked.map fun y => if y.2.task.ssp && y.2.super.isSome then (y.1, { y.2 with signal := true }) else y
      live := c.live.map fun g => { g with records := g.records.map fun r =>
        { r with arrived := r.counted } } }).modDie d fun x => { x with tiles := x.tiles.map tell }

/-- The superstep barrier of a context fires (R61, R404), on every die, and arrivals start from the completed count. -/
def State.fireBarrier (s : State) (home : DieIx) (hq : Fin 16) : State :=
  let s1 := (s.presences home (s.ctxAt home hq).entry.ctxid).foldl (fun s p => s.fireOn p.1 p.2) s
  s1.modCtx home hq fun c => { c with ssarr := c.ssdone }

/-- The barrier fires when every participant has arrived; once all of them have completed no superstep is left that it could
end, as R451 counts the firings. DEDUCED (log 98). -/
def State.fireIfFull (s : State) (home : DieIx) (hq : Fin 16) : State :=
  let c := s.ctxAt home hq
  if c.ssarr = c.entry.sspart ∧ c.ssdone ≠ c.entry.sspart then s.fireBarrier home hq else s

/-- A participant completes: it counts as arrived, once for this superstep, and for every later one (R61, R404). -/
def State.participantDone (s : State) (d : DieIx) (q : Fin 16) (i : Nat) : State :=
  match (s.ctxAt d q).record i with
  | none => s
  | some r =>
    if !r.ssp then s
    else
      match s.barrierHome d with
      | none => s
      | some home =>
        match (s.dieAt home).findCtx (s.ctxAt d q).entry.ctxid with
        | none => s
        | some hq =>
          let s1 := s.modCtx d q fun c => c.setRecord i { r with arrived := true, counted := true }
          let s2 := s1.modCtx home hq fun c =>
            { c with ssdone := c.ssdone + 1, ssarr := if r.arrived then c.ssarr else c.ssarr + 1 }
          s2.fireIfFull home hq

/-- A record reaches a state from which its graph no longer waits for it. -/
def State.endRecord (s : State) (d : DieIx) (q : Fin 16) (i : Nat) (st : TaskState) (cause : BitVec 16) : State :=
  (s.changeRecord d q i fun r => { r with state := st, cause }).participantDone d q i

/-! ### Cancellation and faults (R323, R324) -/

/-- The successors of one record that are WAITING are cancelled, and are the next to be visited. -/
def State.tokenStep (s : State) (d : DieIx) (q : Fin 16) (i : Nat) : State × List Nat :=
  match s.successors d q i with
  | (s, .error _) => (s, [])
  | (s, .ok js) =>
    js.foldl (fun (a : State × List Nat) j =>
      if ((a.1.ctxAt d q).record j).any fun r => decide (r.state = .waiting) then
        (a.1.endRecord d q j .cancelled 0x0035, a.2 ++ [j])
      else a) (s, [])

/-- The error token's walk, breadth first (R324). -/
def State.tokenWalk (s : State) (d : DieIx) (q : Fin 16) : Nat → List Nat → State
  | 0, _ => s
  | _, [] => s
  | n + 1, i :: todo =>
    let (s1, more) := s.tokenStep d q i
    s1.tokenWalk d q n (todo ++ more)

/-- The number of records of a live graph. -/
def State.graphSize (s : State) (d : DieIx) (q : Fin 16) : Nat := ((s.ctxAt d q).live.map fun g => g.records.length).getD 0

/-- The error token spreads from a record. -/
def State.errorToken (s : State) (d : DieIx) (q : Fin 16) (i : Nat) : State := s.tokenWalk d q (s.graphSize d q + 1) [i]

/-- The tile without its preload; the shadow bank set is free (R240, R327). -/
def Tile.dropPreload (x : Tile) : Tile :=
  { x.setShadow { x.shadow with owner := 0 } with preload := none, lineBuf := none }

/-- A chain preload, on whatever die, whose record no longer waits for it is discarded (R327), unless the record is on its
way to the preload's tile (R326). -/
def State.dropChains (s : State) (d : DieIx) (q : Fin 16) : State :=
  let stale (x : Tile) : Bool := x.preload.any fun p =>
    p.chain && decide (p.task.home = d) && decide (p.task.q = q)
      && !(((s.ctxAt d q).record p.task.index).any fun r => decide (r.state = .waiting))
  let comes (h : DieIx) (t : TileIx) (x : Tile) : Bool := x.preload.any fun p =>
    (((s.dieAt h).findCtx p.task.ctxid).map fun hq => (s.ctxAt h hq).forwarded).any fun l => l.any fun y =>
      decide (y.1 = t) && decide (y.2.task.home = d) && decide (y.2.task.q = q) && decide (y.2.task.index = p.task.index)
  let gone := (List.finRange 8).flatMap fun h =>
    ((List.finRange 64).filter fun t => stale (s.tileAt h t) && !comes h t (s.tileAt h t)).map fun t => (h, t)
  gone.foldl (fun s p => s.modTile p.1 p.2 Tile.dropPreload) s

/-- A record ends FAULTED: the queue freezes and the error token spreads, unless the record could not be read (R40). -/
def State.faultRecord (s : State) (d : DieIx) (q : Fin 16) (i : Nat) (cause : BitVec 16) (quiet : Bool := false) : State :=
  let s1 := (s.endRecord d q i .faulted cause).freezeQueue d q cause i
  if quiet then s1 else (s1.errorToken d q i).dropChains d q

/-! ### Readiness and placement (R38, R39, R46) -/

/-- A record's bytes. -/
def State.recordBytes (s : State) (d : DieIx) (q : Fin 16) (i : Nat) : State × Except (BitVec 16) (BitVec 512) :=
  let (s1, bs) := s.deviceRead d q .read ((s.ctxAt d q).recordVa i) 64
  (s1, bs.map fun bs => BitVec.ofNat 512 (valueOf bs))

/-- The task that a record's fields describe (R35). -/
def CtxDie.taskOf (c : CtxDie) (d : DieIx) (q : Fin 16) (i : Nat) (w : BitVec 512) : Task :=
  let flags := BitVec.ofNat 16 (field w 42 2)
  { home := d, q, index := i, ctxid := c.entry.ctxid, record := c.recordVa i, entry := wordOf (field w 0 8)
    image := wordOf (field w 8 8), imglen := BitVec.ofNat 16 (field w 36 2), arg := wordOf (field w 24 8)
    budget := BitVec.ofNat 32 (field w 32 4), ssp := flags.getLsbD 1, ovp := flags.getLsbD 2, aff := wordOf (field w 16 8), flags }

/-- Whether a record fails a check of R39; its counts and its SUCC are those that the device keeps (R38). DESIGN CHOICE
(log 78): nonzero SUCC bits [1:0], which R35 wants zero, count as reserved bits of SUCC. -/
def State.badRecord (s : State) (d : DieIx) (w : BitVec 512) (r : Record) : Bool :=
  let flags := field w 42 2
  let pmode := flags.testBit 0
  let aff := field w 16 8
  decide (2 ^ 56 ≤ field w 0 8) || decide (2 ^ 56 ≤ field w 8 8) || decide (2 ^ 3 ≤ flags)
    || (if pmode then decide (2 ^ 18 ≤ aff) else decide (2 ^ 56 ≤ aff))
    || (decide (r.nsucc ≠ 0) && (decide (2 ^ 56 ≤ r.succ.toNat) || decide (r.succ.toNat % 4 ≠ 0)))
    || decide (field w 0 8 % 16 ≠ 0) || decide (field w 8 8 % 64 ≠ 0) || decide (field w 32 4 = 0)
    || decide (32768 < field w 36 2)
    || (pmode && !s.inPartition d (BitVec.ofNat 12 aff))
    || (flags.testBit 1 && decide (r.npred ≠ 0))

/-- The tile near a DRAM address (R16, R27, R46). -/
def nearTile (l : Nat) : TileIx :=
  let c := (l / 2 ^ 16 % 32) ^^^ (l / 2 ^ 21 % 32)
  Fin.ofNat 64 (8 * (c / 4) + 2 * (c % 4) + l / 2 ^ 15 % 2)

/-- Where a record is placed: the ID of the die and the tile, or the cause that prevents it (R46, R418). -/
def State.placement (s : State) (d : DieIx) (q : Fin 16) (k : Task) : Except (BitVec 16) (BitVec 12 × TileIx) :=
  let present (id : BitVec 12) (t : TileIx) : Except (BitVec 16) (BitVec 12 × TileIx) :=
    match s.findDie id with
    | some h => if s.live h ∧ ((s.dieAt h).findCtx k.ctxid).isSome then .ok (id, t) else .error 0x0033
    | none => if s.isAway id then .ok (id, t) else .error 0x0033
  if k.flags.getLsbD 0 then present (k.aff.setWidth 12) (Fin.ofNat 64 (k.aff.toNat / 2 ^ 12))
  else
    let aff := k.aff &&& 0x00FFFFFFFFFFFFFF#64
    match (s.dieAt d).walkAsid (s.ctxAt d q).entry.asid aff with
    | .fault c _ => .error c
    | .leaf e size =>
      let home := (s.dieAt d).homeOf (s.ctxAt d q).entry.asid e aff
      let l := leafLocal e aff size
      if pteLost e then .error 0x0025
      else if !pteR e || ptePriv e then .error 0x0021
      else if !s.inPartition d home then .error 0x0033
      else if !s.isLive home && !s.isAway home then .error 0x0023
      else if region l = .reserved then .error 0x0024
      else present home (nearTile l)

/-- The walk that a placement makes (R46, R249). -/
def State.searched (s : State) (d : DieIx) (q : Fin 16) (k : Task) : State :=
  if k.flags.getLsbD 0 then s else s.walked d (s.ctxAt d q).entry.asid (k.aff &&& 0x00FFFFFFFFFFFFFF#64)

/-- Whether a tile may take tasks of a context: none while it keeps a SUSPENDED one, but for that one's own resume (R422). -/
def State.suspendedOn (s : State) (d : DieIx) (t : TileIx) (ctxid : BitVec 16) : Bool :=
  (s.everywhere ctxid).any fun p => (s.ctxAt p.1 p.2).live.any fun g => g.records.any fun r =>
    decide (r.state = .suspended) && decide (r.die = (s.dieAt d).id) && decide (r.tile.toNat = t.val)

/-- The next task of a context on a tile: its oldest placed record (R47, R422). -/
def State.nextOf (s : State) (d : DieIx) (t : TileIx) (q : Fin 16) : Option Placed :=
  let c := (s.ctxAt d q).entry
  match (s.tileAt d t).placed.find? fun p => decide (p.task.ctxid = c.ctxid) with
  | some p => if p.resume || !s.suspendedOn d t c.ctxid then some p else none
  | none => none

/-- The candidates of a tile's draw: contexts in service on the die with a record that the tile may take (R325). -/
def State.candidates (s : State) (d : DieIx) (t : TileIx) : List (Fin 16) :=
  (List.finRange 16).filter fun q =>
    let c := s.ctxAt d q
    decide (c.entry.state = 1) && !c.precmd && (s.nextOf d t q).isSome

/-- The generator of the lottery (R325). -/
def lotteryNext (x : BitVec 32) : BitVec 32 :=
  let x := x ^^^ (x <<< 13)
  let x := x ^^^ (x >>> 17)
  x ^^^ (x <<< 5)

/-- The winner among candidates with tickets. -/
def lotteryWinner : List (Fin 16 × Nat) → Nat → Option (Fin 16)
  | [], _ => none
  | (q, n) :: more, v => if v < n then some q else lotteryWinner more (v - n)

/-- The ticket count of a context in the lottery (R34). -/
def CtxDie.ticketCount (c : CtxDie) : Nat := (c.oldTickets.getD c.entry.tickets).toNat

/-- The seed of a context in the lottery (R34). -/
def CtxDie.seed (c : CtxDie) : BitVec 32 := c.oldSeed.getD c.entry.lotseed

/-- The seed after a draw. -/
def CtxDie.withSeed (c : CtxDie) (x : BitVec 32) : CtxDie :=
  if c.oldSeed.isSome then { c with oldSeed := some x } else { c with entry := { c.entry with lotseed := x } }

/-- At a tile-task boundary of a die its contexts take the ticket counts and seeds that have been written (R34). -/
def State.takeEntries (s : State) (d : DieIx) : State :=
  s.modDie d fun x => { x with ctxs := x.ctxs.map fun c => { c with oldTickets := none, oldSeed := none } }

/-- The draw of a tile (R325); without candidates none is made. -/
def State.drawFor (s : State) (d : DieIx) (t : TileIx) : State :=
  match s.candidates d t with
  | [] => s.modTile d t fun x => { x with drawn := none }
  | c0 :: more =>
    let tickets := (c0 :: more).map fun q => (q, (s.ctxAt d q).ticketCount)
    let x := lotteryNext (s.ctxAt d c0).seed
    let total := (tickets.map (·.2)).sum
    let s1 := s.modCtx d c0 fun c => c.withSeed x
    s1.modTile d t fun y => { y with drawn := lotteryWinner tickets (x.toNat % max total 1) }

/-- A record takes its place in a tile's order; `first` puts it ahead of its context's others (R47, R422, R423). -/
def Tile.place (x : Tile) (p : Placed) (first : Bool) : Tile :=
  { x with placed := if first then
      let (a, b) := x.placed.span fun y => decide (y.task.ctxid ≠ p.task.ctxid)
      a ++ p :: b
    else x.placed ++ [p] }

/-- A record reaches its tile (R46). A tile without a draw makes one (R325). -/
def State.enterTile (s : State) (d : DieIx) (t : TileIx) (p : Placed) (first : Bool := false) : State :=
  let s1 := s.modTile d t fun x => x.place p first
  let x := s1.tileAt d t
  if x.drawn.isNone && x.preload.isNone then s1.drawFor d t else s1

/-- The record that a chain preload was made for becomes PLACED on its tile: the preload is kept when the new reading
agrees with it, and made again when it does not (R326). -/
def State.keepChain (s : State) (d : DieIx) (t : TileIx) (p : Placed) : Option State :=
  let x := s.tileAt d t
  match x.preload with
  | some y =>
    if y.chain ∧ y.task.home = p.task.home ∧ y.task.q = p.task.q ∧ y.task.index = p.task.index then
      if y.task.entry = p.task.entry ∧ y.task.image = p.task.image ∧ y.task.imglen = p.task.imglen ∧ y.task.aff = p.task.aff
          ∧ y.task.flags = p.task.flags then
        some (s.setTile d t { x with preload := some p })
      else
        let q := (s.dieAt d).findCtx p.task.ctxid
        some (s.setTile d t { x.dropPreload.place p true with drawn := q })
    else none
  | none => none

/-- A record is placed (R46): on a tile of this die at once, else forwarded; what becomes of one that leaves the package is
not known here. The die is touched (R208). A participant waits for its gang (R60). -/
def State.placeRecord (s : State) (d : DieIx) (q : Fin 16) (i : Nat) (k : Task) (id : BitVec 12) (t : TileIx) : State :=
  let s1 := s.changeRecord d q i fun r =>
    { r with state := .placed, die := id, tile := BitVec.ofNat 6 t.val, task := some k, ssp := k.ssp }
  let s2 := s1.touch d k.ctxid id
  if k.ssp then s2
  else
    match s2.findDie id with
    | none => s2
    | some h =>
      if h = d then (s2.keepChain d t { task := k }).getD (s2.enterTile d t { task := k })
      else
        match (s2.dieAt h).findCtx k.ctxid with
        | some hq => s2.modCtx h hq fun c => { c with forwarded := c.forwarded ++ [(t, { task := k })] }
        | none => s2

/-- A record becomes READY: it is read, checked and placed; the fields read are those of any later run (R38, R39, R40, R46,
R52). -/
def State.makeReady (s : State) (d : DieIx) (q : Fin 16) (i : Nat) : State :=
  let s0 := s.changeRecord d q i fun r => { r with state := .ready, wait := 0 }
  match s0.recordBytes d q i with
  | (s1, .error c) => (s1.faultRecord d q i c true).dropChains d q
  | (s1, .ok w) =>
    let s1 := s1.modCtx d q fun c => { c with live := c.live.map fun g =>
      { g with records := g.records.modify i fun r => { r with task := some (c.taskOf d q i w) } } }
    if s1.badRecord d w (((s1.ctxAt d q).record i).getD {}) then (s1.faultRecord d q i 0x0030)
    else
      let k := (s1.ctxAt d q).taskOf d q i w
      let s1 := s1.searched d q k
      match s1.placement d q k with
      | .error c => s1.faultRecord d q i c
      | .ok (id, t) => s1.placeRecord d q i k id t

/-! ### Stalls and completion (R43, R433) -/

/-- A live graph without records that can still move has its WAITING records cancelled (R43). -/
def State.stallGraph (s : State) (d : DieIx) (q : Fin 16) : State :=
  match (s.ctxAt d q).live with
  | none => s
  | some g =>
    let waiting := (List.range g.records.length).filter fun i => (g.records[i]?).any fun r => decide (r.state = .waiting)
    let busy := g.records.any fun r => [TaskState.ready, .placed, .running, .suspended].contains r.state
    match waiting with
    | [] => s
    | i0 :: _ =>
      if busy then s
      else (waiting.foldl (fun s i => s.endRecord d q i .cancelled 0x0032) s).freezeQueue d q 0x0032 i0

/-- Something that the package sends out; what goes to the host makes a packet on the Oshel link (R432, log 102). -/
def State.report (s : State) (r : Report) : State :=
  { s with io := { s.io with reports := s.io.reports ++ [r], oshelOut := if r.toHost then s.io.oshelOut + 1 else s.io.oshelOut } }

/-- A graph all of whose records have ended completes: LIVE clears, the completion word is written and the host is
interrupted (R43, R322, R433). -/
def State.completeGraph (s : State) (d : DieIx) (q : Fin 16) : State :=
  match (s.ctxAt d q).live with
  | none => s
  | some g =>
    if g.records.all fun r => [TaskState.done, .cancelled, .faulted].contains r.state then
      let s1 := s.modCtx d q fun c => { c with live := none, graphs := c.graphs + 1 }
      let c := s1.ctxAt d q
      let s2 := if c.caddr = 0 then s1 else { s1.overOshel d with host := s1.host.write c.caddr.toNat (bytesOf 8 c.graphs.toNat) }
      s2.report (.hostInterrupt (16 * d.val + q.val))
    else s

/-- What follows every change of a record's state. -/
def State.settleGraph (s : State) (d : DieIx) (q : Fin 16) : State := (s.stallGraph d q).completeGraph d q

/-! ### Retirement (R41, R50) -/

/-- One edge of a retiring record (R41). `i` is the retiring record. -/
def State.releaseEdge (s : State) (d : DieIx) (q : Fin 16) (i j : Nat) : State :=
  match (s.ctxAt d q).record j with
  | none =>
    (s.changeRecord d q i fun r => { r with state := .faulted, cause := 0x0031 }).freezeQueue d q 0x0031 i
  | some r =>
    if r.wait = 0 then
      let s1 := s.freezeQueue d q 0x0031 j
      if r.state = .ready ∨ r.state = .placed then
        let forget (p : Placed) : Bool := decide (p.task.home = d) && decide (p.task.q = q) && decide (p.task.index = j)
        let s2 := match s1.findDie r.die with
          | none => s1
          | some h =>
            let t : TileIx := Fin.ofNat 64 r.tile.toNat
            let x := s1.tileAt h t
            let lost := x.preload.any forget
            let y := if lost then { x.dropPreload with drawn := none } else x
            let s2 := s1.setTile h t { y with placed := y.placed.filter fun p => !forget p }
            match (s2.dieAt h).findCtx (s2.ctxAt d q).entry.ctxid with
            | none => s2
            | some hq => s2.modCtx h hq fun c => { c with forwarded := c.forwarded.filter fun p => !forget p.2 }
        s2.faultRecord d q j 0x0031
      else s1
    else if r.wait = 1 ∧ r.state = .waiting then s.makeReady d q j
    else if r.state = .waiting then s.changeRecord d q j fun r => { r with wait := r.wait - 1 }
    else s.modCtx d q fun c => c.setRecord j { r with wait := r.wait - 1 }

/-- A record retires DONE: USED and STATE are written, and its successors are released in list order (R41, R50). A
dispatcher that is lost sees nothing (R415). -/
def State.retireDone (s : State) (d : DieIx) (q : Fin 16) (i : Nat) (used : Nat) : State :=
  if !s.live d then s else
  let s1 := s.writeRecord d q i 44 (bytesOf 4 (min used 0xFFFFFFFF))
  let s2 := s1.changeRecord d q i fun r => { r with state := .done, cause := 0 }
  match s2.successors d q i with
  | (s2, .error c) => ((s2.faultRecord d q i c true).dropChains d q).settleGraph d q
  | (s2, .ok js) =>
    let s3 := js.foldl (fun s j => s.releaseEdge d q i j) s2
    let s4 := if ((s3.ctxAt d q).record i).any fun r => decide (r.state = .faulted) then s3.errorToken d q i else s3
    ((s4.participantDone d q i).dropChains d q).settleGraph d q

/-- A record that ran ends FAULTED, with USED (R50, R213). -/
def State.retireFaulted (s : State) (d : DieIx) (q : Fin 16) (i : Nat) (used : Nat) (cause : BitVec 16) : State :=
  if !s.live d then s else ((s.writeRecord d q i 44 (bytesOf 4 (min used 0xFFFFFFFF))).faultRecord d q i cause).settleGraph d q

/-! ### Submission (R40, R59, R320 to R322) -/

/-- Submission of a queue entry (R321). -/
def State.submit (s : State) (d : DieIx) (q : Fin 16) (v : BitVec 128) : State :=
  let count := (v.extractLsb' 64 21).toNat
  let reserved := decide (v &&& 0xFFFFFFFFFFE00000FF0000000000003F#128 ≠ 0)
  s.modCtx d q fun c =>
    if reserved || decide (count = 0) || decide (1048576 < count) || decide (16 ≤ c.queue.length) then
      { c with gq := { c.gq with err := true } }
    else { c with queue := c.queue ++ [v] }

/-- What the dispatcher reads of record i at submission, its second 32 bytes: the record, or the cause with no edges, and
whether it is a participant (R40, R59). -/
def State.submitted (s : State) (d : DieIx) (q : Fin 16) (i : Nat) : State × Record × Option (BitVec 16) :=
  match s.deviceRead d q .read ((s.ctxAt d q).recordVa i + 32) 32 with
  | (s1, .error c) => (s1, { state := .ready }, some c)
  | (s1, .ok bs) =>
    let w : BitVec 512 := BitVec.ofNat 512 (valueOf bs * 2 ^ 256)
    let n := field w 38 2
    (s1, { state := if n = 0 then .ready else .waiting, wait := n, npred := n, nsucc := field w 40 2,
           succ := wordOf (field w 48 8), ssp := (field w 42 2).testBit 1 }, none)

/-- Records i to i + n - 1 of a graph, as they are read at submission. -/
def State.submittedFrom (s : State) (d : DieIx) (q : Fin 16) (i : Nat) : Nat → State × List (Record × Option (BitVec 16))
  | 0 => (s, [])
  | n + 1 =>
    let (s1, r) := s.submitted d q i
    let (s2, more) := s1.submittedFrom d q (i + 1) n
    (s2, r :: more)

/-- The first participant that breaks a condition of R59, given the tiles of the participants before it. One whose bytes
cannot be read has no placement to fail: it breaks no condition here, and faults when it becomes READY (R40). DESIGN
CHOICE (log 97). -/
def State.gangBreak (s : State) (d : DieIx) (q : Fin 16) :
    List (Nat × Record) → List (BitVec 12 × TileIx) → State × Option Nat
  | [], _ => (s, none)
  | (i, r) :: more, seen =>
    if r.npred ≠ 0 then (s, some i)
    else
      match s.recordBytes d q i with
      | (s1, .error _) => s1.gangBreak d q more seen
      | (s1, .ok w) =>
        let k := (s1.ctxAt d q).taskOf d q i w
        let s1 := s1.searched d q k
        if k.flags.getLsbD 0 && !s1.inPartition d (k.aff.setWidth 12) then (s1, some i)
        else
          match s1.placement d q k with
          | .error _ => (s1, some i)
          | .ok at_ => if seen.contains at_ then (s1, some i) else s1.gangBreak d q more (at_ :: seen)

/-- A gang begins: where all participants of the context's last gang have completed, the barrier home counts from 0. DESIGN
CHOICE (log 98): the rules give no reset of the counts between two gangs. -/
def State.freshGang (s : State) (d : DieIx) (q : Fin 16) : State :=
  match s.barrierHome d with
  | none => s
  | some home =>
    match (s.dieAt home).findCtx (s.ctxAt d q).entry.ctxid with
    | none => s
    | some hq => s.modCtx home hq fun c => if c.ssdone = c.entry.sspart then { c with ssarr := 0, ssdone := 0 } else c

/-- The head entry is taken and its graph submitted (R322, R40, R59). -/
def State.takeGraph (s : State) (d : DieIx) (q : Fin 16) (v : BitVec 128) (rest : List (BitVec 128)) : State :=
  let gbase := (v.extractLsb' 0 64) &&& 0x00FFFFFFFFFFFFC0#64
  let count := (v.extractLsb' 64 21).toNat
  let (s0, read) := (s.modCtx d q fun c => { c with queue := rest, live := some { gbase, records := [] } }).submittedFrom d q 0 count
  let parts := read.zipIdx.filterMap fun x => if x.1.1.ssp then some (x.2, x.1.1) else none
  let (s0, breaks) := s0.gangBreak d q parts []
  let wrong := parts ≠ [] ∧ (breaks.isSome ∨ parts.length ≠ (s.ctxAt d q).entry.sspart.toNat)
  if wrong then
    (s0.modCtx d q fun c => { c with live := none }).freezeQueue d q 0x0034
      (breaks.getD ((parts.head?.map (·.1)).getD 0))
  else
    let s1 := (if parts = [] then s0 else s0.freshGang d q).modCtx d q fun c =>
      { c with live := some { gbase, records := read.map (·.1), gang := decide (parts ≠ []) } }
    let s2 := (List.range count).foldl (fun s i => s.changeRecord d q i id) s1
    let s3 := read.zipIdx.foldl (fun s x =>
      match x.1.2 with
      | some c => s.faultRecord d q x.2 c true
      | none =>
        if ((s.ctxAt d q).record x.2).any fun r => decide (r.state = .ready) then s.makeReady d q x.2 else s) s2
    s3.settleGraph d q

/-- Whether a context of a die is in service: resident and not halted. -/
def CtxDie.inService (c : CtxDie) : Bool := decide (c.entry.state = 1)

/-- SUBMIT_GRAPH: a write of SUBHI (R420). -/
def execSubmitGraph (d : DieIx) (q : Fin 16) (hi : BitVec 64) (s : State) : Out :=
  .next (if (s.ctxAt d q).entry.state = 0 ∨ !s.live d then s else s.submit d q (hi ++ (s.ctxAt d q).sublo))

/-- Whether a doorbell page belongs to a resident context of a live die (R433). -/
def State.pageInUse (s : State) (d : DieIx) (q : Fin 16) : Bool :=
  let st := (s.ctxAt d q).entry.state
  s.live d && (decide (st = 1) || decide (st = 3))

/-- A packet of the host for a die has passed the Oshel link and the die's I/O link (R17, R350, R432, log 102). -/
def State.fromHost (s : State) (d : DieIx) : State :=
  let s1 := s.hostPacket d
  { s1 with io := { s1.io with oshelIn := s1.io.oshelIn + 1 } }

/-- DOORBELL_SUBMIT: a write of a doorbell page's SUBMIT reaches its die through the I/O port (R17, R433). -/
def execDoorbellSubmit (d : DieIx) (q : Fin 16) (entry : BitVec 128) (s : State) : Out :=
  if (nth (s.dieAt d).ports 7).open_ then
    .next (let s1 := s.fromHost d; if s.pageInUse d q then s1.submit d q entry else s1)
  else .fault .notEnabled

/-- GRAPH_TAKE (R322). -/
def execGraphTake (d : DieIx) (q : Fin 16) (s : State) : Out :=
  let c := s.ctxAt d q
  match c.queue with
  | v :: rest =>
    if s.live d && c.inService && c.live.isNone && !c.gq.frz then settled (s.takeGraph d q v rest) else .fault .notEnabled
  | [] => .fault .notEnabled

/-- RECORD_FORWARD: the record forwarded in this place of the die's list enters its tile's order, or takes the chain
preload that was made for it (R46, R326). -/
def execRecordForward (d : DieIx) (q : Fin 16) (record : Nat) (s : State) : Out :=
  match (s.ctxAt d q).forwarded[record]? with
  | none => .fault .notEnabled
  | some (t, p) =>
    let s1 := s.modCtx d q fun c => { c with forwarded := c.forwarded.eraseIdx record }
    if s.linkedTo p.task.home (s.dieAt d).id && !s.lost d then .next ((s1.keepChain d t p).getD (s1.enterTile d t p)) else .fault .notEnabled

/-- GQSTAT (R321). -/
def CtxDie.gqstat (c : CtxDie) : Word :=
  wordOf (c.live.isSome.toNat + c.gq.frz.toNat * 2 + c.gq.err.toNat * 4 + c.gq.wlost.toNat * 8 + c.queue.length * 2 ^ 8
    + c.gq.ridx.toNat * 2 ^ 16 + c.gq.cause.toNat * 2 ^ 36)

/-- Writing 1 clears WLOST, ERR and FRZ of GQSTAT. -/
def CtxDie.clearGq (c : CtxDie) (v : Word) : CtxDie :=
  { c with gq := { c.gq with
      wlost := c.gq.wlost && !v.getLsbD 3, err := c.gq.err && !v.getLsbD 2, frz := c.gq.frz && !v.getLsbD 1 } }

/-- GQSTAT_WRITE (R321, R323). -/
def execGqstatWrite (d : DieIx) (q : Fin 16) (word : BitVec 64) (s : State) : Out := s.atDie d (s.modCtx d q fun c => c.clearGq word)

/-- Whether the links from the barrier home that a die knows carry traffic. -/
def State.homeLinked (s : State) (d : DieIx) : Bool := (s.barrierHome d).all fun h => s.linkedTo h (s.dieAt d).id

/-- Whether the barrier home of a die's partition lies in another package, which alone knows when the barrier fires (R1). -/
def State.homeAway (s : State) (d : DieIx) : Bool := (s.barrierHome d).isNone && (s.dieAt d).barrierId.any s.isAway

/-- Whether participants of a context wait on a die for a firing, and none of its participants there is yet to arrive. -/
def State.expecting (s : State) (d : DieIx) (q : Fin 16) : Bool :=
  let c := s.ctxAt d q
  let here := ((s.dieAt d).tiles.toList.filter fun x =>
      decide (x.cc.ctxid = c.entry.ctxid) && x.task.any fun k => k.ssp).map fun x => (x.super, x.signal)
  let all := here ++ (c.parked.filter fun y => y.2.task.ssp).map fun y => (y.2.super, y.2.signal)
  !all.isEmpty && all.all fun x => x.1.any (fun p => !p.started) && !x.2

/-- SSNUM_UPDATE: the firing reaches a die, and its tiles without participants take the new SSNUM (R402). That of a home in
another package is known by it alone; it comes once no participant of this die is yet to arrive. DESIGN CHOICE (log 70). -/
def execSsnumUpdate (d : DieIx) (q : Fin 16) (s : State) : Out :=
  let s := if s.homeAway d && s.expecting d q then s.fireOn d q else s
  let c := s.ctxAt d q
  if c.ssnews && s.homeLinked d && !s.lost d then
    .next (s.modDie d fun x =>
      { x with
        ctxs := upd x.ctxs q { nth x.ctxs q with ssnews := false }
        tiles := x.tiles.map fun t =>
          if t.cc.ctxid = c.entry.ctxid ∧ t.task.isSome ∧ !(t.task.any fun k => k.ssp) then
            { t with cc := { t.cc with ssnum := c.entry.ssnum } }
          else t })
  else .fault .notEnabled

end Sys2Proof.Machine
end

