-- ==== Sys2Proof/Machine/Retire.lean ====
section
/-!
DEFINITION. The end of a task on its tile (R50, R213, R228, R305, R327, R352): the tile is left without a task, what its
requests still do, and the record's retirement.
-/
namespace Sys2Proof.Machine

/-- The tile without a task; its bank sets, silo and slot table stay until the next start. Remote writes that waited for
the end of its cycle are made. -/
def Tile.cleared (x : Tile) : Tile :=
  let x := x.remote.foldl (fun u c => u.winWrite c.1 c.2) x
  { x with
    mode := .idle, task := none, stop := none, cutAt := 0, stopWfe := none, cutLeft := {}, record := {}, faultAt := none, innerWfe := none, super := none, signal := false, preempt := none
    irq := none, dieLost := [], lossHeld := false, streams := Vector.replicate 8 {}, seqs := Vector.replicate 4 {}, flight := [], bank1 := []
    bank2 := [], engLatches := [], inject := [], stalled := none, refused := [], icache := [], fetch := [], fetchBad := []
    failedRuns := [], phase := .start, undo := [], undoNext := [], wroteX := [], remote := [], heldOpen := false, closing := false, posted := false, tileFence := []
    cc := { x.cc with mode := .ready, wfeBack := none } }

/-- Nothing more of a task's requests comes back to its tile: each still runs to its end where it is (R50, R352). -/
def State.orphanTask (s : State) (d : DieIx) (t : TileIx) (ctxid : BitVec 16) : State :=
  { s with reqs := s.reqs.filterMap fun r =>
      if r.of d t && decide (r.ctxid = ctxid) then
        (if r.stage = .landed ∨ r.stage = .retired then none else some { r with orphan := true, captured := none, post := none })
      else some r }

/-- Whether a request has not been sent: it is still at its tile, or in an egress queue that has not sent it (R352). -/
def State.unsent (s : State) (r : Req) : Bool :=
  match r.stage with
  | .issued => true
  | .fabric d hops => decide (d = r.die) && decide (hops = 0) && !r.back
  | .egress d p _ => (nth (s.dieAt d).ports p).egress.any fun g => decide (g.req = r.id) && g.sent.isNone
  | _ => false

/-- Unsent requests, with their egress entries, are dropped (R352). -/
def State.dropUnsent (s : State) (mine : Req → Bool) : State :=
  let gone := (s.reqs.filter fun r => mine r && s.unsent r).map (·.id)
  if gone = [] then s
  else
    let port (p : Port) : Port := { p with egress := p.egress.filter fun g => !(gone.contains g.req && g.sent.isNone) }
    { s with reqs := s.reqs.filter fun r => !gone.contains r.id
             dies := s.dies.map fun x => { x with ports := x.ports.map port } }

/-- Requests of a killed context's tasks that no tile runs any more: an unsent one is dropped, the others are drained and
their responses discarded; what waits in a table that the kill has emptied waits no more (R352). -/
def State.killRequests (s : State) (d : DieIx) (ctxid : BitVec 16) : State :=
  let runs (r : Req) : Bool :=
    let x := s.tileAt r.die r.tile
    decide (x.mode ≠ .idle) && x.task.isSome && decide (x.cc.ctxid = ctxid)
  let hit (r : Req) : Bool := decide (r.ctxid = ctxid) && (s.partition d).contains r.die && !runs r
  let s1 := s.dropUnsent hit
  { s1 with reqs := s1.reqs.filterMap fun r =>
      if !hit r then some r
      else if r.stage = .landed ∨ r.stage = .retired ∨ r.stage = .waiting then none
      else some { r with orphan := true, captured := none, post := none } }

/-- A held interrupt whose task ends is discarded (R421). -/
def State.dropIrq (s : State) (d : DieIx) (t : TileIx) : State :=
  if (s.tileAt d t).irq.isSome then s.modDie d fun x => { x with idrop := true } else s

/-- Whether PRECMD still waits for a tile: it runs a task of a context that PRECMD halts (R421). -/
def State.preWaits (s : State) (d : DieIx) (t : TileIx) : Bool :=
  let x := s.tileAt d t
  (decide (x.mode = .running) || decide (x.mode = .ending)) && x.task.isSome &&
    (((s.dieAt d).findCtx x.cc.ctxid).map fun q => (s.ctxAt d q).precmd).getD false

/-- The last PRECMD has finished when no tile of the die is waited for (R421). -/
def State.settlePre (s : State) (d : DieIx) : State :=
  if (s.dieAt d).pbusy && !(List.finRange 64).any (s.preWaits d) then
    s.modDie d fun x => { x with pbusy := false, pdone := true }
  else s

/-- The tile's task leaves it. -/
def State.leaveTile (s : State) (d : DieIx) (t : TileIx) : State :=
  (((s.dropIrq d t).orphanTask d t (s.tileAt d t).cc.ctxid).modTile d t Tile.cleared).settlePre d

/-- One more segment of a tile (R305). -/
def State.closeSegment (s : State) (d : DieIx) (t : TileIx) : State := s.modTile d t fun x => { x with seg := x.seg + 1 }

/-- Tile cycles that a task has used since its budget began (R51). -/
def Tile.used (x : Tile) : Nat :=
  match x.task with
  | some k => (x.cc.tcyc - k.base).toNat
  | none => 0

/-- A task that a trap or its budget ends: its record ends FAULTED (R213, R228). -/
def State.endFaulted (s : State) (d : DieIx) (t : TileIx) (cause : BitVec 16) : State :=
  let x := s.tileAt d t
  match x.task with
  | none => s
  | some k => (s.leaveTile d t).retireFaulted k.home k.q k.index x.used cause

/-- Whether the engines are idle as the `eng` event means it (R140). -/
def State.enginesIdle (s : State) (d : DieIx) (t : TileIx) : Bool :=
  let x := s.tileAt d t
  (x.seqs.toList.all fun q => q.quiet && q.aside.isNone) && (x.flight.all fun r => decide (r.agent = .cc))
    && s.reqs.all fun r => !(r.of d t && r.captured.isNone && decide (r.agent ≠ .cc) && decide (r.stage ≠ .retired))

/-- The conditions of R50 after trap end, the control core's results in flight having been written (R55). What a stop had
captured is dropped by trap end, but each of its requests still has to be performed and acknowledged. -/
def State.taskOver (s : State) (d : DieIx) (t : TileIx) : Bool :=
  s.enginesIdle d t && (s.tileAt d t).flight.isEmpty && s.reqs.all fun r =>
    !(r.of d t && decide (r.ctxid = (s.tileAt d t).cc.ctxid)) || (r.captured.isSome && decide (r.stage = .landed))

/-- TASK_COMPLETE: the record retires DONE, the segment closes, and the record's successors are released (R50, R41). -/
def execTaskComplete (d : DieIx) (t : TileIx) (s : State) : Out :=
  let x := s.tileAt d t
  match x.task with
  | some k =>
    if s.live d ∧ x.mode = .ending ∧ x.phase = .start ∧ x.stop = none ∧ x.refused = [] ∧ s.taskOver d t ∧ !x.segmentsFull then
      settled (((s.leaveTile d t).closeSegment d t).retireDone k.home k.q k.index x.used)
    else .fault .notEnabled
  | none => .fault .notEnabled

end Sys2Proof.Machine
end

