-- ==== Sys2Proof/Machine/Stops.lean ====
section
/-!
DEFINITION. Stops (R217 to R223): the matrix engine's boundary, the capture of what is in flight, entry of a handler at
the cut, the frame, and parking a pre-empted task; the events that trigger a stop (R51, R225, R227 to R229, R395).
-/
namespace Sys2Proof.Machine

/-! ### The cut (R217, R219) -/

/-- The matrix engine stands at an innermost-iteration boundary. -/
def Tile.atBoundary (x : Tile) : Bool := decide ((nth x.seqs 1).gap = 0)

/-- Whether the cut of the tile's stop falls now: before any agent issues in a cycle in which the matrix engine stands at
a boundary. A precise trap that ends the task is found as the control core issues, ahead of the other agents (R213, R217,
R298). -/
def Tile.cutDue (x : Tile) : Bool :=
  match x.stop with
  | some (t0, k) =>
    x.atBoundary && decide (t0 ≤ x.now) &&
      (decide (x.phase = .start) || (decide (x.phase = .ve) && (match k with
        | .ending .. => true
        | _ => false)))
  | none => false

/-- The latch bank that takes the control core's results at a cut: of the handler that the cut enters. -/
def StopKind.bank (k : StopKind) (depth : Nat) : Nat :=
  match k with
  | .ending .. => max 1 depth
  | _ => min (depth + 1) 2

/-- The cycles until the control core issues again. -/
def CcMode.delay : CcMode → Nat
  | .wait n => n
  | .resume n => n
  | .entering n _ _ => n
  | _ => 0

/-- Every result in flight is captured, and so is what waits for a return, with its offset from now (R219, R220). What a
bank holds already when a pre-emption adds to it belongs to the handler below. -/
def Tile.capture (x : Tile) (bank : Nat) (pre : Bool) : Tile :=
  let later := x.inject.map fun l => { l with r := l.r + x.cc.mode.delay }
  let cc := (later.filter fun l => decide (l.agent = .cc)) ++ (x.flight.filter fun f => decide (f.agent = .cc)).flatMap x.ccLatch
  let eng := (later.filter fun l => !decide (l.agent = .cc)) ++ (x.flight.filter fun f => !decide (f.agent = .cc)).map Result.latch
  let x : Tile := { x with flight := [], inject := [], engLatches := x.engLatches ++ sortBy Latch.r eng }
  let held (ls : List Latch) : List Latch := ls.map fun l => { l with below := pre }
  if bank = 1 then { x with bank1 := held x.bank1 ++ sortBy Latch.r cc } else { x with bank2 := held x.bank2 ++ sortBy Latch.r cc }

/-- The requests of the tile that a cut captures. -/
def State.toCapture (s : State) (d : DieIx) (t : TileIx) : List Nat :=
  (s.reqs.filter fun r => r.of d t && r.captured.isNone && decide (r.stage ≠ .retired)).map (·.id)

/-- The requests of the tile are captured with their offsets, and take what they were to sample in the next cycle; what
waited for a return keeps its place. -/
def State.captureReqs (s : State) (d : DieIx) (t : TileIx) : State :=
  let x := s.tileAt d t
  let n := match x.cc.mode with
    | .resume n => n
    | _ => 0
  { s with reqs := s.reqs.map fun r =>
      if s.isCaptured d t r then { r with captured := r.captured.map (· + n) }
      else if r.of d t && r.captured.isNone && decide (r.stage ≠ .retired) then { r.takeOperand x with captured := some (r.due - x.now) }
      else r }

/-- The control core as the cut finds it: a trap entry in progress is made, and a wfe keeps what is left of its limit
(R140, R231). -/
def CcState.settle (c : CcState) (pend : Bool) : CcState × Option Nat :=
  match c.mode with
  | .entering n x tepc => ({ c.enterHandler x tepc pend with mode := .wait n }, none)
  | .wfe w => ({ c with mode := .ready }, some (w.limit.getD 0))
  | .resume n => ({ c with mode := .wait n }, none)
  | _ => (c, none)

/-- TSTAT with HALT. -/
def TrapRegs.setHalt (r : TrapRegs) (v : Bool) : TrapRegs :=
  { r with tstat := if v then r.tstat ||| 8 else r.tstat &&& ~~~8#64 }

/-- TSTAT with PEND. -/
def TrapRegs.setPend (r : TrapRegs) (v : Bool) : TrapRegs :=
  { r with tstat := if v then r.tstat ||| 0x100 else r.tstat &&& ~~~0x100#64 }

/-- The context entry of a tile's context on its die. -/
def State.entryOf (s : State) (d : DieIx) (t : TileIx) : Option (Fin 16) := (s.dieAt d).findCtx (s.tileAt d t).cc.ctxid

/-- The stop record is written where the context has its frame area (R219, R230). -/
def State.stopRecord (s : State) (d : DieIx) (t : TileIx) (reason : Nat) (level : Level) (pc fpc fidx : Word) : State :=
  match s.entryOf d t with
  | some q => s.writeStopRecord d t (s.ctxAt d q).entry (s.frameHeader d t reason level pc fpc fidx)
  | none => s

/-- The slot of a task that a stop ends: its stop record, and the rest of the slot as R444 finds it there. DEDUCED (log
103): R230 has the rest written by a swap-out only. -/
def State.lastRecord (s : State) (d : DieIx) (t : TileIx) (level : Level) (pc fpc fidx : Word) : State :=
  let s1 := s.stopRecord d t 3 level pc fpc fidx
  match s1.entryOf d t with
  | some q => s1.writeRest d t (s1.ctxAt d q).entry (s1.ctxAt d q).touched
  | none => s1

/-- What the cycle before a cut has left for the next one (R221). -/
def Tile.leftOver (x : Tile) : CutEdge :=
  { undo := x.undo.map fun c => (c.1, c.2, x.active.bytes.read c.1), wroteX := x.wroteX, refused := x.refused }

/-- The tile without it. -/
def Tile.seal (x : Tile) : Tile := { x with undo := [], undoNext := [], wroteX := [], refused := [] }

/-- What a cut has kept is there again for the first cycle after the return; a byte changed meanwhile stays as it is. -/
def Tile.takeUp (x : Tile) (e : CutEdge) : Tile :=
  { x with undo := (e.undo.filterMap fun c => if x.active.bytes.read c.1 = c.2.2 then some (c.1, c.2.1) else none) ++ x.undo
           wroteX := e.wroteX ++ x.wroteX, refused := e.refused ++ x.refused }

/-- The trap of a stop ends the task: it has no handler to enter, or none that can run (R213, R214, R228). -/
def Tile.trapEnds (x : Tile) (p : Trap) : Bool :=
  decide (p.kind = .taskEnding) || x.cc.trap.noHandler || decide (x.cc.trap.depth = 2) || decide (x.cc.mode = .ended)

/-- The code with which a trap ends a task. -/
def Tile.endCode (x : Tile) (p : Trap) : BitVec 16 :=
  if decide (p.kind ≠ .taskEnding) && decide (x.cc.trap.depth = 2) then 0x000D else p.code

/-- What is left of a wfe of the first handler is kept when the second one is entered (R140). -/
def Tile.keepInner (x : Tile) : Tile := if x.cc.trap.depth = 1 then { x with innerWfe := x.cc.wfeBack } else x

/-- The cut of a stop that a trap has triggered, everything being captured: entry of the handler at h + 6, or the end of
the task. -/
def State.cutHandler (s : State) (d : DieIx) (t : TileIx) (p : Trap) (level : Level) : State :=
  let x := s.tileAt d t
  let pend := s.pendingFault d t
  let pc := x.cc.pc
  if x.trapEnds p then
    let nested := decide (x.cc.trap.depth = 2) && decide (p.kind ≠ .taskEnding)
    let s1 := s.setTile d t { x with
      cc := { x.cc with trap := x.cc.trap.write p x.cc.level pc pend nested (p.kind ≠ .taskEnding) } }
    (s1.lastRecord d t level pc p.fpc p.fidx).endFaulted d t (x.endCode p)
  else
    let s1 := s.setTile d t { x.keepInner with
      stop := none, cc := { x.cc.enterHandler p pc pend with mode := .wait 6, wfeBack := none } }
    s1.stopRecord d t 2 level pc p.fpc p.fidx

/-- What a parked task keeps beside its frame slot. -/
def State.parkedOf (s : State) (d : DieIx) (t : TileIx) (k : Task) (fresh halt : Bool) (ids : List Nat)
    (last : CutEdge) : Parked :=
  let x := s.tileAt d t
  { bank1 := x.bank1, bank2 := x.bank2, eng := x.engLatches, seqs := x.seqs, streams := x.streams, task := k, super := x.super
    signal := x.signal, failedRuns := x.failedRuns, slots := x.slots, mode := x.cc.mode, wfeBack := x.cc.wfeBack
    ssnum := x.cc.ssnum, tileFence := x.tileFence, cut := x.now, cutAt := x.cutAt, stopWfe := x.stopWfe, last, cutLeft := x.cutLeft
    innerWfe := x.innerWfe, halt, fresh, record := x.record, reqs := ids, irq := x.irq, dieLost := x.dieLost, lossHeld := x.lossHeld }

/-- The parked task of a tile. -/
def CtxDie.parkedAt (c : CtxDie) (t : TileIx) : Option Parked := (c.parked.find? fun p => decide (p.1 = t)).map (·.2)

/-- A task parked on a tile in place of any other. -/
def CtxDie.park (c : CtxDie) (t : TileIx) (p : Parked) : CtxDie :=
  { c with parked := (t, p) :: c.parked.filter fun y => !decide (y.1 = t), usedSlots := c.usedSlots &&& ~~~(1#64 <<< t.val) }

/-- No parked task on a tile: its slot is used up. -/
def CtxDie.unpark (c : CtxDie) (t : TileIx) : CtxDie :=
  { c with parked := c.parked.filter fun y => !decide (y.1 = t), usedSlots := c.usedSlots ||| 1#64 <<< t.val }

/-- A preload is discarded: its record is the next of its context again (R327). -/
def State.discardPreload (s : State) (d : DieIx) (t : TileIx) : State :=
  match (s.tileAt d t).preload with
  | none => s
  | some p => s.modTile d t fun x =>
    let x := { x.dropPreload with drawn := none }
    if p.chain then x else x.place p true

/-- The cut of a pre-emption, everything being captured: the trap entry of a fault recorded in its shadow, the whole slot
with reason 1, and the tile is halted; or, for OVP = 1, the task becomes SUSPENDED and leaves the tile (R223, R225, R228). -/
def State.cutPreempt (s : State) (d : DieIx) (t : TileIx) (q : Fin 16) (k : Task) (fault : Option Trap) (suspend : Bool)
    (level : Level) (halt : Bool) (ids : List Nat) : State :=
  let x := s.tileAt d t
  let last := x.leftOver
  let pc := x.cc.pc
  let entered := match fault with
    | some p => { x.cc.enterHandler p pc (s.pendingFault d t) with mode := CcMode.ready, wfeBack := none }
    | none => x.cc
  let kept := if fault.isSome then x.keepInner else x
  let s1 := s.setTile d t { kept.seal with stop := none, cc := entered }
  let c := s1.ctxAt d q
  let fpc := (fault.map (·.fpc)).getD 0
  let fidx := (fault.map (·.fidx)).getD 0
  let (l, a) := if fault.isSome then (entered.level, entered.pc) else (level, pc)
  let s2 := (s1.stopRecord d t 1 l a fpc fidx).writeRest d t c.entry c.touched
  let p := s2.parkedOf d t k fault.isNone (halt || fault.isSome) ids last
  let s3 := s2.modCtx d q fun c => c.park t p
  if suspend then
    let own := x.preload.any fun y => !y.chain && decide (y.task.ctxid = c.entry.ctxid)
    let s4 := (if own then s3.discardPreload d t else s3).writeImage d t c.entry x.active
    let s5 := s4.modTile d t fun y => (y.setActive { y.active with owner := 0 }).cleared
    s5.changeRecord k.home k.q k.index fun r => { r with state := .suspended }
  else (s3.modTile d t fun y => { y with mode := .halted }).settlePre d

/-- A participant that has ended, and that the present barrier home has counted, counts no longer as completed once it is
run again (R61, R403, R423): its arrivals are counted afresh. -/
def State.uncount (s : State) (k : Task) : State :=
  match (s.ctxAt k.home k.q).record k.index, s.barrierHome k.home with
  | some r, some home =>
    if r.counted then
      match (s.dieAt home).findCtx k.ctxid with
      | some hq =>
        (s.modCtx home hq fun c => { c with ssdone := c.ssdone - 1, ssarr := if r.arrived then c.ssarr - 1 else c.ssarr }).modCtx
          k.home k.q fun c => c.setRecord k.index { r with arrived := false, counted := false }
      | none => s
    else s
  | _, _ => s

/-- A rerun record is PLACED again on its tile, ahead of every other, and is preloaded next (R327, R423). The command of
its die is done. -/
def State.placeAgain (s : State) (d : DieIx) (t : TileIx) (p : Placed) : State :=
  let s1 := s.uncount p.task
  let s1 := s1.changeRecord p.task.home p.task.q p.task.index fun r =>
    { r with state := .placed, cause := 0, task := some p.task, die := (s.dieAt d).id, tile := BitVec.ofNat 6 t.val }
  let again := ((s1.tileAt d t).preload.filter fun y => !y.chain).bind fun y => (s1.dieAt d).findCtx y.task.ctxid
  let s2 := (s1.discardPreload d t).modTile d t fun x =>
    { x.place p true with drawn := (s1.dieAt d).findCtx p.task.ctxid, redraw := again }
  s2.modDie d fun x => { x with tbusy := false, tcode := 0 }

/-- STOP_CUT (R219). -/
def State.cut (s : State) (d : DieIx) (t : TileIx) (kind : StopKind) : State :=
  let x := s.tileAt d t
  let halt := x.cc.trap.halt
  let bank := kind.bank (match x.cc.mode with
    | .entering .. => x.cc.trap.depth + 1
    | _ => x.cc.trap.depth)
  let ids := s.toCapture d t
  let s1 := s.captureReqs d t
  let y := (s1.tileAt d t).capture bank (match kind with
    | .preempt .. => true
    | _ => false)
  let (cc, back) := y.cc.settle (s1.pendingFault d t)
  let level := cc.level
  let stalled (q : Seq) : Seq := { q with stalled := none, held := false }
  let y := { y with
    cc := { cc with trap := cc.trap.setHalt true, wfeBack := back <|> cc.wfeBack }, stalled := none
    seqs := y.seqs.map stalled, cutAt := if halt then y.cutAt else y.now, stopWfe := if halt ∨ cc.trap.depth ≠ 0 then y.stopWfe else back <|> cc.wfeBack }
  let s2 := s1.setTile d t y
  match kind, y.task with
  | .handler p, _ => (s2.setTile d t (if halt then y else { y.seal with cutLeft := y.leftOver })).cutHandler d t p level
  | .ending code fpc fidx, _ =>
    let s3 := s2.modTile d t fun u => { u with cc := { u.cc with trap := u.cc.trap.setPend (s2.pendingFault d t) } }
    (s3.lastRecord d t level y.cc.pc fpc fidx).endFaulted d t code
  | .preempt fault suspend, some k =>
    (match s2.entryOf d t with
      | some q =>
        (match fault.filter fun p => y.trapEnds p with
          | some p => s2.cutHandler d t p level
          | none => s2.cutPreempt d t q k fault suspend level halt ids)
      | none => s2.leaveTile d t)
  | .discard again, _ =>
    let ctxid := y.cc.ctxid
    let s3 := (s2.leaveTile d t).dropUnsent fun r => r.of d t && decide (r.ctxid = ctxid)
    (match again with
      | some p => s3.placeAgain d t p
      | none => s3.killRequests d ctxid)
  | _, none => s2.leaveTile d t

/-- STOP_CUT: the cut of the moving tile's stop. -/
def execStopCut (s : State) : Out :=
  match s.here.stop with
  | some (_, k) => if s.here.cutDue then settled (s.cut s.die s.tile k) else .fault .notEnabled
  | none => .fault .notEnabled

/-! ### Triggers -/

/-- Whether a faulted due cycle may still trigger or replace a stop (R223). -/
def Tile.takesFault (t : Tile) : Bool :=
  match t.stop with
  | none => true
  | some (_, .handler y) => decide (y.kind = .asynchronous)
  | some (_, .preempt none _) => true
  | _ => false

/-- Whether a request of the moving tile is due now. -/
def State.dueNow (s : State) (r : Req) : Bool :=
  r.of s.die s.tile && r.captured.isNone && decide (r.due = s.here.now) && decide (r.stage = .landed)

/-- The faulted requests due now, in the order of R222. -/
def State.dueFaults (s : State) : List Req :=
  sortBy (fun r => 5 - r.agent.rank) (s.reqs.filter fun r => s.dueNow r && r.resp.fault.isSome) |> sortBy (·.issued)

/-- The communication phase of a participant begins: STG is 0, the scheduled segments come into use, SSNUM is the new one
(R62, R346, R407). -/
def Tile.beginPhase (t : Tile) (clen : Nat) : Tile :=
  let go (q : Seq) : Seq :=
    match q.sched with
    | some seg => { q with
        stg := 0, sched := none, phase := some (seg, 0), aside := some (q.queue, q.idx, q.cur, q.loops), queue := [seg], idx := 0
        cur := none, loops := [], stalled := none }
    | none => { q with stg := 0 }
  { t with
    seqs := upd (upd t.seqs 2 (go (nth t.seqs 2))) 3 (go (nth t.seqs 3))
    super := t.super.map fun p => { p with inComm := true, clen }
    cc := { t.cc with ssnum := t.cc.ssnum + 1 } }

/-- The stream entry that an LE item fills is written at its due cycle, with fill bytes when the item has failed (R340). -/
def Tile.receiveEntry (t : Tile) (r : Req) : Tile :=
  match r.resp.stream with
  | some (i, slot, data) =>
    let x := nth t.streams i
    { t with streams := upd t.streams i { x with entries := upd x.entries slot { st := .written, data } } }
  | none => t

/-- A result of a request at its due cycle: its registers are written before this cycle, unless an operation issued later
has written them, and its post is made at the end of the cycle (R30, R56, R70). -/
def Tile.receive (t : Tile) (r : Req) : Tile :=
  let mine := r.resp.x.filter fun x => !t.wroteX.any fun w => decide (w.1 = x.1) && decide (r.issued < w.2)
  let t := { t with cc := mine.foldl (fun (c : CcState) (x : Fin 32 × Word) => c.writeX x.1 x.2) t.cc }
  let t := t.receiveEntry r
  match r.post with
  | some p => t.issue { agent := r.agent, left := 1, issued := r.issued, post := some p, timed := true, fpc := r.fpc, fidx := r.fidx }
  | none => t

/-- A request without fault at its due cycle. -/
def State.receive (s : State) (r : Req) : State :=
  let stages := (nth s.here.seqs 2).stg.toNat + (nth s.here.seqs 3).stg.toNat * 256
  let r := if r.kind = .sstatStg then { r with resp := { r.resp with x := r.d.map fun i => (i, wordOf stages) } } else r
  let s1 := s.modHere fun t => t.receive r
  let s2 := match r.kind with
    | .ssync =>
      s1.modHere fun t => t.beginPhase (((s.hereCtx.map fun (c : CtxDie) => c.slots.clen)).getD 0)
    | _ => s1
  s2.setReq { r with stage := .retired }

/-- The trap of a faulted request. -/
def Req.dueTrap (r : Req) : Trap :=
  let f := r.resp.fault.getD (0, 0)
  { code := f.1, value := f.2, kind := .dueCycle, agent := some r.agent, offs := r.offs, fpc := r.fpc, fidx := r.fidx }

/-- Requests with the one that begins a communication phase last: the others see the stage counters before it (R406). -/
def phaseLast (rs : List Req) : List Req :=
  rs.filter (fun r => decide (r.kind ≠ .ssync)) ++ rs.filter fun r => decide (r.kind = .ssync)

/-- DUE_CYCLE: what is due in the tile's cycle comes about (R30, R222). When a fault among it stops the tile in this very
cycle, everything else is left to the cut. -/
def execDueCycle (s : State) : Out :=
  let due := s.reqs.filter s.dueNow
  if decide (s.here.phase ≠ .start) || due.isEmpty then .fault .notEnabled
  else
    match s.dueFaults with
    | [] => .next ((phaseLast due).foldl State.receive s)
    | f :: others =>
      let takes := s.here.takesFault
      let lost (u : Tile) : Tile := if f.kind = .ssync then { u with super := none } else u.receiveEntry f
      let s1 := if takes then ((s.setReq { f with stage := .retired }).modHere lost).trigger f.dueTrap else s
      if s1.here.cutDue then .next s1
      else
        let waiting := if takes then others else f :: others
        let pending (r : Req) : Req := if waiting.contains r then { r with captured := some 0 } else r
        let s2 : State := { s1 with reqs := s1.reqs.map pending }
        .next ((phaseLast (due.filter fun r => r.resp.fault.isNone)).foldl State.receive s2)

/-- SEMAPHORE_CEILING_TRAP: posts refused at the end of the previous cycle (R395). -/
def execSemaphoreCeilingTrap (s : State) : Out :=
  let t := s.here
  if t.phase ≠ .start ∨ t.refused = [] then .fault .notEnabled
  else
    let tval := ceilingTval (t.refused.map fun p => p.2.1)
    let s1 := s.modHere fun t => { t with refused := [] }
    match t.refused.find? fun p => decide (p.1 ≠ .cc) with
    | some (ag, _, fpc, fidx) =>
      let s2 := s1.modHere fun t => t.setSeq ag { nth t.seqs ag.seqIx with held := true, stalled := none }
      .next (s2.trigger { code := 0x000B, value := tval, kind := .iteration, agent := some ag, fpc, fidx })
    | none =>
      match t.refused with
      | (_, _, fpc, _) :: _ => .next ((s1.modHere fun t => { t with phase := .cc }).preciseTrap 0x000B tval false (some fpc))
      | [] => .fault .notEnabled

/-- BUDGET_OVERRUN (R51, R228). -/
def execBudgetOverrun (s : State) : Out :=
  let t := s.here
  match t.task with
  | some k =>
    let suspends := match t.stop with
      | some (_, .preempt _ sus) => sus
      | _ => false
    if t.phase = .start ∧ t.mode ≠ .halted ∧ k.budget.toNat ≤ t.used ∧ t.takesFault ∧ !suspends then
      .next (s.modHere fun t =>
        { t.rehold with stop := some (((t.stop.map (·.1)).getD t.now), if k.ovp then .preempt none true
            else .handler { code := 0x000C, value := k.budget.setWidth 64, kind := .taskEnding, agent := none
                            level := some t.cc.level }) })
    else .fault .notEnabled
  | none => .fault .notEnabled

/-- A wfe in progress that waits for a request (R140). -/
def CcState.awaitsRequest (c : CcState) : Bool :=
  match c.mode with
  | .wfe w => w.mask.getLsbD 2
  | _ => false

/-- Whether the moving tile may accept a request: none other is in hand (R222, R225, R140). -/
def Tile.accepts (t : Tile) : Bool :=
  decide (t.phase = .start) && decide (t.mode = .running) && t.stop.isNone && !t.cc.awaitsRequest && decide (t.cc.mode ≠ .ended)

/-- PREEMPT_ACCEPT (R225). -/
def execPreemptAccept (s : State) : Out :=
  let t := s.here
  match t.preempt with
  | some sus =>
    if t.accepts then .next (s.modHere fun t => { t with preempt := none, stop := some (t.now, .preempt none sus) })
    else .fault .notEnabled
  | none => .fault .notEnabled

/-- The die-loss trap is taken (R229). -/
def State.acceptDieLoss (s : State) : State :=
  match s.here.dieLost with
  | id :: more => (s.modHere fun t => { t with dieLost := more, lossHeld := false }).trigger
      { code := 0x0041, value := id.setWidth 64, kind := .asynchronous, agent := none }
  | [] => s

/-- INTERRUPT_ACCEPT: in the first cycle at task level (R227). -/
def execInterruptAccept (s : State) : Out :=
  let t := s.here
  let onTask := decide (t.cc.level = .task) && (match t.cc.mode with
    | .ready => true
    | .wfe _ => true
    | _ => false)
  match t.irq with
  | some v =>
    if t.accepts && onTask && t.preempt.isNone && t.dieLost.isEmpty then
      .next ((s.modHere fun t => { t with irq := none }).trigger
        { code := 0x0040, value := v, kind := .asynchronous, agent := none })
    else .fault .notEnabled
  | none => .fault .notEnabled

end Sys2Proof.Machine
end

