-- ==== Sys2Proof/Machine/Resume.lean ====
section
/-!
DEFINITION. Returns (R139, R215, R220, R221): eret, the restore of a parked task, re-injection; and the other events of a
tile's cycle: the end of a stall (R54), of a communication phase (R346), of a wfe (R140), and a line of code (R127, R238).
-/
namespace Sys2Proof.Machine

/-! ### Re-injection (R220) -/

/-- The superstep phase moved by the cycles that a stop has taken. -/
def SuperPhase.later (p : SuperPhase) (n : Nat) : SuperPhase := { p with s := p.s + n }

/-- Captured requests are on their way again from now. -/
def State.releaseReqs (s : State) (d : DieIx) (t : TileIx) (which : Req → Bool) : State :=
  let now := (s.tileAt d t).now
  let go (r : Req) : Req :=
    match r.captured with
    | some k => if r.of d t && which r then { r with captured := none, due := now + k } else r
    | none => r
  { s with reqs := s.reqs.map go }

/-- Whether something waits for the first operation after a return of the moving tile. -/
def State.toReinject (s : State) : Bool :=
  let t := s.here
  decide (t.cc.mode = .ready) && t.stop.isNone && decide (t.mode = .running) &&
    (!t.inject.isEmpty || (!t.cc.trap.halt && (decide (t.cutLeft ≠ {}) || s.reqs.any fun r => s.isCaptured s.die s.tile r)))

/-- LATCH_REINJECT: in the cycle in which the first operation after a return issues, captured results are on their way
again (R220). -/
def execLatchReinject (s : State) : Out :=
  if s.here.phase = .start ∧ s.toReinject then
    let halt := s.here.cc.trap.halt
    let s1 := s.modHere fun t =>
      { (if halt then t else { t.takeUp t.cutLeft with cutLeft := {} }) with
               flight := t.flight ++ t.inject.map Latch.result, inject := []
               super := if halt then t.super else t.super.map fun p => p.later (if t.cutAt = 0 then 0 else t.now - t.cutAt)
               cutAt := if halt then t.cutAt else 0 }
    .next (if halt then s1 else s1.releaseReqs s.die s.tile fun r => s.isCaptured s.die s.tile r)
  else .fault .notEnabled

/-! ### eret (R139, R215) -/

/-- The return: level and PC as saved, one handler less; what the control core had in flight is discarded. -/
def Tile.leaveHandler (t : Tile) : Tile :=
  let ts := t.cc.trap.tstat
  let d := t.cc.trap.depth
  let tstat := (ts &&& ~~~0x30#64) ||| wordOf ((d - 1) * 16)
  { t with
    flight := t.flight.filter fun f => f.timed || !decide (f.agent = .cc)
    cc := { t.cc with pc := t.cc.trap.tepc, level := Level.ofBit (ts.getLsbD 0), trap := { t.cc.trap with tstat }, mode := .wait 6 } }

/-- A latch bank waits for the first operation after return. -/
def Tile.injectBank (t : Tile) (depth : Nat) : Tile :=
  if depth ≤ 1 then { t with inject := t.inject ++ t.bank1, bank1 := [] } else { t with inject := t.inject ++ t.bank2, bank2 := [] }

/-- eret: with HALT set, the return to what a stop interrupted first reloads the stop record. DESIGN CHOICE (log 31): with
DEPTH 0 it returns to TEPC at TSTAT's level as well, and DEPTH stays 0. A poisoned sector of the record yields no data
(R250): the eret traps. DESIGN CHOICE (log 84). -/
def execEret (o : Op) (s : State) : Out :=
  let poison := if s.here.cc.trap.halt && decide (s.here.cc.trap.depth ≤ 1) then
      (s.entryOf s.die s.tile).bind fun q => s.recordPoison s.die s.tile (s.ctxAt s.die q).entry
    else none
  .next (s.ccSystem 0x38 3 fun s => s.ccTry o poison fun s =>
    let d := s.here.cc.trap.depth
    let halt := s.here.cc.trap.halt
    if halt && decide (d ≤ 1) then
      let s1 := match s.entryOf s.die s.tile with
        | some q => s.reloadRecord s.die s.tile (s.ctxAt s.die q).entry false
        | none => s
      s1.modHere fun t =>
        let t := (t.leaveHandler).injectBank 1
        { t with
          inject := t.inject ++ t.engLatches, engLatches := [], stopWfe := none
          cc := { t.cc with trap := t.cc.trap.setHalt false, mode := .resume 6 } }
    else s.modHere fun t =>
      let t := t.leaveHandler.injectBank d
      if d = 2 then { t with innerWfe := none, cc := { t.cc with wfeBack := t.innerWfe } } else t)

/-! ### The restore of a parked task (R220, R221, R235) -/

/-- The tile of a parked task as its slot does not say it. An interrupt held since the cut stays held (R421). -/
def Tile.unparked (x : Tile) (e : CtxEntry) (p : Parked) : Tile :=
  let n := x.now - p.cut
  { x.cleared.takeUp p.last with
    mode := if p.mode = .ended then .ending else .running
    task := some p.task, super := p.super.map fun y => y.later n, signal := p.signal, bank1 := p.bank1, bank2 := p.bank2
    engLatches := p.eng, seqs := p.seqs, failedRuns := p.failedRuns, slots := p.slots, tileFence := p.tileFence
    cutAt := if p.cutAt = 0 then 0 else p.cutAt + n, stopWfe := p.stopWfe, cutLeft := p.cutLeft, record := p.record, innerWfe := p.innerWfe, irq := x.irq <|> p.irq, dieLost := p.dieLost, lossHeld := p.lossHeld
    cc := { x.cc with
      ctxid := e.ctxid, asid := e.asid, ssnum := if p.task.ssp then p.ssnum else e.ssnum, mode := p.mode
      wfeBack := p.wfeBack } }

/-- The budget goes on from what the header says is left; a task resumed with a new budget counts from zero (R51, R231). -/
def Tile.rebase (x : Tile) (anew : Bool) (rem : Nat) : Tile :=
  { x with task := x.task.map fun k =>
      { k with base := if anew then x.cc.tcyc else x.cc.tcyc - wordOf (k.budget.toNat - rem) } }

/-- What the cut of a pre-emption captured goes on its way again in the next cycle. -/
def State.unfreeze (s : State) (d : DieIx) (t : TileIx) (p : Parked) : State :=
  if !p.fresh then s
  else
    let x := s.tileAt d t
    let one := decide (x.cc.trap.depth = 0)
    let bank := if one then x.bank1 else x.bank2
    let back := (bank.filter fun l => !l.below) ++ (if p.halt then [] else x.engLatches)
    let stay := (bank.filter (·.below)).map fun l => { l with below := false }
    let x : Tile := { x with
      flight := back.map Latch.result, bank1 := if one then stay else x.bank1, bank2 := if one then x.bank2 else stay
      engLatches := if p.halt then x.engLatches else [] }
    (s.setTile d t x).releaseReqs d t fun r => p.reqs.contains r.id

/-- The slot table that a descriptor gives, if it is well formed (R247). -/
def slotTableOf (bs : List Byte) : Option SlotTable :=
  let w (i : Nat) : BitVec 32 := BitVec.ofNat 32 (valueOf ((bs.drop (4 * i)).take 4))
  let ok (v : BitVec 32) : Bool :=
    decide (v.extractLsb' 11 5 = 0) && decide ((v.extractLsb' 0 11).toNat + (v.extractLsb' 16 16).toNat ≤ 2048)
  if (List.range 16).all fun i => ok (w i) then some (Vector.ofFn fun i => w i.val) else none

/-- The slot table of a task that is swapped in, read again from its descriptor (R246); what was kept where it cannot be
read. -/
def State.slotsAgain (s : State) (d : DieIx) (q : Fin 16) (k : Task) (kept : SlotTable) : State × SlotTable :=
  match s.deviceRead d q .fetch (k.entry - 64) 64 with
  | (s1, .ok bs) => (s1, (slotTableOf bs).getD kept)
  | (s1, .error _) => (s1, kept)

/-- Data that have landed for captured requests, as the silo image of the frame holds them (R226). -/
def State.unstage (s : State) (d : DieIx) (t : TileIx) (c : BitVec 16) (slots : SlotTable) (silo : Mem) : State :=
  let places := s.staging d t c slots
  { s with reqs := s.reqs.map fun r =>
      match places.find? fun p => decide (p.1 = r.id) with
      | some p => if p.2.length * 64 = r.staged.length ∧ p.2 ≠ [] then r.unstaged (p.2.flatMap fun u => silo.bytes u.1 64) else r
      | none => r }

/-- The tile of a parked task as its slot, with these slot tables, gives it back; and the silo that stands there. -/
def State.slotTile (s : State) (d : DieIx) (t : TileIx) (e : CtxEntry) (p : Parked) (anew : Bool) (slots : SlotTable) : Tile × Mem :=
  let base := e.frame t
  let rem := (s.dieAt d).dram.value (base + 0x70) 4
  let y := (s.dieAt d).readRest base ((s.tileAt d t).unparked e p) p.streams p.halt
  (({ y with slots, cc := { y.cc with trap := y.cc.trap.setHalt p.halt } } : Tile).rebase anew rem, y.silo)

/-- A tile takes up its parked task, whose frame slot has been read, with these slot tables. -/
def State.restoreFrom (s : State) (d : DieIx) (t : TileIx) (q : Fin 16) (e : CtxEntry) (p : Parked) (anew : Bool) (slots : SlotTable) : State :=
  let y := s.slotTile d t e p anew slots
  ((((s.unstage d t e.ctxid p.slots y.2).setTile d t y.1).reloadRecord d t e true).unfreeze d t p).modCtx d q fun c => c.unpark t

/-- A parked task is restored from its slot on its tile, which then resumes (R220). -/
def State.restoreTile (s : State) (d : DieIx) (t : TileIx) (q : Fin 16) (p : Parked) (anew : Bool) : State :=
  let e := (s.ctxAt d q).entry
  let a := s.slotsAgain d q p.task p.slots
  (a.1.frameRead d (e.frame t) 0x100000).restoreFrom d t q e p anew a.2

/-! ### Stalls (R53, R54) -/

/-- Whether the condition of a stall still holds at the start of a cycle of the moving tile. -/
def State.stallHolds (s : State) (ag : Agent) : Stall → Bool
  | .sem k n => !s.here.canWait k n
  | .streamEmpty i => !(nth s.here.streams i).readable
  | .streamFull i => !(nth s.here.streams i).writable
  | .queueFull e => decide (32 ≤ (nth s.here.seqs e.seqIx).entries.length)
  | .subQueueFull c => decide (32 ≤ s.subQueue s.die s.tile ag c)
  | .event => true

/-- The stall of an agent of a tile. -/
def Tile.stallOf (t : Tile) (ag : Agent) : Option Stall := if ag = .cc then t.stalled else (nth t.seqs ag.seqIx).stalled

/-- STALL_RESUME: the agent leaves its stall and issues in this cycle (R54). -/
def execStallResume (ag : Agent) (s : State) : Out :=
  match s.here.stallOf ag with
  | some why =>
    if s.here.phase = .start ∧ !s.stallHolds ag why then
      .next (s.modHere fun t =>
        if ag = .cc then { t with stalled := none } else t.setSeq ag { nth t.seqs ag.seqIx with stalled := none })
    else .fault .notEnabled
  | none => .fault .notEnabled

/-! ### Communication phases (R62, R346) -/

/-- The engine takes up its queue again; what is left of the scheduled segment is spent. -/
def Seq.endPhase (q : Seq) : Seq :=
  match q.aside with
  | some (queue, idx, cur, loops) => { q with queue, idx, cur, loops, aside := none, phase := none, stalled := none }
  | none => { q with phase := none }

/-- Whether the communication phase of the moving tile ends with its last cycle. -/
def Tile.phaseOver (t : Tile) : Bool :=
  !t.cc.trap.halt && t.super.any fun p => p.inComm && decide (p.s + p.clen ≤ t.now)

/-- COMM_PHASE_END: at S + CLEN (R346). -/
def execCommPhaseEnd (s : State) : Out :=
  if s.here.phase = .start ∧ s.here.phaseOver then
    .next (s.modHere fun t => { t with super := none, seqs := t.seqs.map Seq.endPhase })
  else .fault .notEnabled

/-! ### The end of a wfe (R140) -/

/-- The events that hold at the end of the moving tile's cycle; what a stop has captured has been neither written nor due.
DESIGN CHOICE (log 81): a pending loss of a die counts as
event `int`. -/
def State.eventsNow (s : State) : BitVec 4 :=
  let t := s.here
  let captured (r : Req) : Bool := s.isCaptured s.die s.tile r
  let due := s.reqs.all fun r => !(r.of s.die s.tile && (r.captured.isNone || captured r) && decide (r.agent = .cc))
  let idle := s.enginesIdle s.die s.tile && t.engLatches.isEmpty && (t.inject.all fun l => decide (l.agent = .cc))
    && s.reqs.all fun r => !(captured r && decide (r.agent ≠ .cc))
  BitVec.ofNat 4 (idle.toNat + t.posted.toNat * 2 + (t.preempt.isSome || t.irq.isSome || !t.dieLost.isEmpty).toNat * 4
    + due.toNat * 8)

/-- The wait ends: x_d is written at the end of this cycle, the post is made, and the next word issues in the next cycle. -/
def Tile.endWfe (t : Tile) (w : Wfe) (v : Word) : Tile :=
  let pc := t.cc.pc
  let t := { t with
    cc := { (t.cc.writeX w.d v) with pc := nextPc pc, mode := .ready }, stalled := none, wroteX := t.wroteX ++ [(w.d, t.now)] }
  match w.post with
  | some p => t.postSem .cc p pc 0
  | none => t

/-- The wfe in progress at the end of the moving tile's cycle, with the enabled events that hold. -/
def State.wfeNow (s : State) : Option (Wfe × BitVec 4) :=
  if s.here.phase ≠ .close then none
  else
    match s.here.cc.mode with
    | .wfe w => some (w, w.mask &&& s.eventsNow)
    | _ => none

/-- The wfe in progress that ends with the moving tile's cycle. -/
def State.wfeEnds (s : State) : Option Wfe := (s.wfeNow.filter fun x => decide (x.2 ≠ 0) || decide (x.1.limit = some 0)).map (·.1)

/-- The moving tile with the post of its wfe as one of the control core's of this cycle (R394). -/
def Tile.wfePosts (t : Tile) (w : Wfe) (p : Post) : Tile :=
  { t with
    flight := t.flight ++ [{ agent := .cc, left := 1, issued := t.now, post := some p, timed := true, fpc := t.cc.pc }]
    cc := { t.cc with mode := .wfe { w with post := none } } }

/-- The end of the moving tile's cycle; the post of a wfe that ends with it takes its place among those of the cycle, and
is no event that the wfe itself could see (R140, R394). -/
def State.endWhole (s : State) : State :=
  let s1 := s.endCycle
  match s1.wfeEnds, s.here.cc.mode with
  | some _, .wfe w =>
    (match w.post with
      | some p => (s.modHere fun t => t.wfePosts w p).endCycle.modHere fun t => { t with posted := s1.here.posted }
      | none => s1)
  | _, _ => s1

/-- RESULT_WRITEBACK: the end of a tile cycle, at which results and their posts are made (R55); it waits for bytes that
are to land with it (R30). -/
def execResultWriteback (s : State) : Out :=
  if s.here.phase = .finish ∧ !s.held s.die s.tile then .next s.endWhole else .fault .notEnabled

/-- WFE_WAKE. -/
def execWfeWake (s : State) : Out :=
  match s.wfeNow with
  | some (w, m) => if m ≠ 0 then .next (s.modHere fun t => t.endWfe w (m.setWidth 64)) else .fault .notEnabled
  | none => .fault .notEnabled

/-- WFE_TIMEOUT. -/
def execWfeTimeout (s : State) : Out :=
  match s.wfeNow with
  | some (w, m) =>
    if m = 0 ∧ w.limit = some 0 then .next (s.modHere fun t => t.endWfe w 0) else .fault .notEnabled
  | none => .fault .notEnabled

/-! ### Code (R127, R238) -/

/-- The fetch of a line for a tile: its bytes, or the cause of its failure. -/
def State.fetchLine (s : State) (d : DieIx) (t : TileIx) (line : Word) : State × Except (BitVec 16) (BitVec 512) :=
  let c := (s.tileAt d t).cc
  let w : Who := { tile := t, die := (s.dieAt d).id, level := c.level, ctxid := c.ctxid, asid := c.asid }
  let (s1, leaf) := match s.tlbHit d t c.asid line with
    | some e => (s, Walk.leaf e.leaf e.size)
    | none =>
      let s0 := s.walked d c.asid line
      match (s0.dieAt d).walkAsid c.asid line with
      | .leaf e size => (s0.tlbLearn d t (tlbEntry c.asid (s0.dieAt d).gen line e size), Walk.leaf e size)
      | f => (s0, f)
  match leaf with
  | .fault c _ => (s1, .error (if c = 0x0027 then 0x0028 else c))
  | .leaf e size =>
    match s1.checkLeaf d w .fetch line e size with
    | .fail c _ => (s1, .error c)
    | .ok x =>
      if !s1.passes d x then (s1.await, .ok 0)
      else
        match s1.targetCheck d w .fetch line x (((s1.findDie x.die).map fun h => (s1.dieAt h).atmode).getD false) with
        | (s2, .fail c _) => (s2, .error c)
        | (s2, .ok y) =>
          match s2.placeRead { who := w, seg := 0, untracked := true } y line 64 .read with
          | .ok r => (r.1, .ok (BitVec.ofNat 512 (valueOf r.2)))
          | .error f => (s2, .error (if f.1 = 0x0027 then 0x0028 else f.1))

/-- ICACHE_FILL: a line requested ahead, or the one that the tile waits for, lands; a failure ahead is counted and
forgotten, one on demand is reported by the word's use. -/
def execIcacheFill (d : DieIx) (t : TileIx) (line : BitVec 64) (s : State) : Out :=
  let x := s.tileAt d t
  let demand := x.wantsLine line
  if (!demand ∧ !x.fetch.contains line) ∨ s.lost d then .fault .notEnabled
  else
    let (s1, r) := s.fetchLine d t line
    let y := s1.tileAt d t
    let y := { y with fetch := y.fetch.filter fun a => !decide (a = line) }
    match r with
    | .ok w => settled (s1.setTile d t { y with icache := ((line, w) :: y.icache.filter fun p => !decide (p.1 = line)).take 512 })
    | .error c =>
      settled (s1.setTile d t (if demand then { y with fetchBad := [(line, c)] }
        else { y with fetchce := if y.fetchce = 0xFFFFFFFF then y.fetchce else y.fetchce + 1 }))

end Sys2Proof.Machine
end

