-- ==== Sys2Proof/Machine/Tasks.lean ====
section
/-!
DEFINITION. Tasks come to tiles (R49, R52, R60, R62, R247, R325 to R327): preloads, task starts, gang starts and the start
signal of the superstep barrier.
-/
namespace Sys2Proof.Machine

/-! ### What keeps a tile from its next task -/

/-- The contexts that a ctxsw in progress brings in on a die (R235). -/
def State.swappingIn (s : State) (d : DieIx) : List (Fin 16) :=
  (List.finRange 16).filter fun q =>
    let e := (s.ctxAt d q).entry
    decide (e.state = 3) && s.reqs.any fun r => decide (r.stage = .waiting) &&
      (match r.kind with
        | .ctxsw a _ 1 => decide (a = e.ctxid.setWidth 64)
        | .ctxsw _ b 2 => decide (b = e.ctxid.setWidth 64)
        | _ => false)

/-- What stands for the parked task of a slot that this die has not written itself: all of it is read from the slot, and
no record of a live graph is its own (R418). -/
def State.foreignSlot (s : State) (d : DieIx) (t : TileIx) (q : Fin 16) : Parked :=
  let e := (s.ctxAt d q).entry
  let rem := (s.dieAt d).dram.value (e.frame t + 0x70) 4
  { cut := (s.tileAt d t).now, ssnum := e.ssnum
    task := { home := d, q, index := 2 ^ 20, ctxid := e.ctxid, record := 0, entry := 0, image := 0, imglen := 0, arg := 0
              budget := BitVec.ofNat 32 rem, ssp := false, ovp := false } }

/-- The parked task of a context on a tile whose frame slot may be restored (R231, R235): a slot is restored once. -/
def State.validSlot (s : State) (d : DieIx) (t : TileIx) (q : Fin 16) : Option Parked :=
  let c := s.ctxAt d q
  if c.entry.frameOk && (s.dieAt d).frameValid (c.entry.frame t) then
    match c.parkedAt t with
    | some p => some p
    | none => if c.usedSlots.getLsbD t.val then none else some (s.foreignSlot d t q)
  else none

/-- Whether the parked task of a context on a tile is SUSPENDED: no swap takes it up (R422). -/
def State.isSuspended (s : State) (p : Parked) : Bool :=
  ((s.ctxAt p.task.home p.task.q).record p.task.index).any fun r => decide (r.state = .suspended)

/-- The context to be swapped in on a tile after its current task. -/
def State.incoming (s : State) (d : DieIx) (t : TileIx) : Option (Fin 16 × Parked) :=
  (s.swappingIn d).findSome? fun q => ((s.validSlot d t q).filter fun p => !s.isSuspended p).map fun p => (q, p)

/-- A gang waits for a tile (R60). -/
def State.gangHold (s : State) (d : DieIx) (t : TileIx) : Bool :=
  (List.finRange 8).any fun h => (List.finRange 16).any fun q => (s.ctxAt h q).live.any fun g =>
    g.gang && g.records.any fun r =>
      r.ssp && decide (r.state = .placed) && decide (r.die = (s.dieAt d).id) && decide (r.tile.toNat = t.val)

/-- The shadow bank set holds no image of a swapped-out context (R235). -/
def State.shadowFree (s : State) (d : DieIx) (t : TileIx) : Bool :=
  let o := (s.tileAt d t).shadow.owner
  match (s.dieAt d).findCtx o with
  | some q => !(decide (2 ≤ (s.ctxAt d q).entry.state.toNat) && ((s.ctxAt d q).parkedAt t).isSome)
  | none => true

/-! ### Preloads (R49, R247) -/

/-- What a preload brings to a tile. -/
structure Loaded where
  set   : BankSet
  slots : Vector (BitVec 32) 16
  line  : Option (Word × BitVec 512)

/-- The slot descriptor, the image and the line of ENTRY, or the cause that fails the record. -/
def State.loadTask (s : State) (d : DieIx) (q : Fin 16) (k : Task) : State × Except (BitVec 16) Loaded :=
  match s.deviceRead d q .fetch (k.entry - 64) 64 with
  | (s1, .error c) => (s1, .error c)
  | (s1, .ok desc) =>
    match slotTableOf desc with
    | none => (s1, .error 0x0030)
    | some slots =>
      match s1.deviceRead d q .read k.image (64 * k.imglen.toNat) with
      | (s2, .error c) => (s2, .error c)
      | (s2, .ok image) =>
        match s2.deviceRead d q .fetch (lineOf k.entry) 64 with
        | (s3, .error c) => (s3, .error (if c = 0x0027 then 0x0028 else c))
        | (s3, .ok line) =>
          (s3, .ok { set := { bytes := Mem.cells 0 image, owner := k.ctxid }, slots
                     line := some (lineOf k.entry, BitVec.ofNat 512 (valueOf line)) })

/-- Whether the frame slot or the image area of a tile lies in part in poisoned sectors: no data is returned from them
(R230, R250). -/
def State.framePoisoned (s : State) (d : DieIx) (t : TileIx) (e : CtxEntry) : Bool :=
  (s.dieAt d).poisonWithin (e.frame t) 0x100000 || (s.dieAt d).poisonWithin (e.imageArea t) 0x200000

/-- What the preload of a placed record brings: for a resume, the image area (R422). -/
def State.loadPlaced (s : State) (d : DieIx) (t : TileIx) (q : Fin 16) (p : Placed) : State × Except (BitVec 16) Loaded :=
  if p.resume then
    let c := s.ctxAt d q
    if s.framePoisoned d t c.entry then (s, .error 0x0027)
    else
      let s1 := s.frameRead d (c.entry.imageArea t) 0x200000
      (s1, .ok {
        set := (s1.dieAt d).readImage c.entry t c.entry.ctxid
        slots := ((c.parkedAt t).map (·.slots)).getD (Vector.replicate 16 0), line := none })
  else s.loadTask d q p.task

/-- A preload stands in the tile's shadow bank set and line buffer. -/
def State.setPreload (s : State) (d : DieIx) (t : TileIx) (p : Placed) (l : Loaded) : State :=
  s.modTile d t fun x =>
    { x.setShadow l.set with preload := some p, preSlots := l.slots, lineBuf := l.line, drawn := none
                             placed := x.placed.filter fun y => decide (y ≠ p) }

/-- Whether n bytes from va on lie in pages without W (R326). -/
def State.readOnly (s : State) (d : DieIx) (asid : BitVec 16) (va : Word) (n : Nat) : Bool :=
  n = 0 || (granules va n).all fun g =>
    match (s.dieAt d).walkAsid asid g.1 with
    | .leaf e _ => !pteW e
    | _ => false

/-- The record that a chain preload may take on a tile (R326). -/
def State.chainFor (s : State) (d : DieIx) (t : TileIx) : Option (Fin 16 × Placed) :=
  let x := s.tileAt d t
  match x.task with
  | none => none
  | some k =>
    match (s.successors k.home k.q k.index).2, (s.dieAt d).findCtx k.ctxid with
    | .ok js, some q =>
      if !x.placed.isEmpty then none
      else
        let pick (j : Nat) : Option (Fin 16 × Placed) :=
          match (s.ctxAt k.home k.q).record j, (s.recordBytes k.home k.q j).2 with
          | some r, .ok w =>
            let y := (s.ctxAt k.home k.q).taskOf k.home k.q j w
            let asid := (s.ctxAt d q).entry.asid
            if decide (r.state = .waiting) && decide (r.wait = 1) && js.contains j && !r.ssp && !s.badRecord k.home w r
                && (match s.placement k.home k.q y with
                  | .ok p => decide (p = ((s.dieAt d).id, t))
                  | .error _ => false)
                && s.readOnly d asid y.image (64 * y.imglen.toNat) && s.readOnly d asid (lineOf y.entry) 64 then
              some (q, { task := y, chain := true })
            else none
          | _, _ => none
        (List.range (s.graphSize k.home k.q)).findSome? pick
    | _, _ => none

/-- The draw of a tile at its task boundary; where no record of any context is placed on the tile, the dispatcher finds
whether a chain preload may be made (R325, R326). -/
def State.boundaryDraw (s : State) (d : DieIx) (t : TileIx) : State :=
  let s1 := s.drawFor d t
  let found := if (s1.tileAt d t).drawn.isSome then none else
    (s1.chainFor d t).map fun p => (p.2.task.home, p.2.task.q, p.2.task.index)
  s1.modTile d t fun x => { x with chain := found }

/-- The preload of a placed record; a failure completes the record as FAULTED, and the tile takes its next task (R49). -/
def State.preloadPlaced (s : State) (d : DieIx) (t : TileIx) (q : Fin 16) (p : Placed) : State :=
  match s.loadPlaced d t q p with
  | (s, .ok l) => s.setPreload d t p l
  | (s, .error c) =>
    let s1 := s.modTile d t fun x => { x with drawn := none, placed := x.placed.filter fun y => decide (y ≠ p) }
    (s1.faultRecord p.task.home p.task.q p.task.index c).settleGraph p.task.home p.task.q

/-- A chain preload on a tile whose task has been suspended: it cannot start, and goes as soon as the shadow set is to hold
another preload (R327). -/
def Tile.staleChain (x : Tile) : Bool := x.task.isNone && x.preload.any (·.chain)

/-- PRELOAD (R49, R325, R326). -/
def execPreload (d : DieIx) (t : TileIx) (s : State) : Out :=
  let x := s.tileAt d t
  let s := if x.staleChain then s.discardPreload d t else s
  if !s.live d || (s.tileAt d t).preload.isSome || decide (x.mode = .halted) || s.gangHold d t || !s.shadowFree d t then .fault .notEnabled
  else
    let drawn := x.drawn.filter fun q => (s.candidates d t).contains q
    let s1 := if drawn.isSome then s else s.drawFor d t
    match (s1.tileAt d t).drawn with
    | some q =>
      match s1.nextOf d t q with
      | some p => settled (s1.preloadPlaced d t q p)
      | none => .fault .notEnabled
    | none =>
      match (s1.chainFor d t).filter fun p => decide (x.chain = some (p.2.task.home, p.2.task.q, p.2.task.index)) with
      | some (q, p) =>
        match (s1.recordBytes p.task.home p.task.q p.task.index).1.loadPlaced d t q p with
        | (s2, .ok l) => settled (s2.setPreload d t p l)
        | (_, .error _) => .fault .notEnabled
      | none => .fault .notEnabled

/-! ### Task start (R49) -/

/-- The control core at the first cycle of a task. -/
def CcState.atStart (e : CtxEntry) (k : Task) : CcState :=
  { x := ((Vector.replicate 32 0).set 1 k.arg).set 2 k.record, pc := k.entry, level := .task, fpctl := e.fpctl, srseed := e.srseed
    trap := { tvec := e.tvec }, ctxid := e.ctxid, asid := e.asid, ssnum := e.ssnum }

/-- The bank sets exchange roles (R240). -/
def Tile.exchange (x : Tile) : Tile := { x with roleB := !x.roleB }

/-- The tile at the first cycle of a task whose preload stands ready. -/
def Tile.atStart (x : Tile) (e : CtxEntry) (k : Task) : Tile :=
  { x.cleared.exchange with
    mode := .running, task := some { k with base := 0 }, cc := CcState.atStart e k, ve := {}, me := {}
    sems := Vector.replicate 16 {}, silo := [], slots := x.preSlots, icache := x.lineBuf.toList, lineBuf := none, preload := none
    seg := x.seg + 1 }

/-- The preloaded record of a tile starts, and the next context is drawn, unless a rerun starts whose placement has
discarded a preload: that one is made again (R49, R52, R325, R327, R422). -/
def State.startTask (s : State) (d : DieIx) (t : TileIx) (q : Fin 16) (p : Placed) : State :=
  let k := p.task
  let s0 := s.takeEntries d
  let s1 :=
    if p.resume then
      match s0.validSlot d t q with
      | some y =>
        (s0.modTile d t fun x => { x.exchange with preload := none, lineBuf := none }).restoreTile d t q
          { y with task := { y.task with budget := k.budget } } true
      | none => s0
    else s0.modTile d t fun x => x.atStart (s0.ctxAt d q).entry k
  let s2 := s1.changeRecord k.home k.q k.index fun r =>
    { r with state := .running, ranDie := (s.dieAt d).id, ranTile := BitVec.ofNat 6 t.val }
  match (s.tileAt d t).redraw with
  | some w => s2.modTile d t fun x => { x with drawn := some w, redraw := none, chain := none }
  | none => s2.boundaryDraw d t

/-- Whether a tile may start a task of a context now; while it keeps a SUSPENDED one it takes no other (R422). -/
def State.mayStart (s : State) (d : DieIx) (t : TileIx) (q : Fin 16) (resume : Bool := false) : Bool :=
  let x := s.tileAt d t
  let c := s.ctxAt d q
  s.live d && (resume || !s.suspendedOn d t c.entry.ctxid) && decide (x.mode = .idle) && decide (c.entry.state = 1) && !c.precmd && !x.segmentsFull && (s.incoming d t).isNone

/-- TASK_START: at the tile-task boundary. -/
def execTaskStart (d : DieIx) (t : TileIx) (s : State) : Out :=
  match (s.tileAt d t).preload with
  | some p =>
    match (s.dieAt d).findCtx p.task.ctxid with
    | some q =>
      if s.mayStart d t q p.resume && !p.chain && !s.gangHold d t && (!p.resume || (s.validSlot d t q).isSome) then
        settled (s.startTask d t q p)
      else .fault .notEnabled
    | none => .fault .notEnabled
  | none => .fault .notEnabled

/-! ### Gangs (R60) -/

/-- The participants of a context's live graph that wait for their gang: index, task, die, tile and queue there. -/
def State.gang (s : State) (d : DieIx) (q : Fin 16) : List (Nat × Task × DieIx × TileIx × Fin 16) :=
  match (s.ctxAt d q).live with
  | none => []
  | some g =>
    g.records.zipIdx.filterMap fun r =>
      if r.1.ssp ∧ r.1.state = .placed then
        match r.1.task, s.findDie r.1.die with
        | some k, some h => ((s.dieAt h).findCtx k.ctxid).map fun hq => (r.2, k, h, Fin.ofNat 64 r.1.tile.toNat, hq)
        | _, _ => none
      else none

/-- One participant is preloaded and started. -/
def State.startParticipant (s : State) (m : Nat × Task × DieIx × TileIx × Fin 16) : State :=
  let (_, k, h, t, hq) := m
  let s1 := s.discardPreload h t
  match s1.loadTask h hq k with
  | (s2, .ok l) => (s2.setPreload h t { task := k } l).startTask h t hq { task := k }
  | (s2, .error c) => s2.faultRecord k.home k.q k.index c

/-- GANG_START. -/
def execGangStart (d : DieIx) (q : Fin 16) (s : State) : Out :=
  let ms := s.gang d q
  let waits := (s.ctxAt d q).live.any fun g => g.gang
  if waits && !s.lost d && !ms.isEmpty && ms.all fun m => s.mayStart m.2.2.1 m.2.2.2.1 m.2.2.2.2 && s.shadowFree m.2.2.1 m.2.2.2.1 then
    let s1 := s.modCtx d q fun c => { c with live := c.live.map fun g => { g with gang := false } }
    settled ((ms.foldl State.startParticipant s1).settleGraph d q)
  else .fault .notEnabled

/-- START_SIGNAL (R61, R62). -/
def execStartSignal (d : DieIx) (t : TileIx) (s : State) : Out :=
  let x := s.tileAt d t
  if x.signal && s.homeLinked d && !s.lost d then
    .next (s.setTile d t { x with signal := false, super := x.super.map fun p => { p with started := true } })
  else .fault .notEnabled

end Sys2Proof.Machine
end

