-- ==== Sys2Proof/Machine/Links.lean ====
section
/-!
DEFINITION. Links (R20, R21, R348 to R350, R412, R425, R428 to R431, R461): packets and their replay, training, the
service commands of LCTL, and retry thresholds. The far end of an edge link that leaves the package is outside.
-/
namespace Sys2Proof.Machine

/-- Port p of die d changed. -/
def State.modPort (s : State) (d : DieIx) (p : Fin 8) (f : Port → Port) : State :=
  s.modDie d fun x => { x with ports := upd x.ports p (f (nth x.ports p)) }

/-- Both ends of a link changed (R430). -/
def State.modLink (s : State) (d : DieIx) (p : Fin 8) (f : Port → Port) : State :=
  let s1 := s.modPort d p f
  match s.partner d p with
  | some (e, k) => s1.modPort e k f
  | none => s1

/-- Port p of die d. -/
def State.portAt (s : State) (d : DieIx) (p : Fin 8) : Port := nth (s.dieAt d).ports p

/-! ### Retry counters (R350, R412) -/

/-- A threshold that REPLAYS has reached is reported, once for each write of it. -/
def State.linkEvent (s : State) (d : DieIx) (p : Fin 8) : State :=
  let x := s.portAt d p
  if x.armed && decide (x.threshold ≤ x.replays) then (s.modPort d p fun x => { x with armed := false }).report (.linkEvent d p)
  else s

/-- One more replay of a link; after 256 in a row it is held down. -/
def State.countReplay (s : State) (d : DieIx) (p : Fin 8) : State :=
  let x := s.portAt d p
  let run := min 256 (x.run + 1)
  let s1 := s.modPort d p fun x =>
    { x with replays := if x.replays = 0xFFFFFFFF then x.replays else x.replays + 1, run, down := x.down || decide (run = 256) }
  (if run = 256 ∧ !x.down then s1.report (.linkDown d p) else s1).linkEvent d p

/-- THRESHOLD_WRITE. -/
def State.writeThreshold (s : State) (d : DieIx) (p : Fin 8) (v : Word) : State :=
  (s.modPort d p fun x => { x with threshold := v.setWidth 32, armed := true }).linkEvent d p

/-- THRESHOLD_WRITE (R412). -/
def execThresholdWrite (d : DieIx) (p : Fin 8) (word : BitVec 64) (s : State) : Out := s.atDie d (s.writeThreshold d p word)

/-! ### Packets (R348, R350) -/

/-- The first entry of an egress queue that the far end has not accepted whole, with its place. -/
def Port.nextEntry (x : Port) : Option (Nat × Egress) := (x.egress.zipIdx.find? fun e => !e.1.received).map fun e => (e.2, e.1)

/-- The number of the packet of an entry that is sent next. -/
def Port.nextNumber (x : Port) (g : Egress) : BitVec 12 :=
  match g.sent with
  | some n => n + BitVec.ofNat 12 g.got
  | none => x.seqOut

/-- The packets of an entry that have been sent and not acknowledged: those that the far end has accepted, and one that it
has dropped. -/
def Egress.unacked (g : Egress) : Nat := g.got + (if g.lost then 1 else 0)

/-- Whether the sender may send a packet with a number: a new one only while at most 2,047 are unacknowledged. -/
def Port.maySend (x : Port) (n : BitVec 12) : Bool := decide (n ≠ x.seqOut) || decide ((x.egress.map Egress.unacked).sum < 2048)

/-- The sender whose packets reach port p of die d. The receiver of what die d sends on its I/O port is the I/O die, and on
an edge port that leaves the package another package; it stands here as the same port of die d, whose `seqIn` is then the
number that the far end expects. -/
def State.sender (s : State) (d : DieIx) (p : Fin 8) : Option (DieIx × Fin 8) :=
  if p.val = 0 then none else some ((s.partner d p).getD (d, p))

/-- How a receiver takes a packet (R350). -/
inductive Reception where
  | accepted | duplicate | replay
  deriving DecidableEq, Repr

/-- A packet with number n at a receiver that expects another number or this one. -/
def reception (expected n : BitVec 12) (good : Bool) : Reception :=
  if !good then .replay
  else if n = expected then .accepted
  else if (expected - n).toNat ≤ 2048 then .duplicate
  else .replay

/-- A request whose packet has crossed a link stands at the router beyond, or, past the I/O port, at host memory. Beyond the
package it is at its home; a packet that only passes through other packages comes to its destination. -/
def State.crossLink (s : State) (r : Req) (d : DieIx) (p : Fin 8) : Req :=
  match r.stage with
  | .egress _ _ h =>
    if p.val = 7 then { r with stage := .home, crossed := true }
    else if !s.leaves d p then { r with stage := .fabric d (h + 1) }
    else if r.away.isSome then { r with stage := .home }
    else { r with stage := if r.back then .done else .ingress r.target }
  | _ => r

/-- LINK_PACKET_RECEIVE: the receiver at port p of die d accepts the next packet of the link when its check code is good
and its number is the one expected, and drops a duplicate; after any other packet everything is dropped until the replay.
A request goes on with the last packet of its entry. -/
def execLinkPacketReceive (d : DieIx) (p : Fin 8) (good : Bool) (s : State) : Out :=
  match s.sender d p with
  | none => .fault .notEnabled
  | some (e, k) =>
    let x := s.portAt e k
    match x.nextEntry with
    | none => .fault .notEnabled
    | some (i, g) =>
      let n := x.nextNumber g
      if !x.open_ || g.lost || !x.maySend n then .fault .notEnabled
      else
        let out := if n = x.seqOut then x.seqOut + 1 else x.seqOut
        let entry (g : Egress) (s : State) : State :=
          s.modPort e k fun x => { x with egress := x.egress.set i { g with sent := some (n - BitVec.ofNat 12 g.got) }, seqOut := out }
        let taken (s : State) : State := (entry g s).modPort e k fun x =>
          { x with egress := x.egress.modify i fun g => { g with got := g.got + 1, received := decide (g.packets ≤ g.got + 1) } }
        .next (match reception (s.portAt d p).seqIn n good with
          | .accepted =>
            let s1 := (taken s).modPort e k fun x => { x with run := 0 }
            let s2 := s1.modPort d p fun x => { x with seqIn := n + 1 }
            if g.packets ≤ g.got + 1 then
              match s2.findReq g.req with
              | some r => s2.setReq (s2.crossLink r d p)
              | none => s2
            else s2
          | .duplicate => taken s
          | .replay => entry { g with lost := true } s)

/-- LINK_ACK: a cumulative acknowledgement reaches the sender at port p of die d, which removes the entries whose last
packets it covers. -/
def execLinkAck (d : DieIx) (p : Fin 8) (upto : BitVec 12) (s : State) : Out :=
  let x := s.portAt d p
  let covered (g : Egress) : Bool := g.received && (match g.sent with
    | some n => decide ((upto - (n + BitVec.ofNat 12 (g.packets - 1))).toNat < 2048)
    | none => false)
  if (x.egress.head?.map covered).getD false then
    .next (s.modPort d p fun x => { x with egress := x.egress.dropWhile covered })
  else .fault .notEnabled

/-- LINK_REPLAY: the sender at port p of die d resends from the packet that the receiver expects. -/
def execLinkReplay (d : DieIx) (p : Fin 8) (s : State) : Out :=
  let x := s.portAt d p
  if x.egress.any (fun g => g.lost) && x.open_ then
    let again (g : Egress) : Egress := { g with lost := false }
    .next ((s.modPort d p fun x => { x with egress := x.egress.map again }).countReplay d p)
  else .fault .notEnabled

/-! ### Lane configuration (R428) -/

/-- Width and redundant lanes in the halves of a module. -/
structure Module where
  width : Nat
  low   : Nat
  high  : Nat
  deriving DecidableEq, Repr

/-- Module m of an LMAP. -/
def lmapModule (v : BitVec 64) (m : Nat) : Module :=
  { width := v.toNat / 2 ^ (8 * m) % 4, low := v.toNat / 2 ^ (32 + 4 * m) % 4, high := v.toNat / 2 ^ (34 + 4 * m) % 4 }

/-- The LMAP of four modules. -/
def lmapOf (f : Nat → Module) : BitVec 64 :=
  BitVec.ofNat 64 (((List.range 4).map fun m =>
    let x := f m
    (x.width + (x.low + x.high) * 4) * 2 ^ (8 * m) + x.low * 2 ^ (32 + 4 * m) + x.high * 2 ^ (34 + 4 * m)).sum)

/-- Module m of an LMAP replaced. -/
def setModule (v : BitVec 64) (m : Nat) (x : Module) : BitVec 64 := lmapOf fun i => if i = m then x else lmapModule v i

/-- Modules that a port has (R425, R428). -/
def portModules (d : DieIx) (p : Fin 8) : Nat := if p.val ≠ 0 && decide (p.val < 7) && inPackage d p then 4 else 1

/-! ### Training (R21) -/

/-- The ID of the die that a fabric port's link is expected to reach (R19, R20). -/
def State.expectedId (s : State) (d : DieIx) (p : Fin 8) : BitVec 12 :=
  let x := s.dieAt d
  let k := portDim p
  let n := x.torus k
  let c := idCoord x.id k
  let c' := if portPlus p then (c + 1) % n else (c + n - 1) % n
  BitVec.ofNat 12 (x.id.toNat - c * 2 ^ (8 - 4 * k) + c' * 2 ^ (8 - 4 * k))

/-- Whether the ID exchange of a training agrees with the expected neighbour; the I/O port has none. -/
def State.idAgrees (s : State) (d : DieIx) (p : Fin 8) (r : Training) : Bool :=
  decide (p.val = 7) || decide (r.partner = s.expectedId d p)

/-- The widths that a training reached in the modules of a port, each at most what LMAP held. -/
def trained (d : DieIx) (p : Fin 8) (v : BitVec 64) (r : Training) : BitVec 64 :=
  lmapOf fun m =>
    let x := lmapModule v m
    if h : m < 4 then
      if portModules d p ≤ m then { width := 3, low := 0, high := 0 }
      else if (nth r.widths ⟨m, h⟩).toNat = 3 then { x with width := 3 }
      else x
    else x

/-- The outcome of a training at both ends: its widths, or the link held down and reported. -/
def State.train (s : State) (d : DieIx) (p : Fin 8) (r : Training) (v : BitVec 64) : State :=
  if s.idAgrees d p r then s.modLink d p fun x => { x with lmap := trained d p v r, run := 0, down := false }
  else (s.modLink d p fun x => { x with down := true }).report (.linkDown d p)

/-! ### Service commands (R429, R430, R461) -/

/-- The lane that a command names. -/
def lctlLane (w : BitVec 64) : Nat := (w.extractLsb' 12 6).toNat
/-- The module that a command names. -/
def lctlModule (w : BitVec 64) : Nat := (w.extractLsb' 8 2).toNat
/-- The command code. -/
def lctlCode (w : BitVec 64) : Nat := w.toNat % 16

/-- A command refused. -/
def State.refuseLctl (s : State) (d : DieIx) (p : Fin 8) : State := s.modPort d p fun x => { x with err := true }

/-- A command that starts: BUSY at both ends, LAST at the end that wrote it. -/
def State.startLctl (s : State) (d : DieIx) (p : Fin 8) (w : BitVec 64) : State :=
  (s.modLink d p fun x => { x with busy := true }).modPort d p fun x =>
    { x with command := some w, last := BitVec.ofNat 4 (lctlCode w) }

/-- A write of LCTL. The links within the package, which Remap is for, are the in-package fabric links and the I/O link
(R17, R425). -/
def State.writeLctl (s : State) (d : DieIx) (p : Fin 8) (w : BitVec 64) : State :=
  let x := s.portAt d p
  if x.busy then s.refuseLctl d p
  else
    match lctlCode w with
    | 0 => s
    | 1 => (s.startLctl d p w).modLink d p fun x => { x with paused := true }
    | 3 => if x.paused && (decide (p.val = 7) || decide (portModules d p = 4)) then s.startLctl d p w else s.refuseLctl d p
    | 2 | 4 | 5 | 6 => if x.paused then s.startLctl d p w else s.refuseLctl d p
    | _ => s.refuseLctl d p

/-- A write of LCTL with a given command code. -/
def State.lctlWith (s : State) (d : DieIx) (p : Fin 8) (w : BitVec 64) (ok : Bool) : Out :=
  if p.val ≠ 0 ∧ ok then s.atDie d (s.writeLctl d p w) else .fault .notEnabled

/-- LINK_NONE. -/
def execLinkNone (d : DieIx) (p : Fin 8) (word : BitVec 64) (s : State) : Out := s.lctlWith d p word (lctlCode word = 0)
/-- LINK_PAUSE. -/
def execLinkPause (d : DieIx) (p : Fin 8) (word : BitVec 64) (s : State) : Out := s.lctlWith d p word (lctlCode word = 1)
/-- LINK_RESUME. -/
def execLinkResume (d : DieIx) (p : Fin 8) (word : BitVec 64) (s : State) : Out := s.lctlWith d p word (lctlCode word = 2)
/-- LINK_REMAP. -/
def execLinkRemap (d : DieIx) (p : Fin 8) (word : BitVec 64) (s : State) : Out := s.lctlWith d p word (lctlCode word = 3)
/-- LINK_RETRAIN. -/
def execLinkRetrain (d : DieIx) (p : Fin 8) (word : BitVec 64) (s : State) : Out := s.lctlWith d p word (lctlCode word = 4)
/-- LINK_DEGRADE. -/
def execLinkDegrade (d : DieIx) (p : Fin 8) (word : BitVec 64) (s : State) : Out := s.lctlWith d p word (lctlCode word = 5)
/-- LINK_RESTORE. -/
def execLinkRestore (d : DieIx) (p : Fin 8) (word : BitVec 64) (s : State) : Out := s.lctlWith d p word (lctlCode word = 6)
/-- LCTL_UNASSIGNED_COMMAND. -/
def execLctlUnassignedCommand (d : DieIx) (p : Fin 8) (word : BitVec 64) (s : State) : Out :=
  s.lctlWith d p word (7 ≤ lctlCode word)

/-- The module that a command leaves on a port of so many modules, before its training; none when the command fails. -/
def lctlResult (modules : Nat) (w v : BitVec 64) : Option (BitVec 64) :=
  let m := lctlModule w
  let x := lmapModule v m
  let low := decide (lctlLane w < 32)
  match lctlCode w with
  | 3 =>
    if modules ≤ m then none
    else if low then (if x.low < 2 then some (setModule v m { x with low := x.low + 1 }) else none)
    else if x.high < 2 then some (setModule v m { x with high := x.high + 1 }) else none
  | 5 =>
    if x.width = 1 ∨ x.width = 2 then none
    else some (setModule v m (if low then { x with width := 2, low := 0 } else { x with width := 1, high := 0 }))
  | 6 => some (setModule v m { width := 0, low := 0, high := 0 })
  | _ => some v

end Sys2Proof.Machine
end

