-- ==== Sys2Proof/Machine/DieRegs.lean ====
section
/-!
DEFINITION. The die control registers (R417 to R424, R265, R266, R388, R412, R413, R436): what a read returns and what a
write does, and the rows of the table that are writes of one of them.
-/
namespace Sys2Proof.Machine

/-- A die's index in DSTATE. -/
def State.dstate (s : State) (d : DieIx) : BitVec 2 := nth s.io.dstate d

/-! ### Context table entries (R207, R418) -/

/-- A discarded write sets a bit of CTXSTAT and its entry's index. -/
def State.ctxRefuse (s : State) (d : DieIx) (i : Fin 16) (bit : Nat) : State :=
  s.modDie d fun x => { x with ctxstat := (x.ctxstat &&& 0xF#64) ||| wordOf (2 ^ bit + i.val * 2 ^ 8) }

/-- The double words of an entry as a read returns them, TDMASK apart. -/
def CtxEntry.dword (e : CtxEntry) (dw : Nat) : Word :=
  match dw with
  | 0 => wordOf (e.ctxid.toNat + e.asid.toNat * 2 ^ 16 + e.tickets.toNat * 2 ^ 32 + e.ditsel.toNat * 2 ^ 40
      + e.state.toNat * 2 ^ 48 + e.partid.toNat * 2 ^ 56)
  | 1 => wordOf (e.lotseed.toNat + e.ssnum.toNat * 2 ^ 32)
  | 2 => wordOf (e.sspart.toNat + e.fpctl.toNat * 2 ^ 32)
  | 3 => e.srseed
  | 4 => e.ptroot
  | 5 => e.tvec
  | 6 => e.fbase.setWidth 64
  | _ => 0

/-- TDMASK: the summary of the OR of all dies' copies (R207). -/
def State.tdmask (s : State) (ctxid : BitVec 16) : Word :=
  touchedSummary ((s.everywhere ctxid).foldl (fun m p => m ||| (s.ctxAt p.1 p.2).touched) 0)

/-- Whether a task of a context runs or is suspended: what its entry then takes of ticket count and seeds counts from the
next tile-task boundary on (R34). -/
def State.taskLives (s : State) (ctxid : BitVec 16) : Bool :=
  (s.everywhere ctxid).any fun p => (s.ctxAt p.1 p.2).live.any fun g => g.records.any fun r =>
    decide (r.state = .running) || decide (r.state = .suspended)

/-- An entry with new values; the ticket count and the seed that the lottery uses stay for a context of which a task lives. -/
def CtxDie.withEntry (c : CtxDie) (e : CtxEntry) (lives : Bool) : CtxDie :=
  { c with
    entry := e
    oldTickets := if lives && decide (e.tickets ≠ c.entry.tickets) then c.oldTickets <|> some c.entry.tickets else c.oldTickets
    oldSeed := if lives && decide (e.lotseed ≠ c.entry.lotseed) then c.oldSeed <|> some c.entry.lotseed else c.oldSeed }

/-- A context becomes present: empty queue and tables, its barrier home touched (R208, R418). What belongs to the doorbell
page stays. -/
def CtxDie.present (c : CtxDie) (e : CtxEntry) (home : Option (BitVec 12)) : CtxDie :=
  { entry := e, caddr := c.caddr, sublo := c.sublo
    touched := match home with
      | some id => 1#4096 <<< id.toNat
      | none => 0 }

/-- Double word 0 of an entry with a new value. -/
def CtxEntry.withDword0 (e : CtxEntry) (v : Word) : CtxEntry :=
  { e with
    ctxid := v.extractLsb' 0 16, asid := v.extractLsb' 16 16, tickets := v.extractLsb' 32 8, ditsel := v.extractLsb' 40 2
    state := v.extractLsb' 48 2, partid := v.extractLsb' 56 8 }

/-- The write of double word 0, checked as a whole (R418). -/
def State.writeCtx0 (s : State) (d : DieIx) (i : Fin 16) (v : Word) : State :=
  let x := s.dieAt d
  let c := s.ctxAt d i
  let old := c.entry
  let e := old.withDword0 v
  let twice := (List.finRange 16).any fun j =>
    decide (j ≠ i) && decide ((nth x.ctxs j).entry.state ≠ 0) && decide ((nth x.ctxs j).entry.ctxid = e.ctxid)
  let moves := match old.state.toNat, e.state.toNat with
    | 0, 3 => false
    | 0, n => n = 0 || decide (e.ctxid ≠ 0)
    | 1, 1 | 2, 2 | 2, 0 | 3, 3 => true
    | _, _ => false
  let held := decide (old.state = 1) || decide (old.state = 3)
  if e.tickets = 0 then s.ctxRefuse d i 0
  else if !moves then s.ctxRefuse d i 1
  else if e.state ≠ 0 ∧ twice then s.ctxRefuse d i 2
  else if e.state ≠ 0 ∧ e.partid ≠ x.partid then s.ctxRefuse d i 3
  else if held ∧ (e.ctxid ≠ old.ctxid ∨ e.asid ≠ old.asid ∨ e.partid ≠ old.partid) then s.ctxRefuse d i 0
  else if old.state = 0 ∧ e.state ≠ 0 then s.modCtx d i fun c => c.present e x.barrierId
  else if e.state = 0 then s.modCtx d i fun c => { c.present e none with touched := 0 }
  else s.modCtx d i fun c => c.withEntry e (s.taskLives old.ctxid)

/-- A write of double word dw of entry i (R207, R34, R418). -/
def State.writeCtx (s : State) (d : DieIx) (i : Fin 16) (dw : Nat) (v : Word) : State :=
  let e := (s.ctxAt d i).entry
  let held := decide (e.state = 1) || decide (e.state = 3)
  let put (e' : CtxEntry) : State := s.modCtx d i fun c => c.withEntry e' (s.taskLives e.ctxid)
  match dw with
  | 0 => s.writeCtx0 d i v
  | 1 =>
    let seed : BitVec 32 := v.extractLsb' 0 32
    put { e with lotseed := if seed = 0 then 1 else seed, ssnum := if held then e.ssnum else v.extractLsb' 32 32 }
  | 2 =>
    if held ∧ v.extractLsb' 0 18 ≠ e.sspart then s.ctxRefuse d i 0
    else put { e with sspart := v.extractLsb' 0 18, fpctl := fpctlWritten (v >>> 32) }
  | 3 => put { e with srseed := v }
  | 4 =>
    let root := v &&& 0x000000FFFFFF0001#64
    if held ∧ root ≠ e.ptroot then s.ctxRefuse d i 0 else put { e with ptroot := root }
  | 5 => put { e with tvec := v &&& 0x00FFFFFFFFFFFFF0#64 }
  | 6 => put { e with fbase := v.extractLsb' 0 12 }
  | _ => s

/-- CONTEXT_ENTRY_WRITE. -/
def execContextEntryWrite (d : DieIx) (i : Fin 16) (dw : Fin 8) (word : BitVec 64) (s : State) : Out :=
  s.atDie d (s.writeCtx d i dw.val word)

/-! ### Partitions (R419) -/

/-- Die d has taken bits out of its partition list. Where the barrier home that it knew is no longer listed, the live die of
lowest ID in the list is the home from now on, touched by every context, with no arrivals and none completed; participants'
arrivals are counted afresh (R403). -/
def State.newHome (s : State) (d : DieIx) (old : Option (BitVec 12)) : State :=
  let x := s.dieAt d
  if old.any fun id => x.plist.getLsbD id.toNat then s
  else
    let home := (listedIds x.plist).find? fun id => s.isLive id || s.isAway id
    let touched : BitVec 4096 := match home with
      | some id => 1#4096 <<< id.toNat
      | none => 0
    let mine := decide (home = some x.id)
    let afresh (g : Graph) : Graph := { g with records := g.records.map fun r => { r with arrived := false, counted := false } }
    let ctx (c : CtxDie) : CtxDie :=
      if c.entry.state = 0 then c
      else { c with touched := c.touched ||| touched, live := c.live.map afresh
                    ssarr := if mine then 0 else c.ssarr, ssdone := if mine then 0 else c.ssdone }
    s.setDie d { x with homeId := home, ctxs := x.ctxs.map ctx }

/-- A write of PARTID (register 64) or of a double word of the partition die list. -/
def State.writePartition (s : State) (d : DieIx) (reg : Nat) (v : Word) : State :=
  let x := s.dieAt d
  let free := (List.finRange 16).all fun i => decide ((nth x.ctxs i).entry.state = 0)
  if reg = 64 then
    if free then s.modDie d fun x => { x with partid := v.setWidth 8 } else s.ctxRefuse d 0 0
  else
    let old := x.plist.extractLsb' (64 * reg) 64
    let shift := 64 * reg
    let new := (x.plist &&& ~~~((0xFFFFFFFFFFFFFFFF#64).setWidth 4096 <<< shift)) ||| (v.setWidth 4096 <<< shift)
    let gone := (List.range 64).filter fun b => old.getLsbD b && !v.getLsbD b
    let lost := gone.all fun b =>
      match s.findDie (BitVec.ofNat 12 (64 * reg + b)) with
      | some h => decide (s.dstate h = 3)
      | none => false
    if free then s.modDie d fun x => { x with plist := new, homeId := none }
    else if decide (v &&& old = v) && lost then (s.modDie d fun x => { x with plist := new }).newHome d x.barrierId
    else s.ctxRefuse d 0 0

/-- PARTITION_WRITE. -/
def execPartitionWrite (d : DieIx) (reg : Fin 65) (word : BitVec 64) (s : State) : Out := s.atDie d (s.writePartition d reg.val word)

/-! ### Interrupts and pre-emptions (R421) -/

/-- A write of IRQCMD. DEDUCED (log 77): a tile still holds its request in the shadow of the stop that delivers it. -/
def State.writeIrqcmd (s : State) (d : DieIx) (v : Word) : State :=
  let t : TileIx := Fin.ofNat 64 (v.toNat % 64)
  let x := s.tileAt d t
  if x.holdsIrq then s.modDie d fun y => { y with ibusy := true }
  else if x.task.isSome ∧ x.cc.ctxid = v.extractLsb' 16 16 then s.setTile d t { x with irq := some (s.dieAt d).irqval }
  else s.modDie d fun y => { y with notask := true }

/-- IRQCMD. -/
def execIrqcmd (d : DieIx) (word : BitVec 64) (s : State) : Out := s.atDie d (s.writeIrqcmd d word)

/-- Whether a tile's task belongs to a context. -/
def Tile.runs (x : Tile) (ctxid : BitVec 16) : Bool := x.task.isSome && decide (x.cc.ctxid = ctxid)

/-- A pre-emption request goes to every tile of a die that runs a task of a context (R225). -/
def State.preemptTiles (s : State) (d : DieIx) (ctxid : BitVec 16) : State :=
  (List.finRange 64).foldl (fun s t =>
    let x := s.tileAt d t
    if x.runs ctxid && decide (x.mode ≠ .halted) then s.setTile d t { x with preempt := some (x.preempt.getD false) } else s) s

/-- Every tile that a context's PRECMD has halted is restored from its slot (R421). -/
def State.resumeTiles (s : State) (d : DieIx) (q : Fin 16) : State :=
  let ctxid := (s.ctxAt d q).entry.ctxid
  (List.finRange 64).foldl (fun s t =>
    let x := s.tileAt d t
    if x.runs ctxid && decide (x.mode = .halted) then
      match s.validSlot d t q with
      | some p => s.restoreTile d t q p false
      | none => s
    else s) s

/-- A write of PRECMD. -/
def State.writePrecmd (s : State) (d : DieIx) (v : Word) : State :=
  let x := s.dieAt d
  let bad := s.modDie d fun y => { y with pbad := true }
  let resident := (x.findCtx (v.setWidth 16)).filter fun q => decide ((nth x.ctxs q).entry.state = 1)
  match resident with
  | none => bad
  | some q =>
    let c := s.ctxAt d q
    if x.pbusy then bad
    else if v.getLsbD 16 then
      if !c.precmd then bad
      else
        let s1 := (s.resumeTiles d q).modCtx d q fun c => { c with precmd := false }
        s1.modDie d fun y => { y with pdone := true }
    else
      let s1 := (s.preemptTiles d c.entry.ctxid).modCtx d q fun c => { c with precmd := true }
      (s1.modDie d fun y => { y with pbusy := true }).settlePre d

/-- PRECMD_STOP. -/
def execPrecmdStop (d : DieIx) (word : BitVec 64) (s : State) : Out :=
  if word.getLsbD 16 then .fault .notEnabled else s.atDie d (s.writePrecmd d word)

/-- PRECMD_RESUME. -/
def execPrecmdResume (d : DieIx) (word : BitVec 64) (s : State) : Out :=
  if word.getLsbD 16 then s.atDie d (s.writePrecmd d word) else .fault .notEnabled

/-! ### Task control (R422, R423) -/

/-- The live record of a context at a virtual address: die, queue and index of its graph. -/
def State.recordAt (s : State) (ctxid : BitVec 16) (va : Word) : Option (DieIx × Fin 16 × Nat) :=
  (s.everywhere ctxid).findSome? fun p =>
    (s.ctxAt p.1 p.2).live.bind fun g =>
      let off := (va - g.gbase).toNat
      if off % 64 = 0 ∧ off / 64 < g.records.length then some (p.1, p.2, off / 64) else none

/-- The result of a task command. -/
def State.tcResult (s : State) (d : DieIx) (code : BitVec 4) : State := s.modDie d fun x => { x with tbusy := false, tcode := code }

/-- Whether a tile already holds a resume or rerun of a record. -/
def Tile.awaits (x : Tile) (home : DieIx) (q : Fin 16) (i : Nat) : Bool :=
  (x.preload.toList ++ x.placed).any fun p => decide (p.task.home = home) && decide (p.task.q = q) && decide (p.task.index = i)

/-- A resume of a SUSPENDED record (R422). -/
def State.resumeRecord (s : State) (d : DieIx) (budget : BitVec 32) (h : DieIx) (q : Fin 16) (i : Nat) (r : Record) : State :=
  let t : TileIx := Fin.ofNat 64 r.ranTile.toNat
  match r.task with
  | some k =>
    if budget = 0 then s.tcResult d 1
    else if r.state ≠ .suspended ∨ (s.tileAt d t).awaits h q i then s.tcResult d 2
    else
      let s1 := s.writeRecord h q i 32 (bytesOf 4 budget.toNat)
      let k := { k with budget }
      let s2 := s1.modCtx h q fun c => c.setRecord i { r with task := some k }
      (s2.enterTile d t { task := k, resume := true } true).tcResult d 0
  | none => s.tcResult d 2

/-- A rerun of a RUNNING, SUSPENDED or FAULTED record (R423). -/
def State.rerunRecord (s : State) (d : DieIx) (dq : Fin 16) (budget : BitVec 32) (h : DieIx) (q : Fin 16) (i : Nat) (r : Record) :
    State :=
  let t : TileIx := Fin.ofNat 64 r.ranTile.toNat
  match r.task with
  | some k0 =>
    let k := if budget = 0 then k0 else { k0 with budget }
    let s0 := if budget = 0 then s else s.writeRecord h q i 32 (bytesOf 4 budget.toNat)
    let x := s.tileAt d t
    match r.state with
    | .running =>
      if x.mode = .halted then
        ((s0.leaveTile d t).modCtx d dq fun c => c.unpark t).placeAgain d t { task := k }
      else if x.task.any fun y => y.home = h && y.q = q && y.index = i then
        (s0.setTile d t { x with stop := some (x.now, .discard (some { task := k })), preempt := none }).modDie d fun y =>
          { y with tbusy := true }
      else s.tcResult d 2
    | .suspended =>
      let mine (p : Placed) : Bool := p.resume && decide (p.task.home = h) && decide (p.task.q = q) && decide (p.task.index = i)
      let s1 := s0.modTile d t fun x =>
        let x := if x.preload.any mine then x.dropPreload else x
        { x with placed := x.placed.filter fun p => !mine p }
      (s1.modCtx d dq fun c => c.unpark t).placeAgain d t { task := k }
    | .faulted => s0.placeAgain d t { task := k }
    | _ => s.tcResult d 2
  | none => s.tcResult d 2

/-- A write of TCCMD while no command is in progress. -/
def State.writeTccmd (s : State) (d : DieIx) (v : Word) : State :=
  let x := s.dieAt d
  let va := x.tcrec &&& 0x00FFFFFFFFFFFFC0#64
  let ctxid := v.extractLsb' 16 16
  let budget := v.extractLsb' 32 32
  let op := v.toNat % 16
  if x.tbusy then s
  else if op ≠ 1 ∧ op ≠ 2 then s.tcResult d 1
  else
    match (x.findCtx ctxid).filter fun q => decide ((nth x.ctxs q).entry.state = 1) with
    | none => s.tcResult d 1
    | some q =>
      match s.deviceRead d q .read va 64 with
      | (s, .error _) => s.tcResult d 1
      | (s, .ok bs) =>
        match s.recordAt ctxid va with
        | none => s.tcResult d 3
        | some (h, hq, i) =>
          match (s.ctxAt h hq).record i with
          | none => s.tcResult d 3
          | some r =>
            if r.ranDie ≠ x.id then s.tcResult d 4
            else if op = 1 then s.resumeRecord d budget h hq i r
            else
              let k := (s.ctxAt h hq).taskOf h hq i (BitVec.ofNat 512 (valueOf bs))
              s.rerunRecord d q budget h hq i { r with task := r.task <|> some k }

/-- TASK_RESUME. -/
def execTaskResume (d : DieIx) (word : BitVec 64) (s : State) : Out :=
  if word.toNat % 16 = 1 then s.atDie d (s.writeTccmd d word) else .fault .notEnabled
/-- TASK_RERUN. -/
def execTaskRerun (d : DieIx) (word : BitVec 64) (s : State) : Out :=
  if word.toNat % 16 = 2 then s.atDie d (s.writeTccmd d word) else .fault .notEnabled
/-- TCCMD_OTHER_OP. -/
def execTccmdOtherOp (d : DieIx) (word : BitVec 64) (s : State) : Out :=
  if word.toNat % 16 ≠ 1 ∧ word.toNat % 16 ≠ 2 then s.atDie d (s.writeTccmd d word) else .fault .notEnabled

/-! ### Maintenance, access tables, routes, interleave tables (R265, R266, R372, R388, R417, R424) -/

/-- A write of WBCMD. -/
def Die.writeWbcmd (x : Die) (v : Word) : Die :=
  let x := if v.getLsbD 2 then { x with wbdone := false } else x
  if v.getLsbD 0 && !x.wbbusy then { x with wbbusy := true } else x

/-- SLICE_WRITEBACK. -/
def execSliceWriteback (d : DieIx) (word : BitVec 64) (s : State) : Out := s.atDie d (s.modDie d fun x => x.writeWbcmd word)

/-- WRITEBACK_COMPLETE: every line written is valid and clean. -/
def execWritebackComplete (d : DieIx) (s : State) : Out :=
  if (s.dieAt d).wbbusy ∧ !s.lost d then
    .next (s.modDie d fun x => { x with slices := x.slices.map CacheSector.cleaned, wbbusy := false, wbdone := true })
  else .fault .notEnabled

/-- ATMODE_WRITE. -/
def execAtmodeWrite (d : DieIx) (word : BitVec 64) (s : State) : Out := s.atDie d (s.modDie d fun x => { x with atmode := word.getLsbD 0 })

/-- The bits of an access-table entry that are not reserved (R266). -/
def accessMask : BitVec 128 := 0x00FFFFFF00FFFFFF0000FFFFFF000007#128

/-- A write of half an access-table entry: it takes effect as a whole with its upper double word. -/
def Die.writeAccess (x : Die) (p : Fin 7) (e : Fin 16) (upper : Bool) (v : Word) : Die :=
  if upper then
    let w : BitVec 128 := (v ++ nth (nth x.accessLo p) e) &&& accessMask
    { x with access := upd x.access p (upd (nth x.access p) e w) }
  else { x with accessLo := upd x.accessLo p (upd (nth x.accessLo p) e v) }

/-- ACCESS_TABLE_WRITE. -/
def execAccessTableWrite (d : DieIx) (p : Fin 7) (e : Fin 16) (upper : Bool) (word : BitVec 64) (s : State) : Out :=
  s.atDie d (s.modDie d fun x => x.writeAccess p e upper word)

/-- A write of a route-table entry; those of the thresher are not written here. -/
def Die.writeRoute (x : Die) (e : Fin 1024) (v : Word) : Die :=
  if 768 ≤ e.val then x else { x with routes := upd x.routes e (v &&& 0x3FFFFFFF#64) }

/-- ROUTE_TABLE_WRITE. -/
def execRouteTableWrite (d : DieIx) (e : Fin 1024) (word : BitVec 64) (s : State) : Out :=
  s.atDie d (s.modDie d fun x => x.writeRoute e word)

/-- Whether a present context selects a die interleave table. -/
def Die.ditInUse (x : Die) (n : Fin 4) : Bool :=
  (List.finRange 16).any fun q => decide ((nth x.ctxs q).entry.state ≠ 0) && decide ((nth x.ctxs q).entry.ditsel.toNat = n.val)

/-- A write of four entries of a die interleave table. -/
def Die.writeDit (x : Die) (n : Fin 4) (dw : Fin 1024) (v : Word) : Die :=
  if x.ditInUse n then x
  else
    let put (t : Vector (BitVec 12) 4096) (k : Nat) : Vector (BitVec 12) 4096 :=
      upd t (Fin.ofNat 4096 (4 * dw.val + k)) (v.extractLsb' (16 * k) 12)
    { x with dits := upd x.dits n ([0, 1, 2, 3].foldl put (nth x.dits n)) }

/-- DIT_WRITE. -/
def execDitWrite (d : DieIx) (n : Fin 4) (dw : Fin 1024) (word : BitVec 64) (s : State) : Out :=
  s.atDie d (s.modDie d fun x => x.writeDit n dw word)

/-! ### Registers without behaviour of their own -/

/-- What an offset of the registers names. -/
inductive Reg where
  | dieinfo | atmode | wbcmd | dramce | ctxstat | irqval | irqcmd | precmd | reqstat | irqheld | tcrec | tccmd | tcstat | pwrst
  | fetchce (t : TileIx)
  | ctx (i : Fin 16) (dw : Fin 8)
  | partition (reg : Nat)
  | graph (q : Fin 16) (r : Fin 4)
  | access (p : Fin 7) (e : Fin 16) (upper : Bool)
  | route (e : Fin 1024)
  | port (p : Fin 8) (r : Fin 5)
  | activity (t : TileIx) (a : Fin 5)
  | dit (n : Fin 4) (dw : Fin 1024)
  deriving DecidableEq, Repr

/-- The register at an offset, a multiple of 8 (R417). -/
def regAt (o : Nat) : Option Reg :=
  if o = 0 then some .dieinfo
  else if o = 0x100 then some .atmode
  else if o = 0x108 then some .wbcmd
  else if o = 0x110 then some .dramce
  else if 0x200 ≤ o ∧ o < 0x400 then some (.fetchce (Fin.ofNat 64 ((o - 0x200) / 8)))
  else if 0x1000 ≤ o ∧ o < 0x1400 then some (.ctx (Fin.ofNat 16 ((o - 0x1000) / 0x40)) (Fin.ofNat 8 (o / 8)))
  else if o = 0x1400 then some .ctxstat
  else if o = 0x1800 then some (.partition 64)
  else if 0x1A00 ≤ o ∧ o < 0x1C00 then some (.partition ((o - 0x1A00) / 8))
  else if 0x2000 ≤ o ∧ o < 0x2200 then some (.graph (Fin.ofNat 16 ((o - 0x2000) / 0x20)) (Fin.ofNat 4 (o / 8)))
  else if o = 0x3000 then some .irqval
  else if o = 0x3008 then some .irqcmd
  else if o = 0x3010 then some .precmd
  else if o = 0x3018 then some .reqstat
  else if o = 0x3020 then some .irqheld
  else if o = 0x3100 then some .tcrec
  else if o = 0x3108 then some .tccmd
  else if o = 0x3110 then some .tcstat
  else if 0x10000 ≤ o ∧ o < 0x10700 then
    some (.access (Fin.ofNat 7 ((o - 0x10000) / 0x100)) (Fin.ofNat 16 (o / 16)) (o / 8 % 2 = 1))
  else if 0x11000 ≤ o ∧ o < 0x13000 then some (.route (Fin.ofNat 1024 ((o - 0x11000) / 8)))
  else if 0x20040 ≤ o ∧ o < 0x20200 then
    if h : o % 0x40 / 8 < 5 then some (.port (Fin.ofNat 8 ((o - 0x20000) / 0x40)) ⟨o % 0x40 / 8, h⟩) else none
  else if 0x30000 ≤ o ∧ o < 0x31000 then
    if h : o % 0x40 / 8 < 5 then some (.activity (Fin.ofNat 64 ((o - 0x30000) / 0x40)) ⟨o % 0x40 / 8, h⟩) else none
  else if o = 0x40000 then some .pwrst
  else if 0x50000 ≤ o ∧ o < 0x58000 then some (.dit (Fin.ofNat 4 ((o - 0x50000) / 0x2000)) (Fin.ofNat 1024 (o / 8)))
  else none

/-- The retry register and its neighbours (R412, R428). -/
def Port.read (x : Port) (r : Fin 5) : Word :=
  match r with
  | 0 => wordOf (x.replays.toNat + x.run * 2 ^ 32 + x.down.toNat * 2 ^ 48)
  | 1 => x.threshold.setWidth 64
  | 2 => 0
  | 3 => wordOf (x.busy.toNat + x.paused.toNat * 2 + x.err.toNat * 4 + x.doneBit.toNat * 8 + x.last.toNat * 2 ^ 8)
  | 4 => x.lmap

/-- What a read of a register returns. -/
def State.regRead (s : State) (d : DieIx) (r : Reg) : Word :=
  let x := s.dieAt d
  match r with
  | .dieinfo => wordOf (x.id.toNat + (s.dstate d).toNat * 2 ^ 12 + x.atmode.toNat * 2 ^ 14)
  | .atmode => wordOf x.atmode.toNat
  | .wbcmd => wordOf (x.wbbusy.toNat * 2 + x.wbdone.toNat * 4)
  | .dramce => x.dramce.setWidth 64
  | .fetchce t => (nth x.tiles t).fetchce.setWidth 64
  | .ctx i dw => if dw = 7 then s.tdmask (nth x.ctxs i).entry.ctxid else (nth x.ctxs i).entry.dword dw.val
  | .ctxstat => x.ctxstat
  | .partition k => if k = 64 then x.partid.setWidth 64 else x.plist.extractLsb' (64 * k) 64
  | .graph q k => if k = 2 then (nth x.ctxs q).gqstat else 0
  | .irqval => x.irqval
  | .irqcmd | .precmd | .tccmd => 0
  | .reqstat =>
    wordOf (x.ibusy.toNat + x.idrop.toNat * 2 + x.notask.toNat * 4 + x.pbad.toNat * 8 + x.pbusy.toNat * 16 + x.pdone.toNat * 32)
  | .irqheld => wordOf (((List.finRange 64).map fun t => (nth x.tiles t).holdsIrq.toNat * 2 ^ t.val).sum)
  | .tcrec => x.tcrec
  | .tcstat => wordOf (x.tcode.toNat + x.tbusy.toNat * 2 ^ 7)
  | .access p e upper =>
    let w := nth (nth x.access p) e
    if upper then w.extractLsb' 64 64 else w.extractLsb' 0 64
  | .route e => nth x.routes e
  | .port p k => (nth x.ports p).read k
  | .activity t a => (nth (nth x.tiles t).activity a).setWidth 64
  | .pwrst => wordOf (x.dcap.toNat + x.tokens.toNat * 2 ^ 8 + x.step.toNat * 2 ^ 16 + x.hot.toNat * 2 ^ 20 + x.meas.toNat * 2 ^ 32)
  | .dit n dw =>
    wordOf (([0, 1, 2, 3].map fun k => (nth (nth x.dits n) (Fin.ofNat 4096 (4 * dw.val + k))).toNat * 2 ^ (16 * k)).sum)

/-- A write of a register without behaviour of its own; none for the others. -/
def State.plainWrite (s : State) (d : DieIx) (r : Reg) (v : Word) : Option State :=
  let put (f : Die → Die) : Option State := some (s.modDie d f)
  match r with
  | .dieinfo | .irqheld | .tcstat | .activity .. => some s
  | .dramce => put fun x => { x with dramce := v.setWidth 32 }
  | .fetchce t => some (s.modTile d t fun x => { x with fetchce := v.setWidth 32 })
  | .ctxstat => put fun x => { x with ctxstat := x.ctxstat &&& ~~~(v &&& 0xF#64) }
  | .graph q k =>
    if k = 0 then some (s.modCtx d q fun c => { c with sublo := v }) else if k = 3 then some s else none
  | .irqval => put fun x => { x with irqval := v }
  | .reqstat => put fun x =>
      { x with ibusy := x.ibusy && !v.getLsbD 0, idrop := x.idrop && !v.getLsbD 1, notask := x.notask && !v.getLsbD 2
               pbad := x.pbad && !v.getLsbD 3, pdone := x.pdone && !v.getLsbD 5 }
  | .tcrec => put fun x => { x with tcrec := v &&& 0x00FFFFFFFFFFFFC0#64 }
  | .port p k =>
    match k with
    | 0 => some ((s.modPort d p fun x => { x with replays := v.setWidth 32 }).linkEvent d p)
    | 3 => some (s.modPort d p fun x => { x with doneBit := x.doneBit && !v.getLsbD 3, err := x.err && !v.getLsbD 2 })
    | 4 => some s
    | _ => none
  | .pwrst => put fun x => { x with dcap := v.setWidth 8 }
  | _ => none

/-- A write of any register. -/
def State.regWrite (s : State) (d : DieIx) (r : Reg) (v : Word) : State :=
  match s.plainWrite d r v with
  | some s1 => s1
  | none =>
    match r with
    | .atmode => s.modDie d fun x => { x with atmode := v.getLsbD 0 }
    | .wbcmd => s.modDie d fun x => x.writeWbcmd v
    | .ctx i dw => s.writeCtx d i dw.val v
    | .partition k => s.writePartition d k v
    | .graph q k =>
      if k = 1 then (if (s.ctxAt d q).entry.state = 0 then s else s.submit d q (v ++ (s.ctxAt d q).sublo))
      else s.modCtx d q fun c => c.clearGq v
    | .irqcmd => s.writeIrqcmd d v
    | .precmd => s.writePrecmd d v
    | .tccmd => s.writeTccmd d v
    | .access p e upper => s.modDie d fun x => x.writeAccess p e upper v
    | .route e => s.modDie d fun x => x.writeRoute e v
    | .port p k => if k = 1 then s.writeThreshold d p v else s.writeLctl d p v
    | .dit n dw => s.modDie d fun x => x.writeDit n dw v
    | _ => s

/-- DIE_REGISTER_WRITE: a write of a register that no other row of the table writes. -/
def execDieRegisterWrite (d : DieIx) (offset : Nat) (word : BitVec 64) (s : State) : Out :=
  match (if offset % 8 = 0 then regAt offset else none) with
  | some r =>
    match s.plainWrite d r word with
    | some s1 => s.atDie d s1
    | none => .fault .notEnabled
  | none => .fault .notEnabled

end Sys2Proof.Machine
end

