-- ==== Sys2Proof/Machine/Items.lean ====
section
/-!
DEFINITION. An item of a copy record at its home (R338 to R343, R313, R465): its index entry, its accesses one after
another, what lands in the tile, and what it leaves for its status and its barrier object.
-/
namespace Sys2Proof.Machine

/-! ### Accesses of an item -/

/-- What the accesses of an item have left: the state, the cells that land with their first cell, and the first
failure. -/
structure ItemRun where
  s     : State
  cells : List (Nat × List Byte) := []
  fail  : Option Failed := none
  /-- A page of host memory that is not there: how an access to it fails (R338, R339). -/
  gone  : Option Failed := none

/-- How an access fails that lies in a page of host memory that is not there. -/
def missing (gone : Option Failed) (x : Place) (va : Word) : Option Failed :=
  gone.filter fun f => decide (0xC000000000 ≤ x.local_) && decide (f.2.toNat / 65536 = va.toNat / 65536)

/-- The bytes at a place as they stand, without any check: what a partial write of a byte keeps. -/
def State.rawBytes (s : State) (p : Place) (n : Nat) : List Byte :=
  match s.findDie p.die with
  | none => List.replicate n 0
  | some d =>
    match region p.local_ with
    | .window t off =>
      let x := s.tileAt d t
      (List.range n).map fun i => x.nowByte (x.byRole (pteRole p.leaf) off + i)
    | .host a => s.host.bytes a n
    | _ => (s.dieAt d).dram.bytes p.local_ n

/-! ### Registers of a die (R417) -/

/-- An access of n bytes to a die control register, reading or writing `bs`: at system level, 8 bytes, aligned, and listed. -/
def State.atRegister (s : State) (level : Level) (x : Place) (va : Word) (n : Nat) (bs : Option (List Byte)) :
    Except Failed (State × List Byte) :=
  match s.findDie x.die, region x.local_ with
  | some d, .registers off =>
    if level = .task then .error (0x0021, va)
    else
      match (if n = 8 ∧ off % 8 = 0 then regAt off else none), bs with
      | none, _ => .error (0x0024, physical x.die x.local_)
      | some g, some v => .ok (s.regWrite d g (wordOf (valueOf v)), [])
      | some g, none => .ok (s, bytesOf 8 (s.regRead d g).toNat)
  | _, _ => .error (0x0024, physical x.die x.local_)

/-- The read of a copy item's access: of memory, or of a register. -/
def State.itemRead (s : State) (r : Req) (x : Place) (p : Piece) : Except Failed (State × List Byte) :=
  if x.isRegister then s.atRegister r.level x p.va p.n none else s.placeRead (r.tracked s) x p.va p.n .read

/-- The write of a copy item's access. -/
def State.itemWrite (s : State) (r : Req) (x : Place) (p : Piece) (bs : List Byte) (op : RaceOp) : Except Failed State :=
  if x.isRegister then (s.atRegister r.level x p.va p.n (some bs)).map (·.1) else s.placeWrite (r.tracked s) x p.va bs op

/-- Cells that land join those that landed just before them. -/
def ItemRun.land (a : ItemRun) (dst : Nat) (cs : List Byte) : ItemRun :=
  match a.cells with
  | (d, xs) :: more => if d + xs.length = dst then { a with cells := (d, xs ++ cs) :: more } else { a with cells := (dst, cs) :: a.cells }
  | [] => { a with cells := [(dst, cs)] }

/-- An access has failed; the first failure of an item is its cause. -/
def ItemRun.failed (a : ItemRun) (f : Failed) : ItemRun := { a with fail := a.fail <|> some f }

/-- The cells that fill takes. -/
def CopyItem.fillCells (i : CopyItem) (n : Nat) : List Byte := List.replicate n (if i.half then i.op.fill &&& 0x0F else i.op.fill)

/-- The write of a move of an SE item. -/
def ItemRun.write (a : ItemRun) (r : Req) (i : CopyItem) (op : RaceOp) (p : Piece) (m : Move) (cs : List Byte) : ItemRun :=
  match p.place with
  | none => a.failed (0x0020, p.va)
  | some x =>
    match missing a.gone x p.va with
    | some f => a.failed (f.1, p.va)
    | none =>
      match a.s.itemWrite r x p (cellsInto i.half m.dst (a.s.rawBytes x p.n) cs) op with
      | .ok s1 => { a with s := s1 }
      | .error f => a.failed f

/-- The read of a move of an LE item, which lands. -/
def ItemRun.read (a : ItemRun) (r : Req) (i : CopyItem) (p : Piece) (m : Move) (src : Nat) : ItemRun :=
  match p.place with
  | none => a.failed (0x0020, p.va)
  | some x =>
    match missing a.gone x p.va with
    | some f => a.failed (f.1, p.va)
    | none =>
      match a.s.itemRead r x p with
      | .ok y => { a with s := y.1 }.land m.dst (cellsOf i.half src m.n y.2)
      | .error f => a.failed f

/-- The moves of an item in order, with its memory accesses and the cells that it took from its tile. -/
def ItemRun.moves (a : ItemRun) (r : Req) (i : CopyItem) (op : RaceOp) : List Move → List Piece → List Byte → ItemRun
  | [], _, _ => a
  | m :: ms, ps, data =>
    if i.engine = .se then
      let (cs, data') := if m.src.isSome then (data.take m.n, data.drop m.n) else (i.fillCells m.n, data)
      match ps with
      | p :: ps => (a.write r i op p m cs).moves r i op ms ps data'
      | [] => a
    else
      match m.src with
      | none => (a.land m.dst (i.fillCells m.n)).moves r i op ms ps data
      | some src =>
        if i.op.vsrc then
          match ps with
          | p :: ps => (a.read r i p m src).moves r i op ms ps data
          | [] => a
        else (a.land m.dst (data.take m.n)).moves r i op ms ps (data.drop m.n)

/-! ### What lands -/

/-- Runs of cells as bytes, each with its first byte: a run of half bytes without those at its ends that have no other
half. -/
def CopyItem.landing (i : CopyItem) (cells : List (Nat × List Byte)) : List (Nat × List Byte) :=
  let base := i.slot.getD 0
  cells.reverse.filterMap fun c =>
    if !i.half then some (base + c.1, c.2)
    else
      let xs := c.2.drop (c.1 % 2)
      if xs.length < 2 then none else some (base + (c.1 + 1) / 2, unhalves (xs.take (xs.length / 2 * 2)))

/-- The half bytes at the ends of runs; their other halves stay as they are when the item lands (R341). -/
def CopyItem.edges (i : CopyItem) (cells : List (Nat × List Byte)) : List (Bool × Nat × Bool × Byte) :=
  let base := i.slot.getD 0
  if !i.half then []
  else
    cells.reverse.flatMap fun c =>
      let head := if c.1 % 2 = 1 then (c.2.take 1).map fun v => (i.slot.isSome, base + c.1 / 2, true, v) else []
      let xs := c.2.drop (c.1 % 2)
      head ++ (if xs.length % 2 = 1 then (xs.drop (xs.length - 1)).map fun v => (i.slot.isSome, base + (c.1 + c.2.length) / 2, false, v)
        else [])

/-- The response of an item: what lands, or the stream entry, which a failure fills (R340); with a command block its
status, else its fault (R338). -/
def CopyItem.response (i : CopyItem) (flags : BitVec 8) (cells : List (Nat × List Byte)) (fail : Option Failed) :
    Response :=
  let bytes := if fail.isSome then [] else cells.reverse.flatMap (·.2)
  let stream := i.stream.map fun x =>
    (x.1, x.2, vecOf (if fail.isSome then List.replicate 512 i.op.fill else bytes))
  let lands := if i.engine = .le && i.stream.isNone then i.landing cells else []
  { edges := if i.engine = .le && i.stream.isNone then i.edges cells else []
    sp := if i.slot.isNone then lands else [], slot := if i.slot.isSome then lands else [], stream
    status := i.blockAt.map fun b => (b, fail.map (·.1), flags, i.t)
    fault := if i.blockAt.isSome then none else fail }

/-! ### The index and the checks of an item whose index lies in memory (R342, R465) -/

/-- The checks of an item's own side for an index that has come from memory: range and slot (R335). -/
def State.lateCheck (s : State) (i : CopyItem) (r : Req) (ms : List Move) : Option Failed :=
  let t := s.tileAt r.die r.tile
  let rng := ((i.spRanges false false ms).find? fun p => decide (0x200000 < p.1 + p.2)).map fun p => ((0x0005, BitVec.ofNat 64 p.1) : Failed)
  let land := if i.slot.isSome && ms.any fun m =>
      decide (t.slotSize i.tail.ctl.lslot < (cellBytes i.half m.dst m.n).1 + (cellBytes i.half m.dst m.n).2) then
      some ((0x000A, BitVec.ofNat 64 (i.tail.ctl.lslot.val * 2 ^ 60 + i.dst.toNat % 2 ^ 60)) : Failed)
    else none
  rng <|> land

/-- A key page that kgath reads has the KD and KT of the leaf that fixed KPS (R340). -/
def CopyItem.pageOk (i : CopyItem) (x : Place) : Bool :=
  let kps := keyPageSize (pteKd x.leaf) (pteKt x.leaf)
  x.isKey && decide (BitVec.ofNat 3 (pteKd x.leaf * 2 + (pteKt x.leaf).toNat) = i.key) && decide (x.pageOffset % kps = 0)
    && decide (x.pageOffset / kps < x.size / kps)

/-! ### The item -/

/-- What an item has come to: the state, its request with its barrier object placed, its response, the failure, and
whether it makes no addition. -/
structure ItemEnd where
  s     : State
  req   : Req
  resp  : Response
  fail  : Option Failed := none
  noAdd : Bool := false

/-- An item that has performed nothing. -/
def State.itemFails (s : State) (r : Req) (i : CopyItem) (f : Failed) (noAdd : Bool := false) : ItemEnd :=
  { s, req := r, resp := i.response 0 [] (some f), fail := some f, noAdd }

/-- The accesses of an item whose index is known and whose pieces are placed. -/
def State.runItem (s : State) (r : Req) (i : CopyItem) (idx : Nat) (pieces : List Piece) (gone : Option Failed) : ItemEnd :=
  let ms := i.moves idx
  let op : RaceOp := match r.pieces.head?.bind (·.place) with
    | some x => if i.blk 16 8 = 0 then .write else
        let bar := x.die.toNat * 2 ^ 40 + x.local_
        .counted bar (s.phaseAt bar)
    | none => .write
  let badPage := i.cmd.isKgath && (match pieces with
    | p :: _ => !(p.place.any i.pageOk)
    | [] => false)
  if badPage then s.itemFails r i (0x0021, (pieces.head?.map (·.va)).getD 0)
  else
    let a := ({ s, gone } : ItemRun).moves r i op ms pieces i.data
    { s := a.s, req := r, resp := i.response (i.flags idx) a.cells a.fail, fail := a.fail }

/-- An item whose index entry lies in memory: its barrier object is checked first, then the entry is read, and the row
that it selects is checked as a whole (R338, R342, R465). Bytes of its own scratchpad that the index selects are those of
the issue cycle (R335). -/
def State.runIndexed (s : State) (r : Req) (i : CopyItem) (va : Word) (gone : Option Failed) : ItemEnd :=
  match s.placeBar r i with
  | (s0, .error f) => s0.itemFails r i f true
  | (s0, .ok bar) =>
    let r := { r with pieces := bar }
    if i.keyFail ≠ 0 then s0.itemFails r i (i.keyFail, i.src)
    else
      match gone.filter fun f => decide (f.2 = va) with
      | some f => s0.itemFails r i f
      | none =>
        match s0.freeRead r va .read 4 with
        | .error f => s0.itemFails r i f
        | .ok (s1, bs) =>
          let idx := valueOf bs
          let i := { i with index := some idx }
          match s1.lateCheck i r (i.moves idx) with
          | some f => s1.itemFails r i f
          | none =>
            match s1.placePieces r ((i.pieces idx).drop bar.length) with
            | (s2, .error f) => s2.itemFails r i f
            | (s2, .ok ps) =>
              s2.runItem r { i with data := (i.rows.map fun sp => i.sourceCells sp idx).getD i.data } idx ps gone

/-- A copy item is performed; `gone` names a page of host memory that is not there. -/
def State.performCopy (s : State) (r : Req) (i : CopyItem) (gone : Option Failed := none) : ItemEnd :=
  match i.indexVa with
  | some va => s.runIndexed r i va gone
  | none =>
    if i.keyFail ≠ 0 then s.itemFails r i (i.keyFail, i.src)
    else s.runItem r i (i.index.getD 0) (if i.blk 16 8 = 0 then r.pieces else r.pieces.drop 1) gone

/-- The request of an item that has been performed at die h: it waits for its addition, or is answered (R313, R465). -/
def ItemEnd.close (e : ItemEnd) (h : DieIx) : State :=
  let s1 := if e.fail.isSome then e.s.markRun e.req else e.s
  let s2 := match e.fail with
    | some f => if refusal f then s1.discardBehind e.req f else s1
    | none => s1
  s2.setReq (if e.req.addsLater && !e.noAdd then { e.req with resp := e.resp, stage := .adding } else e.req.answered h e.resp)

/-- BARRIER_ADD: the item's bytes are added to its barrier object, and its request is answered from there (R399, R465). An
overflow is a due-cycle trap at the item's due cycle. -/
def execBarrierAdd (req : Nat) (s : State) : Out :=
  match s.findReq req with
  | none => .fault .notEnabled
  | some r =>
    match r.stage, r.kind, r.pieces.head? with
    | .adding, .copy i, some p =>
      (match p.place with
        | none => .fault .notEnabled
        | some x =>
          let h := (s.findDie x.die).getD r.target
          if !s.linkedTo r.target x.die then .fault .notEnabled
          else match s.barrierAdd r x p.va i.bytes with
          | (.error f, _) =>
            let resp : Response := { r.resp with
              status := r.resp.status.map fun y => (y.1, y.2.1 <|> some f.1, y.2.2)
              fault := if i.blockAt.isSome then r.resp.fault else r.resp.fault <|> some f }
            .next ((s.markRun r).setReq (r.answered h resp))
          | (.ok s1, excess) =>
            .next (s1.setReq (r.answered h (if excess then { r.resp with fault := r.resp.fault <|> some (0x0015, p.va) } else r.resp))))
    | _, _, _ => .fault .notEnabled

end Sys2Proof.Machine
end

