-- ==== Sys2Proof/Machine/Tables.lean ====
section
/-!
DEFINITION. The table operations at the dispatcher and the router: layouts (R360 to R363), schedules and reduction slots
(R365 to R369), routes (R373), interleave and access tables (R389, R390), translation generations (R391, R392).
-/
namespace Sys2Proof.Machine

/-- What a table operation answers: its status. -/
def Req.status (r : Req) (v : Word) : Response := { x := r.d.map fun i => (i, v) }

/-- The plain reads of a table image: n bytes from va on, one granule after another (R355). -/
def State.imageRead (s : State) (r : Req) : List (Word × Nat) → Except Failed (State × List Byte)
  | [] => .ok (s, [])
  | g :: gs =>
    match s.freeRead r g.1 .read g.2 with
    | .error f => .error f
    | .ok (s1, bs) =>
      match s1.imageRead r gs with
      | .error f => .error f
      | .ok (s2, more) => .ok (s2, bs ++ more)

/-- The image of n bytes at va. -/
def State.image (s : State) (r : Req) (va : Word) (n : Nat) : Except Failed (State × List Byte) :=
  if n = 0 then .ok (s, []) else s.imageRead r (granules va n)

/-- Bytes i to i + n - 1 of an image as a number. -/
def part (bs : List Byte) (i n : Nat) : Nat := valueOf ((bs.drop i).take n)

/-! ### Layout records (R360, R361, R363) -/

/-- The 64 bytes of a sampled record. -/
def recordOf (bs : List Byte) : BitVec 512 := BitVec.ofNat 512 (valueOf (bs.take 64))

/-- Addresses checked for an access in order; the first failure ends it. -/
def State.checkAll (s : State) (r : Req) (a : Access) : List Word → State × Except Failed (List Place)
  | [] => (s, .ok [])
  | va :: more =>
    match s.fullCheck r.die (r.who s) a va with
    | (s1, .fail c v) => (s1, .error (c, v))
    | (s1, .ok x) =>
      let (s2, xs) := s1.checkAll r a more
      (s2, xs.map fun xs => x :: xs)

/-- The ends of the boxes of a record's shards, each to be reachable with R and W. -/
def Layout.boxEnds (l : Layout) : List Word :=
  (List.range l.shards).flatMap fun k => [wordOf (l.base + k * l.shs), wordOf (l.base + k * l.shs + l.boxBytes - 1)]

/-- lyc (R360): V and CHK land with the status. -/
def State.performLyc (s : State) (r : Req) (off : Word) : Performed :=
  let w := recordOf r.operand
  let l := layoutOf w
  if !recordOffset off || !l.valid then .error (0x0013, off)
  else
    match s.checkAll r .both l.boxEnds with
    | (_, .error f) => .error f
    | (s1, .ok _) =>
      let v : Byte := BitVec.ofNat 8 (field w 7 1) ||| 0x80
      .ok (s1, { r.status 0 with sp := [(off.toNat + 7, [v]), (off.toNat + 14, bytesOf 2 (layoutStamp w))] })

/-- lyq (R363). -/
def State.performLyq (s : State) (r : Req) (off arg : Word) (what : BitVec 8) : Performed :=
  let w := recordOf r.operand
  let l := layoutOf w
  let x := arg.toNat
  let none_ : Word := 0xFFFFFFFFFFFFFFFF
  let near (up : Bool) : Word := if l.nd ≤ x then none_ else ((l.neighbour l.rank x up).map wordOf).getD none_
  if !recordOffset off || !layoutUsable w then .error (0x0013, off)
  else
    .ok (s, r.status (match what.toNat with
      | 0 => wordOf l.boxBytes
      | 1 => if l.shards ≤ x then none_ else wordOf (l.base + x * l.shs)
      | 2 => near true
      | _ => near false))

/-! ### Time slots and reduction slots (R366, R367) -/

/-- An entry of a time-slot image: tile, engine bit, start, count, gap. -/
structure SlotEntry where
  tile  : Nat
  eng   : Bool
  start : Nat
  count : Nat
  gap   : Nat
  deriving DecidableEq, Repr

/-- The fields of an entry. -/
def slotEntry (w : Word) : SlotEntry :=
  { tile := w.toNat % 64, eng := w.getLsbD 6, start := (w.extractLsb' 8 16).toNat, count := (w.extractLsb' 24 16).toNat
    gap := (w.extractLsb' 40 8).toNat }

/-- The phase cycle of the last slot of an entry. -/
def SlotEntry.last (e : SlotEntry) : Nat := e.start + (e.count - 1) * e.gap

/-- Entries of one tile and engine follow each other in time. -/
def slotsRise : List SlotEntry → Bool
  | [] => true
  | e :: es => (es.all fun f => !(decide (f.tile = e.tile) && f.eng == e.eng) || decide (e.last < f.start)) && slotsRise es

/-- The table of a well-formed time-slot image, given its header and its entries. -/
def timeSlotsOf (head : Nat) (ws : List Word) : Option TimeSlots :=
  let clen := head % 2 ^ 16
  let es := ws.map slotEntry
  let fits (e : SlotEntry) : Bool := decide (1 ≤ e.count) && decide (1 ≤ e.gap) && decide (e.last < clen)
  if clen ≠ 0 ∧ head / 2 ^ 32 = 0 ∧ head / 2 ^ 16 % 2 ^ 16 ≤ 4096 ∧ (ws.all fun w => decide (w &&& 0xFFFF000000000080#64 = 0))
      ∧ es.all fits ∧ slotsRise es then
    some { clen, entries := ws }
  else none

/-- A reduction slot of an image; none when it is malformed by its own bytes. -/
def redSlotOf (bs : List Byte) : Option RedSlot :=
  let et := part bs 12 1
  let mode := part bs 13 1
  let w := if et = 9 then 2 else 4
  if [9, 11, 13].contains et && (decide (mode ≤ 1) || (decide (mode = 2) && decide (et = 11))) && decide (part bs 14 2 = 0)
      && decide (part bs 20 12 = 0) && decide (part bs 16 4 ≠ 0) && decide (part bs 0 8 % w = 0) then
    some { tbase := wordOf (part bs 0 8), tlen := BitVec.ofNat 32 (part bs 8 4), et := BitVec.ofNat 8 et, mode := BitVec.ofNat 8 mode
           g := BitVec.ofNat 32 (part bs 16 4) }
  else none

/-- Bytes of the target of a reduction slot. -/
def RedSlot.targetBytes (x : RedSlot) : Nat := x.tlen.toNat * (if x.et = 9 then 2 else 4)

/-- Every byte of a slot's target is homed on the loading die, with rights R and W. -/
def State.targetHere (s : State) (r : Req) (x : RedSlot) : State × Bool :=
  let (s1, xs) := s.checkAll r .both ((granules x.tbase x.targetBytes).map (·.1))
  (s1, match xs with
    | .ok ps => ps.all fun p => decide (p.die = (s.dieAt r.die).id)
    | .error _ => false)

/-- The table of a reduction-slot image. -/
def State.redSlotsOf (s : State) (r : Req) (bs : List Byte) : State × Option (List (Nat × RedSlot)) :=
  (List.range 256).foldl (fun acc i =>
    match acc with
    | (s, none) => (s, none)
    | (s, some out) =>
      let e := (bs.drop (32 * i)).take 32
      if part e 8 4 = 0 then (s, some out)
      else
        match redSlotOf e with
        | none => (s, none)
        | some x =>
          let (s1, here) := s.targetHere r x
          (s1, if here then some (out ++ [(i, x)]) else none)) (s, some [])

/-- tsld slots. -/
def State.loadSlots (s : State) (r : Req) (q : Fin 16) (va : Word) : Performed :=
  if (s.ctxAt r.die q).slotsNew.isSome then .ok (s, r.status 1)
  else if va.toNat % 64 ≠ 0 then .ok (s, r.status 2)
  else
    match s.image r va 16 with
    | .error f => .error f
    | .ok (s1, h) =>
      let n := part h 2 2
      if 4096 < n then .ok (s1, r.status 2)
      else
        match s1.image r (va + 16) (8 * n) with
        | .error f => .error f
        | .ok (s2, bs) =>
          match timeSlotsOf (valueOf h) ((List.range n).map fun i => wordOf (part bs (8 * i) 8)) with
          | none => .ok (s2, r.status 2)
          | some t => .ok (s2.modCtx r.die q fun c => { c with slotsNew := some t }, r.status 0)

/-- tsld red. -/
def State.loadRed (s : State) (r : Req) (q : Fin 16) (va : Word) : Performed :=
  if (s.ctxAt r.die q).redNew.isSome then .ok (s, r.status 1)
  else
    match s.image r va 8192 with
    | .error f => .error f
    | .ok (s1, bs) =>
      match s1.redSlotsOf r bs with
      | (s2, none) => .ok (s2, r.status 2)
      | (s2, some t) => .ok (s2.modCtx r.die q fun c => { c with redNew := some t }, r.status 0)

/-- tsld (R367). -/
def State.performTsld (s : State) (r : Req) (va : Word) (red : Bool) : Performed :=
  match (s.dieAt r.die).findCtx r.ctxid with
  | none => .ok (s, r.status 2)
  | some q => if red then s.loadRed r q va else s.loadSlots r q va

/-! ### Routes (R373) -/

/-- A route entry that rtld refuses. -/
def routeBad (e : Word) : Bool :=
  let port := (e.extractLsb' 25 3).toNat
  decide (2 ^ 30 ≤ e.toNat) || (routeValid e && (decide (port = 0) || decide (port = 7)))

/-- rtld. An image with n = 0 answers status 1 as one whose entries do not fit. DESIGN CHOICE (log 89). -/
def State.performRtld (s : State) (r : Req) (va first : Word) : Performed :=
  match s.image r va 8 with
  | .error f => .error f
  | .ok (s1, h) =>
    let n := valueOf h
    if n = 0 ∨ 768 < first.toNat + n then .ok (s1, r.status 1)
    else
      match s1.image r (va + 8) (8 * n) with
      | .error f => .error f
      | .ok (s2, bs) =>
        let es := (List.range n).map fun i => wordOf (part bs (8 * i) 8)
        if es.any routeBad then .ok (s2, r.status 2)
        else
          let put (t : Vector Word 1024) (e : Word × Nat) : Vector Word 1024 := upd t (Fin.ofNat 1024 (first.toNat + e.2)) e.1
          .ok (s2.modDie r.die fun x => { x with routes := es.zipIdx.foldl put x.routes }, r.status 0)

/-! ### Interleave and access tables (R389, R390) -/

/-- Die IDs as an image holds them, 16 bits each. -/
def idsOf (n : Nat) (bs : List Byte) : List Nat := (List.range n).map fun i => part bs (2 * i) 2

/-- Numbers that strictly rise. -/
def rises : List Nat → Bool
  | a :: b :: more => decide (a < b) && rises (b :: more)
  | _ => true

/-- A resident context of a die selects an interleave table. -/
def Die.ditResident (x : Die) (n : Nat) : Bool :=
  (List.finRange 16).any fun q =>
    let e := (nth x.ctxs q).entry
    (decide (e.state = 1) || decide (e.state = 3)) && decide (e.ditsel.toNat = n)

/-- ditw. Status 3 is answered before the image is read. DEDUCED (log 52). -/
def State.performDitw (s : State) (r : Req) (sel va : Word) (load : Bool) : Performed :=
  let n := (sel.extractLsb' 16 13).toNat
  let bad := decide (sel &&& 0xFFFFFFFFE000FFFC#64 ≠ 0) || (if load then decide (n ≠ 0) else decide (n < 1) || decide (4096 < n))
  let table := sel.toNat % 4
  if bad then .ok (s, r.status 1)
  else if (s.dieAt r.die).ditResident table then .ok (s, r.status 3)
  else
    let count := if load then 4096 else n
    match s.image r va (2 * count) with
    | .error f => .error f
    | .ok (s1, bs) =>
      let ids := idsOf count bs
      if (ids.all fun i => decide (i < 4096) && (s1.isLive (BitVec.ofNat 12 i) || s1.isAway (BitVec.ofNat 12 i))) && (load || rises ids) then
        let t : Vector (BitVec 12) 4096 := Vector.ofFn fun i => BitVec.ofNat 12 (part bs (2 * (i.val % count)) 2)
        .ok (s1.modDie r.die fun x => { x with dits := upd x.dits (Fin.ofNat 4 table) t }, r.status 0)
      else .ok (s1, r.status 2)

/-- atw. -/
def State.performAtw (s : State) (r : Req) (sel lo hi : Word) : Performed :=
  let v : BitVec 128 := hi ++ lo
  if 128 ≤ sel.toNat ∨ sel.toNat % 8 = 7 then .ok (s, r.status 1)
  else if v &&& ~~~accessMask ≠ 0 then .ok (s, r.status 2)
  else
    let p : Fin 7 := Fin.ofNat 7 (sel.toNat % 8)
    let e : Fin 16 := Fin.ofNat 16 (sel.toNat / 8)
    .ok (s.modDie r.die fun x => { x with access := upd x.access p (upd (nth x.access p) e v) }, r.status 0)

/-! ### Translation generations (R391, R392) -/

/-- Whether a generation is older than another. -/
def genOlder (g now : BitVec 16) : Bool := decide (1 ≤ (now - g).toNat) && decide ((now - g).toNat ≤ 32767)

/-- TLB entries that a tlbinv leaves. -/
def tlbKeep (what : BitVec 8) (va asid : Word) (ts : List TlbEntry) : List TlbEntry :=
  ts.filter fun t => match what.toNat with
    | 0 => !t.hits (asid.setWidth 16) va
    | 1 => decide (t.asid ≠ asid.setWidth 16)
    | _ => false

/-- What a tlbinv does to a die at once. -/
def Die.invalidate (x : Die) (what : BitVec 8) (va asid : Word) : Die :=
  let tile (t : Tile) : Tile := { t with tlb := tlbKeep what va asid t.tlb, icache := [] }
  { x with
    gen := x.gen + 1, tlb2 := tlbKeep what va asid x.tlb2, itlb := tlbKeep what va asid x.itlb, tiles := x.tiles.map tile }

/-- The tlbinv operations in progress in a partition. -/
def State.tlbinvs (s : State) (d : DieIx) : Nat :=
  (s.reqs.filter fun r => decide (r.stage = .waiting) && (s.partition d).contains r.die &&
    (match r.kind with
      | .tlbinv .. => true
      | _ => false)).length

/-- tlbinv begins on every die of the partition, or is refused. -/
def State.beginTlbinv (s : State) (r : Req) (va asid : Word) (what : BitVec 8) : State :=
  if 2 ^ 56 ≤ va.toNat ∨ 0xFFFF < asid.toNat then s.finishReq r r.die (r.status 1)
  else
    let s1 := (s.partition r.die).foldl (fun s d => s.modDie d fun x => x.invalidate what va asid) s
    s1.setReq { r with stage := .waiting }

/-- TLBINV_COMPLETE: no egress queue of the partition holds an older entry. -/
def execTlbinvComplete (req : Nat) (s : State) : Out :=
  match s.findReq req with
  | none => .fault .notEnabled
  | some r =>
    match r.kind with
    | .tlbinv .. =>
      let old (d : DieIx) : Bool := (s.dieAt d).ports.toList.any fun p => p.egress.any fun e => genOlder e.gen (s.dieAt d).gen
      if r.stage = .waiting ∧ !(s.partition r.die).any old then .next (s.finishReq r r.die (r.status 0)) else .fault .notEnabled
    | _ => .fault .notEnabled

end Sys2Proof.Machine
end

