-- ==== Sys2Proof/Machine/Collect.lean ====
section
/-!
DEFINITION. Collectives and triggers at the dispatchers and port sequencers: contributions to reduction slots (R316,
R317, R345), ring collectives (R381 to R384), trigger counters (R409 to R411) and trigger entries (R385 to R387).
-/
namespace Sys2Proof.Machine

/-! ### Blocks of memory accessed by the device on behalf of a tile -/

/-- A request that stands for what the device does on behalf of a tile of a die, under a context. -/
def State.agentReq (s : State) (d : DieIx) (q : Fin 16) (t : TileIx) (l : Level) (seg : BitVec 32) : Req :=
  let e := (s.ctxAt d q).entry
  { id := s.nextReq, die := d, tile := t, agent := .cc, level := l, ctxid := e.ctxid, asid := e.asid, issued := 0, due := 0
    offs := 0, kind := .delay none, seg }

/-- Writes the granules of a block in order; a failure at a home fails that granule alone. -/
def State.writeGranules (s : State) (r : Req) (op : RaceOp) : List (Word × Place) → List Byte → State × Option Failed
  | [], _ => (s, none)
  | (va, x) :: more, bs =>
    let n := 65536 - va.toNat % 65536
    match s.placeWrite (r.tracked s) x va (bs.take n) op with
    | .ok s1 => s1.writeGranules r op more (bs.drop n)
    | .error f =>
      let (s2, g) := s.writeGranules r op more (bs.drop n)
      (s2, some (g.getD f))

/-- Writes bytes from va on, after every check up to order 7 of R258. -/
def State.blockWrite (s : State) (r : Req) (va : Word) (bs : List Byte) (op : RaceOp) : State × Option Failed :=
  if bs.isEmpty then (s, none)
  else
    let vas := (granules va bs.length).map (·.1)
    match s.checkAll r .write vas with
    | (s1, .error f) => (s1, some f)
    | (s1, .ok ps) => s1.writeGranules r op (vas.zip ps) bs

/-- A barrier object of the device's own writes: checked as R465 has it; none when there is none. -/
def State.barPlace (s : State) (r : Req) (bar : Word) : State × Except Failed (Option Place) :=
  if bar = 0 then (s, .ok none)
  else
    match s.fullCheck r.die (r.who s) .both bar with
    | (s1, .fail c v) => (s1, .error (c, v))
    | (s1, .ok x) => (s1, if inDram x.local_ && !x.isKey then .ok (some x) else .error (0x0021, bar))

/-- How the device's writes that complete into a barrier object are tracked (R313). -/
def State.countedInto (s : State) (bar : Option Place) : RaceOp :=
  match bar with
  | none => .write
  | some x =>
    let b := x.die.toNat * 2 ^ 40 + x.local_
    .counted b (s.phaseAt b)

/-- The addition of n bytes to a barrier object; the cause when it is refused. -/
def State.addBytes (s : State) (r : Req) (bar : Option Place) (va : Word) (n : Nat) : State × Option (BitVec 16) :=
  match bar with
  | none => (s, none)
  | some x =>
    match s.barrierAdd r x va n with
    | (.ok s1, excess) => (s1, if excess then some 0x0015 else none)
    | (.error f, _) => (s, some f.1)

/-! ### Contributions (R316, R317) -/

/-- The sum of R316 and R384 of two elements of a type. -/
def foldAdd (et : Byte) (sat : Bool) (a b : Nat) : Nat :=
  if et = 11 then
    let v := readInt true 32 a + readInt true 32 b
    let v := if sat then max (-(2 ^ 31 : Int)) (min (2 ^ 31 - 1) v) else v
    (v % 2 ^ 32).toNat
  else
    let f := (if et = 9 then ElemType.bf16 else ElemType.f32).fmt
    f.round {} ((f.value a).add (f.value b))

/-- Bytes of an element of a reduction slot. -/
def foldBytes (et : Byte) : Nat := if et = 9 then 2 else 4

/-- One grain folded: a destination's elements from index k on. Elements that the grain does not cover keep what they have,
and those that no grain covers are never written. DESIGN CHOICE (log 91). -/
def RedSlot.fold (x : RedSlot) (mem : Nat → Nat) (k : Nat) (bs : List Byte) : RedSlot :=
  let w := foldBytes x.et
  let one (acc : List (Nat × BitVec 32)) (i : Nat) : List (Nat × BitVec 32) :=
    let c := part bs (w * i) w
    let e := k + i
    let old := (acc.find? fun p => decide (p.1 = e)).map fun p => p.2.toNat
    let v := match old with
      | some a => foldAdd x.et (x.mode = 2) a c
      | none => if x.mode = 0 then c else foldAdd x.et (x.mode = 2) (mem e) c
    (e, BitVec.ofNat 32 v) :: acc.filter fun p => !decide (p.1 = e)
  { x with next := x.next + 1, acc := (List.range (bs.length / w)).foldl one x.acc }

/-- A reduction slot replaced. -/
def CtxDie.setRed (c : CtxDie) (i : Nat) (x : RedSlot) : CtxDie :=
  { c with red := c.red.map fun p => if p.1 = i then (i, x) else p }

/-- What an element of a slot's target holds. Every byte of the target is homed on the slot's own die (R367). -/
def State.targetElement (s : State) (r : Req) (x : RedSlot) (e : Nat) : Nat :=
  let w := foldBytes x.et
  let va := x.tbase + wordOf (w * e)
  match (s.fullCheck r.die (r.who s) .both va).2 with
  | .ok p => valueOf (s.rawBytes p w)
  | .fail _ _ => 0

/-- The sums of a slot whose grains have all arrived are written to its target. -/
def State.writeTarget (s : State) (r : Req) (x : RedSlot) : State :=
  let w := foldBytes x.et
  x.acc.foldl (fun s p =>
    let va := x.tbase + wordOf (w * p.1)
    match s.fullCheck r.die (r.who s) .both va with
    | (s1, .fail _ _) => s1
    | (s1, .ok y) =>
      match s1.placeWrite { r.tracked s1 with untracked := true } y va (bytesOf w p.2.toNat) .syncWrite with
      | .ok s2 => s2
      | .error _ => s1) s

/-- Waiting contributions are folded as far as their turn has come, and each is answered. -/
def State.foldWaiting (s : State) (d : DieIx) (q : Fin 16) (i : Nat) : Nat → State
  | 0 => s
  | n + 1 =>
    match ((s.ctxAt d q).red.find? fun p => decide (p.1 = i)).map (·.2) with
    | none => s
    | some x =>
      match x.waiting.find? fun w => decide (w.1 = x.next) with
      | none => s
      | some (_, va, bs, id) =>
        let k := (va - x.tbase).toNat / foldBytes x.et
        match s.findReq id with
        | none => s.modCtx d q fun c => c.setRed i { x with waiting := x.waiting.filter fun w => !decide (w.2.2.2 = id) }
        | some r =>
          let y := x.fold (s.targetElement r x) k bs
          let y := { y with waiting := y.waiting.filter fun w => !decide (w.2.2.2 = id) }
          let resp : Response := match r.kind with
            | .copy c => { status := c.blockAt.map fun b => (b, none, 0, c.t) }
            | _ => {}
          let s1 := (s.modCtx d q fun c => c.setRed i y).finishReq r d resp
          let s2 := if y.next = y.g.toNat then s1.writeTarget r y else s1
          s2.foldWaiting d q i n

/-- A second contribution of a grain whose turn has passed is refused, and its slot has failed. -/
def State.refuseSpent (s : State) (d : DieIx) (q : Fin 16) (i : Nat) : State :=
  match ((s.ctxAt d q).red.find? fun p => decide (p.1 = i)).map (·.2) with
  | none => s
  | some x =>
    let (gone, stay) := x.waiting.partition fun w => decide (w.1 < x.next)
    if gone.isEmpty then s
    else
      gone.foldl (fun s w => match s.findReq w.2.2.2 with
        | some r => s.scheduleFault r d i
        | none => s) (s.modCtx d q fun c => c.setRed i { x with waiting := stay, failed := true })

/-- The contributions that wait for their turn, over all slots of the table (R317, R365). -/
def CtxDie.waitingCount (c : CtxDie) : Nat := (c.red.map fun p => p.2.waiting.length).sum

/-- A contribution reaches its slot at die d: it is held for its turn and folded with what waits, or faults (R317, R345). -/
def State.contribute (s : State) (r : Req) (c : CopyItem) (d : DieIx) : State :=
  let slot := c.blk 24 4
  match (s.dieAt d).findCtx r.ctxid with
  | none => s.scheduleFault r d slot
  | some q =>
    match ((s.ctxAt d q).red.find? fun p => decide (p.1 = slot)).map (·.2) with
    | none => s.scheduleFault r d slot
    | some x =>
      let g := c.blk 28 4 + c.t
      let off := (c.dst - x.tbase).toNat
      let w := foldBytes x.et
      let inside := decide (off % w = 0) && decide (off + c.bytes ≤ x.targetBytes)
      let bad := x.failed || decide (c.op.et.code ≠ x.et.toNat) || !inside || decide (g < x.next) || decide (x.g.toNat ≤ g)
        || (decide (g ≠ x.next) && decide (256 ≤ (s.ctxAt d q).waitingCount))
      if bad then (s.modCtx d q fun y => y.setRed slot { x with failed := true }).scheduleFault r d slot
      else
        let s1 := s.modCtx d q fun y => y.setRed slot { x with waiting := x.waiting ++ [(g, c.dst, c.data, r.id)] }
        ((s1.setReq { r with stage := .waiting }).foldWaiting d q slot 257).refuseSpent d q slot

/-- The race check of a contribution: a synchronising write of its bytes (R301, R316). -/
def State.trackPieces (s : State) (r : Req) (op : RaceOp) : List Piece → Except Failed State
  | [] => .ok s
  | p :: ps =>
    match p.place with
    | none => .error (0x0020, p.va)
    | some x =>
      match s.findDie x.die with
      | none => .error (0x0023, physical x.die x.local_)
      | some d =>
        match s.track d (r.tracked s) x p.va p.n op with
        | .error f => .error f
        | .ok s1 => s1.trackPieces r op ps

/-- A contribution to a slot of another package. -/
def State.contributeAway (s : State) (r : Req) (c : CopyItem) : State :=
  match s.awayRead (r.tracked s) c.dst 0 with
  | .ok _ => s.finishReq r r.target { status := c.blockAt.map fun b => (b, none, 0, c.t) }
  | .error f => s.failReq r r.target f

/-- CONTRIBUTION_ARRIVAL. -/
def execContributionArrival (req : Nat) (s : State) : Out :=
  match s.findReq req with
  | none => .fault .notEnabled
  | some r =>
    match r.kind with
    | .copy c =>
      if decide (r.stage = .home) && c.cmd.isCred && s.inTurn r then
        if r.away.isSome then .next (s.contributeAway r c)
        else match s.trackPieces r .syncWrite (if c.blk 16 8 = 0 then r.pieces else r.pieces.drop 1) with
        | .error f => .next (s.failReq r r.target f)
        | .ok s1 => settled (s1.contribute r c r.target)
      else .fault .notEnabled
    | _ => .fault .notEnabled

/-! ### Ring collectives (R381 to R384) -/

/-- A chunk slot replaced. -/
def CtxDie.setChunk (c : CtxDie) (i : Fin 4) (x : ChunkSlot) : CtxDie := { c with chunks := upd c.chunks i x }

/-- Two dies of the module grid are fabric neighbours (R19). -/
def neighbours (torus : Nat → Nat) (a b : BitVec 12) : Bool :=
  let diff (k : Nat) : Nat := (idCoord a k + torus k - idCoord b k) % torus k
  let one (k : Nat) : Bool := decide (diff k = 1) || decide (diff k = torus k - 1)
  [0, 1, 2].any fun k => one k && [0, 1, 2].all fun j => decide (j = k) || decide (diff j = 0)

/-- Consecutive positions of a ring, the last and the first included, are neighbours. -/
def ringJoined (torus : Nat → Nat) (ids : List (BitVec 12)) : Bool :=
  (ids.zip (ids.drop 1 ++ ids.take 1)).all fun p => neighbours torus p.1 p.2

/-- The slot that a graph image describes for a die; none when it is malformed (R382). -/
def State.chunkOf (s : State) (d : DieIx) (head : List Byte) (ids : List Nat) : Option ChunkSlot :=
  let chunk := part head 4 4
  let dies := ids.map fun i => BitVec.ofNat 12 i
  let ok := decide (part head 0 1 ≤ 3) && [9, 11, 13].contains (part head 1 1) && decide (chunk ≠ 0) && decide (chunk % 512 = 0)
    && decide (chunk ≤ 2 ^ 20) && decide (part head 8 56 = 0) && (ids.all fun i => decide (i < 4096))
    && (dies.all fun i => s.inPartition d i) && decide (dies.eraseDups.length = dies.length)
    && ringJoined (s.dieAt d).torus dies
  match dies.findIdx? fun i => decide (i = (s.dieAt d).id) with
  | some pos =>
    if ok then some { op := BitVec.ofNat 8 (part head 0 1), et := BitVec.ofNat 8 (part head 1 1), chunk, ring := dies, pos, loaded := true }
    else none
  | none => none

/-- fcol load (R382). A slot number above 3 and an image that is not aligned to 64 bytes answer status 2. DESIGN CHOICE
(log 90). -/
def State.performFcolLoad (s : State) (r : Req) (slot va : Word) : Performed :=
  match (s.dieAt r.die).findCtx r.ctxid with
  | none => .ok (s, r.status 2)
  | some q =>
    if 4 ≤ slot.toNat ∨ va.toNat % 64 ≠ 0 then .ok (s, r.status 2)
    else
      let i : Fin 4 := Fin.ofNat 4 slot.toNat
      let old := nth (s.ctxAt r.die q).chunks i
      if old.run.isSome then .ok (s, r.status 1)
      else
        match s.image r va 64 with
        | .error f => .error f
        | .ok (s1, head) =>
          let n := part head 2 2
          if n < 2 ∨ 4096 < n then .ok (s1, r.status 2)
          else
            match s1.image r (va + 64) (2 * n) with
            | .error f => .error f
            | .ok (s2, bs) =>
              match s2.chunkOf r.die head (idsOf n bs) with
              | none => .ok (s2, r.status 2)
              | some x => .ok (s2.modCtx r.die q fun c => c.setChunk i { x with inbox := old.inbox }, r.status 0)

/-- Who makes the accesses of a run. -/
def State.runReq (s : State) (d : DieIx) (q : Fin 16) (x : ChunkSlot) : Req := s.agentReq d q x.tile x.level x.seg

/-- One item of a run in the STATUS of its run block (R337). -/
def State.runStatus (s : State) (d : DieIx) (q : Fin 16) (i : Fin 4) (cause : Option (BitVec 16)) : State :=
  let x := nth (s.ctxAt d q).chunks i
  let r := s.runReq d q x
  match x.run with
  | none => s
  | some (va, _) =>
    let at_ := va + 32
    match s.fullCheck d (r.who s) .both at_ with
    | (s1, .fail _ _) => s1
    | (s1, .ok p) =>
      let old := valueOf (s1.rawBytes p 16)
      let done := old % 2 ^ 32
      let failed := old / 2 ^ 32 % 2 ^ 32
      let (c, t) := match cause with
        | some c => if failed = 0 then (c.toNat, done) else (old / 2 ^ 64 % 2 ^ 16, old / 2 ^ 96)
        | none => (old / 2 ^ 64 % 2 ^ 16, old / 2 ^ 96)
      let v := if cause.isSome then done + (failed + 1) % 2 ^ 32 * 2 ^ 32 else (done + 1) % 2 ^ 32 + failed * 2 ^ 32
      match s1.placeWrite { r.tracked s1 with untracked := true } p at_ (bytesOf 16 (v + c * 2 ^ 64 + t * 2 ^ 96)) .write with
      | .ok s2 => s2
      | .error _ => s1

/-- The chunks of the run's source that this position contributes are read; a reduction takes each from its place among
N (R383). -/
def State.readChunks (s : State) (d : DieIx) (q : Fin 16) (i : Fin 4) (js : List Nat) : State :=
  let x := nth (s.ctxAt d q).chunks i
  match x.run with
  | none => s
  | some (_, src, _, _) =>
    let r := s.runReq d q x
    let a := js.foldl (fun (a : State × List (Nat × Option (BitVec 16) × List Byte)) j =>
      match a.1.image r (src + wordOf (if x.op.toNat ≤ 1 then j * x.chunk else 0)) x.chunk with
      | .ok (s1, bs) => (s1, (j, none, bs) :: a.2)
      | .error f => (a.1, (j, some f.1, []) :: a.2)) (s, [])
    a.1.modCtx d q fun c => c.setChunk i { nth c.chunks i with src := a.2 }

/-- Chunk j of the source as it was read. -/
def ChunkSlot.source (x : ChunkSlot) (j : Nat) : Option (BitVec 16) × List Byte :=
  ((x.src.find? fun c => decide (c.1 = j)).map (·.2)).getD (none, [])

/-- A chunk written to the destination as counted writes; a chunk without bytes fails as an item, and its bytes are
counted all the same (R338, R383). -/
def State.writeChunk (s : State) (d : DieIx) (q : Fin 16) (i : Fin 4) (j : Nat) (cause : Option (BitVec 16)) (bs : List Byte) :
    State :=
  let x := nth (s.ctxAt d q).chunks i
  match x.run with
  | none => s
  | some (_, _, dst, bar) =>
    let r := s.runReq d q x
    match s.barPlace r bar with
    | (s, .error f) => s.runStatus d q i (some f.1)
    | (s, .ok b) =>
      let at_ := dst + wordOf (if x.op = 0 ∨ x.op = 2 then j * x.chunk else 0)
      let (s1, f) := match cause with
        | some _ => (s, none)
        | none => s.blockWrite r at_ bs (s.countedInto b)
      let (s2, excess) := s1.addBytes r b bar x.chunk
      s2.runStatus d q i (cause <|> f.map (·.1) <|> excess)

/-- A chunk goes to the next position of the ring. -/
def State.forwardChunk (s : State) (d : DieIx) (q : Fin 16) (i : Fin 4) (j : Nat) (cause : Option (BitVec 16)) (bs : List Byte) :
    State :=
  let x := nth (s.ctxAt d q).chunks i
  let next := x.ring.getD ((x.pos + 1) % x.ring.length) 0
  match s.findDie next with
  | none => s
  | some h =>
    if !s.live h then s
    else
      match (s.dieAt h).findCtx (s.ctxAt d q).entry.ctxid with
      | none => s
      | some hq => s.modCtx h hq fun c => c.setChunk i { nth c.chunks i with inbox := (nth c.chunks i).inbox ++ [(j, cause, bs)] }

/-- Elements of two chunks added. -/
def addChunks (et : Byte) (a b : List Byte) : List Byte :=
  let w := foldBytes et
  (List.range (a.length / w)).flatMap fun k => bytesOf w (foldAdd et false (part a (w * k) w) (part b (w * k) w))

/-- How many chunks a position receives in a run. -/
def ChunkSlot.receptions (x : ChunkSlot) : Nat :=
  let n := x.ring.length
  match x.op.toNat with
  | 0 => 2 * (n - 1)
  | 3 => if x.pos = 0 then 0 else 1
  | _ => n - 1

/-- A run whose chunks have all come ends. -/
def State.endRun (s : State) (d : DieIx) (q : Fin 16) (i : Fin 4) : State :=
  let x := nth (s.ctxAt d q).chunks i
  if x.run.isSome && decide (x.receptions ≤ x.step) then
    s.modCtx d q fun c => c.setChunk i { x with run := none, step := 0, src := [], runs := x.runs + 1 }
  else s

/-- The die's first step of a run: it reads its chunks of the source, sends one, and writes one of its own. -/
def State.firstStep (s : State) (d : DieIx) (q : Fin 16) (i : Fin 4) : State :=
  let x := nth (s.ctxAt d q).chunks i
  let n := x.ring.length
  let j := if x.op.toNat ≤ 1 then (x.pos + n - 1) % n else x.pos
  if x.op = 3 ∧ x.pos ≠ 0 then s
  else
    let s1 := s.readChunks d q i (if x.op.toNat ≤ 1 then List.range n else [j])
    let (cause, bs) := (nth (s1.ctxAt d q).chunks i).source j
    let s2 := if 2 ≤ x.op.toNat then s1.writeChunk d q i j cause bs else s1
    (s2.forwardChunk d q i j cause bs).endRun d q i

/-- A run starts on a die (R383): its status, or the failure of reading its block. -/
def State.startRun (s : State) (d : DieIx) (q : Fin 16) (slot va : Word) (t : TileIx) (l : Level) (seg : BitVec 32) :
    Except Failed (State × Word) :=
  let i : Fin 4 := Fin.ofNat 4 slot.toNat
  let x := nth (s.ctxAt d q).chunks i
  if 4 ≤ slot.toNat ∨ !x.loaded ∨ x.run.isSome then .ok (s, 1)
  else
    let r := s.agentReq d q t l seg
    match s.image r va 64 with
    | .error f => .error f
    | .ok (s1, bs) =>
      if va.toNat % 64 ≠ 0 ∨ part bs 24 8 ≠ 0 ∨ part bs 48 16 ≠ 0 ∨ part bs 16 8 % 16 ≠ 0 then .ok (s1, 2)
      else
        let run := (va, wordOf (part bs 0 8), wordOf (part bs 8 8), wordOf (part bs 16 8))
        let s2 := s1.modCtx d q fun c => c.setChunk i { x with run := some run, step := 0, tile := t, level := l, seg }
        let s3 := match s2.fullCheck d (r.who s2) .both (va + 32) with
          | (s3, .ok p) =>
            (match s3.placeWrite { r.tracked s3 with untracked := true } p (va + 32) (List.replicate 16 0) .write with
              | .ok s4 => s4
              | .error _ => s3)
          | (s3, .fail _ _) => s3
        .ok (s3.firstStep d q i, 0)

/-- fcol run. -/
def State.performFcolRun (s : State) (r : Req) (slot va : Word) : Performed :=
  match (s.dieAt r.die).findCtx r.ctxid with
  | none => .ok (s, r.status 1)
  | some q => (s.startRun r.die q slot va r.tile r.level r.seg).map fun a => (a.1, r.status a.2)

/-- Whether the links from the ring predecessor carry traffic. -/
def State.chunkLinked (s : State) (d : DieIx) (x : ChunkSlot) : Bool :=
  (s.findDie (x.ring.getD ((x.pos + x.ring.length - 1) % x.ring.length) 0)).all fun e => s.linkedTo e (s.dieAt d).id

/-- The chunk that a run receives in a step from a predecessor in another package: its number follows from the ring, and
nothing is known of its bytes (R1). -/
def ChunkSlot.fromAway (x : ChunkSlot) (key : Nat) : Nat × Option (BitVec 16) × List Byte :=
  let n := x.ring.length
  let k := x.step + 1
  let c := Config.awayCause key 0
  (match x.op.toNat with
    | 0 | 1 => (x.pos + 2 * n - 1 - k % n) % n
    | 2 => (x.pos + n - k % n) % n
    | _ => 0,
    if c = 0 then none else some c, (List.range x.chunk).map fun i => Config.awayByte key (wordOf i))

/-- What a run makes of a chunk that arrives: while the ring still reduces, the sum with its own (R383). -/
def ChunkSlot.taken (x : ChunkSlot) (j : Nat) (cause : Option (BitVec 16)) (bs : List Byte) : Option (BitVec 16) × List Byte :=
  if x.op.toNat ≤ 1 ∧ x.step + 1 ≤ x.ring.length - 1 then
    match cause, x.source j with
    | none, (none, b) => (none, addChunks x.et bs b)
    | none, (some c, _) => (some c, [])
    | some c, _ => (some c, [])
  else (cause, bs)

/-- CHUNK_ARRIVAL: the next chunk from the ring predecessor, for a run that this die has started (R384). -/
def execChunkArrival (d : DieIx) (q : Fin 16) (slot : Fin 4) (s : State) : Out :=
  let y := nth (s.ctxAt d q).chunks slot
  let away := y.inbox.isEmpty && s.isAway (y.ring.getD ((y.pos + y.ring.length - 1) % y.ring.length) 0)
  let s := if away then { s with nextReq := s.nextReq + 1 } else s
  let x := if away then { y with inbox := [y.fromAway s.nextReq] } else y
  let n := x.ring.length
  match x.run, x.inbox with
  | some _, (j, cause, bs) :: more =>
    if !s.live d ∨ !s.chunkLinked d x then .fault .notEnabled
    else
      let k := x.step + 1
      let s1 := s.modCtx d q fun c => c.setChunk slot { x with inbox := more, step := k }
      let c := x.taken j cause bs
      if x.op.toNat ≤ 1 ∧ k < n - 1 then .next (s1.forwardChunk d q slot j c.1 c.2)
      else
        let s2 := s1.writeChunk d q slot j c.1 c.2
        let last := if x.op.toNat ≤ 1 ∧ k ≤ n - 1 then decide (x.op ≠ 0)
          else decide ((x.pos + 1) % n = j) || decide (x.op = 3 ∧ x.pos + 1 = n)
        settled ((if last then s2 else s2.forwardChunk d q slot j c.1 c.2).endRun d q slot)
  | _, _ => .fault .notEnabled

/-! ### Triggers (R385 to R387, R409 to R411) -/

/-- A trigger entry replaced. -/
def CtxDie.setTrigger (c : CtxDie) (i : Fin 16) (x : Trigger) : CtxDie := { c with triggers := upd c.triggers i x }

/-- Term k of a descriptor: enabled, its counter. -/
def Trigger.term (x : Trigger) (k : Nat) : Bool × Fin 8 := ((field x.desc (16 + k) 1).testBit 7, Fin.ofNat 8 (field x.desc (16 + k) 1))

/-- The predicate of a descriptor (R386). -/
def Trigger.holds (x : Trigger) (cs : Vector (BitVec 32) 8) : Bool :=
  let true_ (k : Nat) : Bool := !(x.term k).1 || decide (field x.desc (4 * k) 4 ≤ (nth cs (x.term k).2).toNat)
  let pair (a b : Nat) : Bool := ((x.term a).1 || (x.term b).1) && true_ a && true_ b
  pair 0 1 || pair 2 3

/-- Whether an entry reads a counter. -/
def Trigger.reads (x : Trigger) (k : Fin 8) : Bool := [0, 1, 2, 3].any fun t => (x.term t).1 && decide ((x.term t).2 = k)

/-- A well-formed descriptor. -/
def triggerOk (w : BitVec 512) : Bool :=
  let x : Trigger := { desc := w }
  let act := field w 20 1
  ([0, 1, 2, 3].all fun k => decide (field w (16 + k) 1 / 8 % 16 = 0)) && ([0, 1, 2, 3].any fun k => (x.term k).1)
    && decide (act ≤ 2) && decide (field w 21 11 = 0) && decide (field w 48 16 = 0)
    && (decide (act ≠ 0) || decide (field w 32 8 < 4)) && (decide (act ≠ 2) || decide (field w 32 8 % 8 = 0))

/-- A value of which nothing is known; the count of requests goes on, so that each is a new one. -/
def State.freeCause (s : State) : State × BitVec 16 := ({ s with nextReq := s.nextReq + 1 }, Config.actionCause s.nextReq)

/-- The release add of a trigger. -/
def State.triggerAdd (s : State) (r : Req) (va value : Word) : State × Option (BitVec 16) :=
  let r := { r with kind := .atom va (.rmw .add 64 value), release := some 2 }
  match s.placePiece r false (bothPiece va 8) with
  | (s, .error f) => (s, some f.1)
  | (s, .ok p) =>
    let r := { r with pieces := [p] }
    let k : AtomKind := .rmw .add 64 value
    match (if p.place.any fun x => inDram x.local_ then s.performAtom r k else s.performBankAtom r k) with
    | .ok (s1, _) => (s1, none)
    | .error f => (s, some f.1)

/-- The action of an entry, on behalf of the tile that armed it: the state and the cause of a failure. -/
def State.triggerAction (s : State) (d : DieIx) (q : Fin 16) (x : Trigger) : State × Option (BitVec 16) :=
  let a0 := wordOf (field x.desc 32 8)
  let a1 := wordOf (field x.desc 40 8)
  match field x.desc 20 1 with
  | 0 =>
    (match s.startRun d q a0 a1 x.tile x.level x.seg with
      | .error f => (s, some f.1)
      | .ok (s1, st) =>
        if st = 0 then (s1, none)
        else
          let (s2, c) := s1.freeCause
          (s2, some c))
  | 1 =>
    let before := (s.ctxAt d q).queue.length
    let s1 := s.submit d q (a1 ++ a0)
    if before < (s1.ctxAt d q).queue.length then (s1, none)
    else
      let (s2, c) := s1.freeCause
      (s2, some c)
  | _ => s.triggerAdd (s.agentReq d q x.tile x.level x.seg) a0 a1

/-- An armed entry fires. -/
def State.fireTrigger (s : State) (d : DieIx) (q : Fin 16) (i : Fin 16) : State :=
  let x := nth (s.ctxAt d q).triggers i
  let s1 := s.modCtx d q fun c => c.setTrigger i { x with armed := false, fired := true }
  let (s2, cause) := s1.triggerAction d q x
  match cause with
  | none => s2
  | some c => s2.modCtx d q fun y => y.setTrigger i { nth y.triggers i with cause := c }

/-- The entries that a change of a counter has made true fire, in rising order. -/
def State.evaluate (s : State) (d : DieIx) (q : Fin 16) (k : Fin 8) : State :=
  let c := s.ctxAt d q
  ((List.finRange 16).filter fun i =>
    (nth c.triggers i).armed && (nth c.triggers i).reads k && (nth c.triggers i).holds c.counters).foldl
      (fun s i => s.fireTrigger d q i) s

/-- ftrig arm. -/
def State.performArm (s : State) (r : Req) (entry va : Word) : Performed :=
  match (s.dieAt r.die).findCtx r.ctxid with
  | none => .ok (s, r.status 2)
  | some q =>
    let i : Fin 16 := Fin.ofNat 16 entry.toNat
    if 15 < entry.toNat then .ok (s, r.status 3)
    else if (nth (s.ctxAt r.die q).triggers i).armed then .ok (s, r.status 1)
    else if va.toNat % 64 ≠ 0 then .ok (s, r.status 2)
    else
      match s.image r va 64 with
      | .error f => .error f
      | .ok (s1, bs) =>
        let w := recordOf bs
        if !triggerOk w then .ok (s1, r.status 2)
        else
          let x : Trigger := { armed := true, desc := w, tile := r.tile, level := r.level, seg := r.seg }
          let s2 := s1.modCtx r.die q fun c => c.setTrigger i x
          let s3 := if x.holds (s2.ctxAt r.die q).counters then s2.fireTrigger r.die q i else s2
          .ok (s3, r.status 0)

/-- ftrig disarm. -/
def State.performDisarm (s : State) (r : Req) (entry : Word) : State × Response :=
  if 15 < entry.toNat then (s, r.status 3)
  else
    match (s.dieAt r.die).findCtx r.ctxid with
    | none => (s, r.status 0)
    | some q => (s.modCtx r.die q fun c => c.setTrigger (Fin.ofNat 16 entry.toNat) {}, r.status 0)

/-- ftrig query. -/
def State.performQuery (s : State) (r : Req) (entry : Word) : State × Response :=
  if 15 < entry.toNat then ({ s with nextReq := s.nextReq + 1 }, r.status (Config.triggerQuery s.nextReq))
  else
    match (s.dieAt r.die).findCtx r.ctxid with
    | none => (s, r.status 0)
    | some q =>
      let x := nth (s.ctxAt r.die q).triggers (Fin.ofNat 16 entry.toNat)
      (s, r.status (wordOf (x.armed.toNat + x.fired.toNat * 2 + x.cause.toNat * 2 ^ 16)))

/-- Whether a selector names a counter of a die of the partition. -/
def State.selectorOk (s : State) (r : Req) (sel : Word) : Bool :=
  decide (sel &&& 0xFFFFFFFFF000FFF8#64 = 0) && s.inPartition r.die (sel.extractLsb' 16 12)

/-- A trigger-counter operation at the dispatcher of the die that it names (R410, R411): `set` is none for tcrd. -/
def State.performCounter (s : State) (r : Req) (sel operand : Word) (set : Option Bool) : State :=
  let all : Word := 0xFFFFFFFFFFFFFFFF
  let id := sel.extractLsb' 16 12
  if !s.selectorOk r sel ∨ (set.isSome ∧ 2 ^ 32 ≤ operand.toNat) then s.finishReq r r.die (r.status all)
  else if s.isAway id then
    (match s.awayRead (r.tracked s) sel 8 with
      | .ok bs => s.finishReq r r.die (r.status (wordOf (valueOf bs)))
      | .error f => s.failReq r r.die f)
  else if !s.isLive id then s.failReq r r.die (0x0023, physical id 0)
  else
    let h := (s.findDie id).getD r.die
    let s0 := s.touch r.die r.ctxid id
    match (s.dieAt h).findCtx r.ctxid with
    | none => s0.finishReq r h (r.status all)
    | some q =>
      let k : Fin 8 := Fin.ofNat 8 sel.toNat
      let old := (nth (s0.ctxAt h q).counters k).toNat
      match set with
      | none => s0.finishReq r h (r.status (wordOf old))
      | some b =>
        let v := if b then operand.toNat else min (old + operand.toNat) 0xFFFFFFFF
        let s1 := s0.modCtx h q fun c => { c with counters := upd c.counters k (BitVec.ofNat 32 v) }
        (s1.evaluate h q k).finishReq r h (r.status (wordOf v))

/-- TRIGGER_COUNTER_CHANGE. -/
def execTriggerCounterChange (req : Nat) (s : State) : Out :=
  match s.findReq req with
  | none => .fault .notEnabled
  | some r =>
    if r.stage ≠ .home then .fault .notEnabled
    else
      let at_ (sel operand : Word) (set : Option Bool) : Out :=
        if !s.selectorOk r sel || (set.isSome && decide (2 ^ 32 ≤ operand.toNat)) || s.linkedTo r.die (sel.extractLsb' 16 12) then settled (s.performCounter r sel operand set) else .fault .notEnabled
      match r.kind with
      | .tcadd sel operand set => at_ sel operand (some set)
      | .tcrd sel => at_ sel 0 none
      | _ => .fault .notEnabled

end Sys2Proof.Machine
end

