-- ==== Sys2Proof/Machine/Me.lean ====
section
/-!
DEFINITION. The matrix engine: addresses and accumulator choice, the checks of blocks, array steps and plane loads,
and the operations on accumulators (R185 to R204).
-/
namespace Sys2Proof.Machine

/-! ### Addresses and limits -/

/-- The pitch of rows in bytes (R187). -/
def rowPitch (et : ElemType) (p : BitVec 16) : Nat := if p = 0 then 16 * et.width else 64 * p.toNat

/-- The bytes of a row. -/
def rowBytes (et : ElemType) : Nat := 16 * et.width

/-- A block in the scratchpad: bit offset of its address, address, pitch, bytes of a row, and whether it carries
scales. -/
structure Block where
  bits   : Nat
  addr   : Word
  pitch  : Nat
  row    : Nat
  scaled : Bool

/-- The address after the nest table's strides (R185); `lo` is the lowest bit of the stride field. -/
def nestAddr (q : Seq) (r : Running) (lo : Nat) (a : Word) : Word :=
  (List.finRange 6).foldl (fun a j =>
    a + ((nth r.nest j).extractLsb' lo 24).signExtend 64 * BitVec.ofNat 64 (q.l r j.val)) a

/-- A block named by an address-generator operand. -/
def Tile.block (t : Tile) (q : Seq) (r : Running) (tl : Tail) (o : Op) (x : Operand) (lo : Nat) (p : BitVec 16)
    (scaled : Bool) : Block :=
  let a := t.agAddr r tl o.et x
  { bits := a.1, addr := nestAddr q r lo a.2, pitch := rowPitch o.et p, row := rowBytes o.et, scaled }

/-- The accumulator that a specifier of class 0b100 names in the iteration (R186). -/
def accIx (q : Seq) (r : Running) (x : Operand) : Fin 4 :=
  let i := match x with
    | .acc i => i.val
    | _ => 0
  Fin.ofNat 4 ((List.finRange 6).foldl (fun n j => n + ((nth r.nest j).extractLsb' 48 2).toNat * q.l r j.val) i)

/-- A limit of R195 and R197: register n of `lo` when the enable bit is set, 128 otherwise. -/
def Tile.edge (t : Tile) (sub : BitVec 8) (en lo : Nat) : Nat :=
  if sub.getLsbD en then min (nth t.cc.n (Fin.ofNat 4 (sub.extractLsb' lo 2).toNat)).toNat 128 else 128

/-- The bank words that a block touches. -/
def Block.words (b : Block) : List Nat :=
  let rows := (List.range 128).flatMap fun i =>
    (List.range (b.row / 64)).map fun k => (b.addr.toNat + i * b.pitch) / 64 + k
  if b.scaled then rows ++ (List.range 8).map fun k => (b.addr.toNat + 128 * b.pitch) / 64 + k else rows

/-- The checks of a block, in the order of R188; an address with a bit offset traps first (R76). -/
def Tile.blockTrap (t : Tile) (b : Block) (tags : Bool) : Option (BitVec 16 × Word) :=
  let size := if b.scaled then 128 * b.pitch + 512 else 127 * b.pitch + b.row
  if b.bits ≠ 0 then some (0x0004, b.addr)
  else if b.addr.toNat % 64 ≠ 0 then some (0x0004, b.addr)
  else if 0x200000 < b.addr.toNat + size then some (0x0005, b.addr)
  else if tags then
    match (b.words.filter fun w => !t.active.covers w) with
    | [] => none
    | w :: ws => some (0x0010, BitVec.ofNat 64 (64 * ws.foldl min w))
  else none

/-! ### Plane loads (R196, R197) -/

/-- A result of an operation of the matrix engine. -/
def meResult (left : Nat) (effects : List Effect) (sample : Option (Nat × Sample) := none) : Result :=
  { agent := .me, left, issued := 0, effects, sample }

/-- The results of a load of plane p from a block. -/
def loadResults (o : Op) (p : Fin 2) (b : Block) (kv nv : Nat) : List Result :=
  let desc := BitVec.ofNat 24 (o.et.code + (if b.scaled then 16 else 0) + kv * 2 ^ 8 + nv * 2 ^ 16)
  meResult 1 [.planeDesc p desc]
    :: (List.finRange 128).map (fun k => meResult (k.val + 1) [] (some (k.val, .planeRow p k (b.addr.toNat + k.val * b.pitch) b.row)))
    ++ (if b.scaled then [meResult 128 [] (some (127, .planeScales p (b.addr.toNat + 128 * b.pitch)))] else [])

/-- The shadow plane. -/
def MatrixState.shadow (m : MatrixState) : Fin 2 := 1 - m.act

/-- mldw (R196). -/
def execMldw (o : Op) (tl : Tail) (s : State) : Out :=
  let b (t : Tile) (q : Seq) (r : Running) := t.block q r tl o o.a 24 (o.lit.setWidth 16) (o.mod.getLsbD 0)
  .next (s.iterate (.mldw o tl) o tl id
    (fun q r idle => { trap := if idle then none else s.here.blockTrap (b s.here q r) tl.ctl.tchk, occ := 128, lat := 128 })
    fun s x =>
      let t := s.here
      s.addResults x (loadResults o t.me.shadow (b t x.q x.r) (t.edge o.sub 2 0) (t.edge o.sub 6 4)))

/-- mflip (R198). -/
def execMflip (o : Op) (tl : Tail) (s : State) : Out :=
  .next (s.iterate (.mflip o tl) o tl id (fun _ _ _ => {}) fun s x => s.addResults x [meResult 1 [.actFlip]])

/-! ### The array step (R189 to R195) -/

/-- The Repeat figure of a step (R83). -/
def stepRepeat (et : ElemType) : Nat :=
  match et.width with
  | 4 => 64
  | 8 => 128
  | _ => 256

/-- The stage predicate of the iteration (R190). -/
def predicate (r : Running) (tl : Tail) : Bool := tl.ctl.spat.getLsbD (r.linear tl % (tl.ctl.slen.toNat + 1))

/-- The plane that the step uses: the active one after its own predicated flip (R191, R192). -/
def Tile.stepPlane (t : Tile) (flip : Bool) : Fin 2 := if flip then t.me.shadow else t.me.act

/-- The check of a step's type against its plane (R193). -/
def planeTrap (o : Op) (desc : BitVec 24) : Option (BitVec 16 × Word) :=
  let pt := desc.toNat % 16
  let scl := desc.getLsbD 4
  let scaled := o.mod.getLsbD 0
  let pair : Bool := match o.et with
    | .e4m3 => pt == 5 || (pt == 6 && !scaled)
    | .e5m2 => pt == 5 || pt == 6
    | et => pt == et.code
  if pair ∧ scl = scaled then none
  else some (0x0011, BitVec.ofNat 64 (pt + scl.toNat * 16 + o.et.code * 2 ^ 8 + scaled.toNat * 2 ^ 12))

/-- The cycle, counted from the step's issue, in which row i of the activations enters the array (R192). -/
def enterRow (et : ElemType) (i : Nat) : Nat := i * stepRepeat et / 128

/-- The plan of a step. The slot of B yields its address in every active iteration (R76), and its block is checked in those
that load it (R188). DEDUCED (log 75): an idle iteration with P = 1 takes the cycles of an active one, the fused load that
it does not make included (R58, R191). -/
def Tile.stepPlan (t : Tile) (o : Op) (tl : Tail) (q : Seq) (r : Running) (idle : Bool) : Plan :=
  let flip := predicate r tl
  let load := flip && o.b.isAg
  let tags := tl.ctl.tchk
  let plane := t.block q r tl o o.b 24 (o.lit.extractLsb' 16 16) (o.mod.getLsbD 0)
  let first := t.blockTrap (t.block q r tl o o.a 0 (o.lit.setWidth 16) false) tags
  let second := if load then t.blockTrap plane tags
    else if o.b.isAg ∧ plane.bits ≠ 0 then some (0x0004, plane.addr) else none
  let third := planeTrap o (nth t.me.planes (t.stepPlane flip)).desc
  { trap := if idle then none else first <|> second <|> third
    pops := streamsOf [o.c]
    occ := if load then max (stepRepeat o.et) 128 else stepRepeat o.et
    lat := enterRow o.et 127 + 128 }

/-- The results of a step's rows, the last of them without effect: it marks the end of the step, when its post is made
(R192, R200). -/
def stepResults (o : Op) (q : Fin 4) (b : Block) (mv : Nat) (scales : Vec) (info : StepInfo) : List Result :=
  let enter := enterRow o.et
  let rows := (List.finRange 128).filter fun i => decide (i.val < mv)
  rows.map (fun i => meResult (enter i.val + 128) []
    (some (enter i.val, .stepRow q i (b.addr.toNat + i.val * b.pitch) (scales.extractLsb' (32 * i.val) 32) info)))
    ++ [meResult (enter 127 + 128) []]

/-- A step, starting from zero when `zero`. -/
def State.meStep (s : State) (i : Instr) (o : Op) (tl : Tail) (zero : Bool) : State :=
  s.iterate i o tl id (fun q r idle => s.here.stepPlan o tl q r idle) fun s x =>
    let flip := predicate x.r tl
    let s := if flip then s.modHere fun t => { t with me := { t.me with act := t.me.shadow } } else s
    let t := s.here
    let p := t.me.act
    let desc := (nth t.me.planes p).desc
    let scaled := o.mod.getLsbD 0
    let info : StepInfo :=
      { et := o.et, pt := ElemType.ofCode (desc.setWidth 4), scaled, sat := o.mod = 8, zero
        kv := min (desc.extractLsb' 8 8).toNat 128, nv := min (desc.extractLsb' 16 8).toNat 128, plane := p, fpctl := t.cc.fpctl }
    let scales := match o.c.stream with
      | some k => (nth t.streams k).front
      | none => 0
    let a := t.block x.q x.r tl o o.a 0 (o.lit.setWidth 16) false
    let load := if flip && o.b.isAg then
        loadResults o t.me.shadow (t.block x.q x.r tl o o.b 24 (o.lit.extractLsb' 16 16) scaled) 128 128
      else []
    s.addResults x (load ++ stepResults o (accIx x.q x.r o.d) a (t.edge o.sub 2 0) scales info)

/-- mstep (R192, R194). -/
def execMstep (o : Op) (tl : Tail) (s : State) : Out := .next (s.meStep (.mstep o tl) o tl false)
/-- mstepz (R194). -/
def execMstepz (o : Op) (tl : Tail) (s : State) : Out := .next (s.meStep (.mstepz o tl) o tl true)

/-! ### Accumulators (R204) -/

/-- Row (LIT + l0) mod 128. -/
def rowIx (o : Op) (r : Running) : Fin 128 := Fin.ofNat 128 (o.lit.toNat % 128 + r.l0)

/-- The stream entry that mrd pushes of a row. -/
def Tile.readRow (t : Tile) (x : Issue) (o : Op) (row : Vec) : Vec :=
  if o.et.width = 32 then row
  else
    let es := (lanes 32 128 row.toNat).zipIdx.map fun p =>
      convert o.et.valueType ElemType.f32.valueType (t.laneRound x.q x.r o p.2) p.1
    vecOfLanes o.et.width es

/-- mrd (R204). -/
def execMrd (o : Op) (tl : Tail) (s : State) : Out :=
  .next (s.iterate (.mrd o tl) o tl id (fun _ _ _ => { push := o.d.stream, lat := 4 }) fun s x =>
    let t := s.here
    let q := accIx x.q x.r o.a
    let r := rowIx o x.r
    let clear := if o.sub.getLsbD 0 then [meResult 1 [.accRow q r 0 allBits]] else []
    s.addResults x (clear ++ [meResult 4 [vecEffect o.d x.slot (t.readRow x o (nth (nth t.me.acc q) r)) allBits]]))

/-- mclr: an accumulator or a weight plane (R204). -/
def execMclr (o : Op) (tl : Tail) (s : State) : Out :=
  .next (s.iterate (.mclr o tl) o tl id (fun _ _ _ => {}) fun s x =>
    let e := match o.d with
      | .plane p => Effect.planeClear p
      | d => .accClear (accIx x.q x.r d)
    s.addResults x [meResult 1 [e]])

/-- msc.mul: row i of the accumulator times element i of the popped entry (R204). -/
def execMscMul (o : Op) (tl : Tail) (s : State) : Out :=
  .next (s.iterate (.mscMul o tl) o tl id (fun _ _ _ => { pops := streamsOf [o.a] }) fun s x =>
    let t := s.here
    let q := accIx x.q x.r o.d
    let c := t.nodeRound o
    let fs := match o.a.stream with
      | some k => lanes 32 128 (nth t.streams k).front.toNat
      | none => []
    let rows := (nth t.me.acc q).toList.zipIdx.map fun p =>
      vecOfLanes 32 ((lanes 32 128 p.1.toNat).map fun v => floatMul ElemType.f32.fmt c v (fs.getD p.2 0))
    s.addResults x [meResult 1 [.accMul q rows]])

/-- msc.ld: one accumulator row from the popped entry (R204). -/
def execMscLd (o : Op) (tl : Tail) (s : State) : Out :=
  .next (s.iterate (.mscLd o tl) o tl id (fun _ _ _ => { pops := streamsOf [o.a] }) fun s x =>
    let data := match o.a.stream with
      | some k => (nth s.here.streams k).front
      | none => 0
    s.addResults x [meResult 1 [.accRow (accIx x.q x.r o.d) (rowIx o x.r) data allBits]])

/-- mstat: descriptors and ACT (R204). -/
def execMstat (o : Op) (tl : Tail) (s : State) : Out :=
  .next (s.iterate (.mstat o tl) o tl id (fun _ _ _ => { push := o.d.stream }) fun s x =>
    let m := s.here.me
    let w := m.act.val + (nth m.planes 0).desc.toNat * 2 ^ 8 + (nth m.planes 1).desc.toNat * 2 ^ 32
    s.addResults x [meResult 1 [vecEffect o.d x.slot (BitVec.ofNat 4096 w) allBits]])

end Sys2Proof.Machine
end

