-- ==== Sys2Proof/Machine/Reshard.lean ====
section
/-!
DEFINITION. The thresher (R374 to R380): the plan of a re-shard for a die, its cursor in memory, the rows it sends and
their acknowledgements, its routes, and how it stops.
-/
namespace Sys2Proof.Machine

/-! ### Plans (R375, R377) -/

/-- The IDs of a die's partition, in rank order. -/
def State.ranks (s : State) (d : DieIx) : List (BitVec 12) := listedIds (s.dieAt d).plist

/-- The rank of the home die of a shard's first byte; R258 may refuse its translation. -/
def State.shardRank (s : State) (r : Req) (a : Access) (l : Layout) (k : Nat) : State × Except Failed Nat :=
  let va := wordOf (l.base + k * l.shs)
  let s1 := s.walked r.die r.asid va
  (s1, match s1.checkWalk r.die (r.who s1) a va with
    | .fail c v => .error (c, v)
    | .ok x => .ok (((s1.ranks r.die).findIdx? fun i => decide (i = x.die)).getD (s1.ranks r.die).length))

/-- The ranks of the home dies of shards; one that names no die of the partition is as many as there are dies. -/
def State.shardRanks (s : State) (r : Req) (a : Access) (l : Layout) : List Nat → State × Except Failed (List Nat)
  | [] => (s, .ok [])
  | k :: ks =>
    match s.shardRank r a l k with
    | (s1, .error f) => (s1, .error f)
    | (s1, .ok v) =>
      let (s2, more) := s1.shardRanks r a l ks
      (s2, more.map fun more => v :: more)

/-- Records that cannot be re-sharded into each other: type, dimensions, sizes, or overlapping allocations. -/
def layoutsDiffer (x y : Layout) : Bool :=
  decide (x.et ≠ y.et) || decide (x.nd ≠ y.nd) || decide (x.gs ≠ y.gs)
    || (decide (x.base < y.base + y.alen) && decide (y.base < x.base + x.alen))

/-- Why a plan is refused. -/
inductive PlanFail where
  /-- The plan itself (0x0016). -/
  | plan
  /-- A check of R258. -/
  | check (f : Failed)
  deriving DecidableEq, Repr

/-- The plan of a die for two records. -/
def State.planFor (s : State) (r : Req) (x y : Layout) : State × Except PlanFail (List Transfer) :=
  if layoutsDiffer x y then (s, .error .plan)
  else
    match s.shardRanks r .read x (List.range x.shards) with
    | (s1, .error f) => (s1, .error (.check f))
    | (s1, .ok hx) =>
      match s1.shardRanks r .write y (List.range y.shards) with
      | (s2, .error f) => (s2, .error (.check f))
      | (s2, .ok hy) =>
        let ids := s2.ranks r.die
        let n := ids.length
        (s2, if (hx ++ hy).any fun v => decide (n ≤ v) then .error .plan
          else .ok (planOf x y hx hy ((ids.findIdx? fun i => decide (i = (s2.dieAt r.die).id)).getD 0) n))

/-- Bytes of transfers. -/
def planBytes (l : Layout) (ts : List Transfer) : Nat := (ts.map fun t => t.rows * t.rowBytes l).sum

/-- Bytes of a plan before row `row` of transfer k. -/
def planDone (l : Layout) (ts : List Transfer) (k row : Nat) : Nat :=
  planBytes l (ts.take k) + ((ts[k]?).map fun t => row * t.rowBytes l).getD 0

/-! ### The cursor (R376) -/

/-- The 64 bytes of a cursor at row `row` of transfer k; past the last transfer it stands behind that one's last row.
Reserved bytes are 0. DESIGN CHOICE (log 104). -/
def Thresher.cursorImage (th : Thresher) (st : Nat) (cause : BitVec 16) : List Byte :=
  let l := layoutOf th.src
  let ts := th.plan
  let last := ts.getLastD { s := 0, b := 0, a := 0, lo := [], size := [] }
  let t := ts[th.transfer]?.getD last
  let at_ := if th.transfer < ts.length ∨ ts = [] then th.row else last.rows
  bytesOf 8 th.bar.toNat ++ bytesOf 2 st ++ bytesOf 2 cause.toNat ++ bytesOf 2 l.chk ++ bytesOf 2 (layoutOf th.dst).chk
    ++ bytesOf 2 t.s ++ bytesOf 2 t.b ++ bytesOf 4 t.a ++ bytesOf 8 at_ ++ bytesOf 8 (planDone l ts th.transfer th.row)
    ++ bytesOf 8 (planBytes l ts) ++ List.replicate 16 0

/-- The thresher writes bytes of its cursor, a run of them as one synchronising write (R457). A write that fails changes
nothing, and the re-shard goes on. DESIGN CHOICE (log 104). -/
def State.writeCursor (s : State) (r : Req) (va : Word) (im : List Byte) (runs : List (Nat × Nat)) : State :=
  runs.foldl (fun s p =>
    let at_ := va + wordOf p.1
    match s.fullCheck r.die (r.who s) .write at_ with
    | (s1, .fail _ _) => s1
    | (s1, .ok x) =>
      match s1.placeWrite (r.tracked s1) x at_ ((im.drop p.1).take p.2) .syncWrite with
      | .ok s2 => s2
      | .error _ => s1) s

/-! ### Routes of a step (R377) -/

/-- The default port of a packet with the dimensions taken from dimension k0 on. -/
def State.rotatedPort (s : State) (d : DieIx) (dest : BitVec 12) (k0 : Nat) : Option (Fin 8) :=
  let x := s.dieAt d
  match [k0 % 3, (k0 + 1) % 3, (k0 + 2) % 3].find? fun k => decide (idCoord x.id k ≠ idCoord dest k) with
  | none => none
  | some k =>
    let n := x.torus k
    if n = 2 then some (portOf k (decide (localCoord d k = 0)))
    else some (portOf k (decide (2 * ((idCoord dest k + n - idCoord x.id k) % n) ≤ n)))

/-- Whether the rotated default route of a flow passes the router of a die, from router e on. -/
def State.flowThrough (s : State) (d e : DieIx) (dest : BitVec 12) (k0 : Nat) : Nat → Bool
  | 0 => false
  | n + 1 =>
    if e = d then decide ((s.dieAt e).id ≠ dest)
    else
      match (s.rotatedPort e dest k0).bind (s.partner e) with
      | some (f, _) => s.flowThrough d f dest k0 n
      | none => false

/-- The route entries of a step: for each of its flows that passes the router, its port there. -/
def State.stepRoutes (s : State) (d : DieIx) (step : Nat) : List Word :=
  let ids := s.ranks d
  let n := ids.length
  (((List.range n).filterMap fun q =>
    let src := ids.getD q 0
    let dest := ids.getD ((q + step) % n) 0
    match s.findDie src with
    | some e =>
      if s.flowThrough d e dest (step % 3) 64 then
        (s.rotatedPort d dest (step % 3)).map fun p =>
          wordOf (dest.toNat + src.toNat * 2 ^ 12 + p.val * 2 ^ 25 + 2 ^ 29)
      else none
    | none => none).take 256)

/-- The thresher's route entries for a step, where they are free; a flow that finds no entry takes its default route
(R371, R372). -/
def State.threshRoutes (s : State) (d : DieIx) (es : List Word) : State :=
  let put (t : Vector Word 1024) (i : Nat) : Vector Word 1024 :=
    let k : Fin 1024 := Fin.ofNat 1024 (768 + i)
    if s.entryFree d (nth t k) then upd t k (es.getD i 0) else t
  s.modDie d fun x => { x with routes := (List.range 256).foldl put x.routes }

/-- The thresher's route entries cleared; flows in flight keep their routes. -/
def Die.clearRoutes (x : Die) : Die :=
  { x with routes := (List.range 256).foldl (fun t i => upd t (Fin.ofNat 1024 (768 + i)) 0) x.routes }

/-! ### The running re-shard -/

/-- Who makes a thresher's accesses: the tile and segment of its rshd (R378). -/
def State.threshReq (s : State) (d : DieIx) (th : Thresher) : Req := s.agentReq d th.q th.tile th.level th.seg

/-- The position after row `row` of transfer k. -/
def nextRow (ts : List Transfer) (k row : Nat) : Nat × Nat :=
  if row + 1 < ((ts[k]?).map (·.rows)).getD 0 then (k, row + 1) else (k + 1, 0)

/-- The thresher of a die becomes idle and clears its route entries. -/
def State.idleThresher (s : State) (d : DieIx) : State := s.modDie d fun x => { x with thresher := none }.clearRoutes

/-- Runs of bytes of the cursor are written with a state, at the position of the thresher. -/
def State.cursorState (s : State) (d : DieIx) (th : Thresher) (st : Nat) (cause : BitVec 16) (runs : List (Nat × Nat)) : State :=
  s.writeCursor (s.threshReq d th) th.cursor (th.cursorImage st cause) runs

/-- A re-shard starts, or goes on at a position, which writes STATE alone; one without rows is done. -/
def State.startThresher (s : State) (d : DieIx) (th : Thresher) (anew : Bool) : State :=
  let runs := (if anew then [(12, 36)] else []) ++ [(8, 1)]
  if th.plan.length ≤ th.transfer then s.cursorState d th 3 0 runs
  else
    (s.modDie d fun x => { x with thresher := some { th with sent := [], nextT := th.transfer, nextR := th.row } }).cursorState d th 1 0 runs

/-- The transfer of a plan that a cursor names, with ROW below its row count. -/
def cursorPosition (ts : List Transfer) (cur : List Byte) : Option (Nat × Nat) :=
  match ts.findIdx? fun t => decide (t.s = part cur 16 2) && decide (t.b = part cur 18 2) && decide (t.a = part cur 20 2) with
  | some k => if part cur 24 8 < ((ts[k]?).map (·.rows)).getD 0 then some (k, part cur 24 8) else none
  | none => none

/-- The cursor of the issuing die in an array at va, read; or the plan's fault when the array passes its page. -/
def State.readCursor (s : State) (r : Req) (va : Word) : Except PlanFail (State × Word × List Byte) :=
  let ids := s.ranks r.die
  let rank := (ids.findIdx? fun i => decide (i = (s.dieAt r.die).id)).getD 0
  let at_ := va + wordOf (64 * rank)
  if va.toNat % 64 ≠ 0 then .error .plan
  else
    let s := s.walked r.die r.asid va
    match s.checkWalk r.die (r.who s) .read va with
    | .fail c v => .error (.check (c, v))
    | .ok x =>
      if !pteW x.leaf || decide (x.size < va.toNat % x.size + 64 * ids.length) then .error .plan
      else
        match s.freeRead r at_ .read 64 with
        | .error f => .error (.check f)
        | .ok (s1, bs) => .ok (s1, at_, bs)

/-- The failure of a plan as a due-cycle trap. -/
def PlanFail.trap (f : PlanFail) (cursor : Word) : Failed :=
  match f with
  | .plan => (0x0016, cursor)
  | .check f => f

/-- The cursor's address as TVAL names it. -/
def State.cursorVa (s : State) (r : Req) (va : Word) : Word :=
  va + wordOf (64 * (((s.ranks r.die).findIdx? fun i => decide (i = (s.dieAt r.die).id)).getD 0))

/-- rshd (R377). -/
def State.performRshd (s : State) (r : Req) (src dst va : Word) : Performed :=
  let x := recordOf r.operand
  let y := recordOf (r.operand.drop 64)
  if !recordOffset src || !layoutUsable x then .error (0x0013, src)
  else if !recordOffset dst || !layoutUsable y then .error (0x0013, dst)
  else
    let at_ := s.cursorVa r va
    let (s, plan) := s.planFor r (layoutOf x) (layoutOf y)
    match plan, s.readCursor r va, (s.dieAt r.die).findCtx r.ctxid with
    | .error f, _, _ => .error (f.trap at_)
    | _, .error f, _ => .error (f.trap at_)
    | _, _, none => .ok (s, r.status 2)
    | .ok ts, .ok (s1, at_, cur), some q =>
      let st := part cur 8 1
      let th : Thresher :=
        { q, ctxid := r.ctxid, src := x, dst := y, cursor := at_, bar := wordOf (part cur 0 8), plan := ts, transfer := 0, row := 0
          sent := [], nextT := 0, nextR := 0, tile := r.tile, level := r.level, seg := r.seg }
      let same := decide (part cur 12 4 = (layoutOf x).chk + (layoutOf y).chk * 2 ^ 16)
      if s1.awaits then .ok (s1, {})
      else if 4 < st then .error (0x0016, at_)
      else
        match (s1.dieAt r.die).thresher with
        | some busy => .ok (s1, r.status (if st = 1 ∧ busy.cursor = at_ ∧ busy.ctxid = r.ctxid then 1 else 2))
        | none =>
          match st with
          | 0 => .ok (s1.startThresher r.die th true, r.status 0)
          | 1 => .ok (s1, r.status 1)
          | 3 => .ok (s1, r.status 3)
          | _ =>
            if !same then .ok (s1, r.status 4)
            else
              match cursorPosition ts cur with
              | none => .error (0x0016, at_)
              | some (k, row) => .ok (s1.startThresher r.die { th with transfer := k, row } false, r.status 0)

/-- rshq (R380). -/
def State.performRshq (s : State) (r : Req) (src dst : Word) (pairs : Bool) : Performed :=
  let x := recordOf r.operand
  let y := recordOf (r.operand.drop 64)
  if !recordOffset src || !layoutUsable x then .error (0x0013, src)
  else if !recordOffset dst || !layoutUsable y then .error (0x0013, dst)
  else
    match s.planFor r (layoutOf x) (layoutOf y) with
    | (s, .error _) => .ok (s, r.status 0xFFFFFFFFFFFFFFFF)
    | (s, .ok ts) => .ok (s, r.status (wordOf (if pairs then ts.length else planBytes (layoutOf x) ts)))

/-! ### Rows (R375, R378, R379) -/

/-- A row is read and written: the state and the cause of its failure. -/
def State.sendRow (s : State) (d : DieIx) (th : Thresher) (t : Transfer) (row : Nat) : State × Option (BitVec 16) :=
  let x := layoutOf th.src
  let y := layoutOf th.dst
  let r := s.threshReq d th
  let a := t.rowAddr x y row
  match s.image r (BitVec.ofInt 64 (a.1 / 8)) (t.rowBytes x) with
  | .error f => (s, some f.1)
  | .ok (s1, bs) =>
    match s1.barPlace r th.bar with
    | (s1, .error f) => (s1, some f.1)
    | (s1, .ok b) =>
      let (s2, f) := s1.blockWrite r (BitVec.ofInt 64 (a.2 / 8)) bs (s1.countedInto b)
      (s2, f.map (·.1))

/-- Whether the context of a thresher is in service, so that it sends. -/
def State.threshRuns (s : State) (d : DieIx) (th : Thresher) : Bool := decide ((s.ctxAt d th.q).entry.state = 1)

/-- THRESHER_ROW_SEND: the routes of the row's step stand, and the next row is read and written. -/
def execThresherRowSend (d : DieIx) (s : State) : Out :=
  match (s.dieAt d).thresher with
  | none => .fault .notEnabled
  | some th =>
    match th.plan[th.nextT]? with
    | none => .fault .notEnabled
    | some t =>
      if s.live d && s.threshRuns d th && th.sent.all fun x => x.2.2.isNone then
        let s1 := s.threshRoutes d (s.stepRoutes d t.s)
        let (s2, cause) := s1.sendRow d th t th.nextR
        let n := nextRow th.plan th.nextT th.nextR
        settled (s2.modDie d fun x =>
          { x with thresher := some { th with sent := th.sent ++ [(th.nextT, th.nextR, cause)], nextT := n.1, nextR := n.2 } })
      else .fault .notEnabled

/-- The thresher stops on a failure: the bytes of every row that is not acknowledged are counted all the same. -/
def State.failThresher (s : State) (d : DieIx) (th : Thresher) (cause : BitVec 16) : State :=
  let l := layoutOf th.src
  let ts := th.plan
  let left := planBytes l ts - planDone l ts th.transfer th.row
  let r := s.threshReq d th
  let s2 := match (s.cursorState d th 4 cause [(0, 64)]).barPlace r th.bar with
    | (s1, .ok b) => if cause = 0x0015 then s1 else (s1.addBytes r b th.bar left).1
    | (s1, .error _) => s1
  s2.idleThresher d

/-- A context takes up its paused re-shard at the cursor (R379). -/
def State.resumeThresher (s : State) (d : DieIx) (q : Fin 16) : State :=
  match (s.ctxAt d q).paused, (s.dieAt d).thresher with
  | some th, none =>
    let s1 := s.modCtx d q fun c => { c with paused := none }
    let th := { th with q }
    let r := s1.threshReq d th
    (match s1.freeRead r th.cursor .read 64 with
      | .ok (s2, cur) =>
        (match cursorPosition th.plan cur with
          | some (k, row) => if part cur 8 1 = 2 then s2.startThresher d { th with transfer := k, row } false else s2
          | none => s2)
      | .error _ => s1)
  | _, _ => s

/-- The thresher of a die that has become idle takes up the paused re-shard of a context in service. -/
def State.resumeNext (s : State) (d : DieIx) : State :=
  match (List.finRange 16).find? fun q => decide ((s.ctxAt d q).entry.state = 1) && (s.ctxAt d q).paused.isSome with
  | some q => s.resumeThresher d q
  | none => s

/-- THRESHER_ROW_ACK: the oldest row sent is acknowledged, in plan order: the cursor moves on, and then its bytes are added to
BAR (R457). -/
def execThresherRowAck (d : DieIx) (s : State) : Out :=
  match (s.dieAt d).thresher with
  | none => .fault .notEnabled
  | some th =>
    match th.sent with
    | (k, row, none) :: more =>
      let ts := th.plan
      let l := layoutOf th.src
      let r := s.threshReq d th
      let n := ((ts[k]?).map fun t => t.rowBytes l).getD 0
      let p := nextRow ts k row
      let th := { th with transfer := p.1, row := p.2, sent := more }
      let last := decide (ts.length ≤ p.1)
      let s1 := s.cursorState d th (if last then 3 else 1) 0 ((16, 24) :: if last then [(8, 1)] else [])
      let (s2, excess) := match s1.barPlace r th.bar with
        | (s2, .ok b) => s2.addBytes r b th.bar n
        | (s2, .error f) => (s2, some f.1)
      if s.lost d then .fault .notEnabled
      else settled (match excess with
        | some c => (s2.failThresher d th c).resumeNext d
        | none => if last then (s2.idleThresher d).resumeNext d else s2.modDie d fun x => { x with thresher := some th })
    | _ => .fault .notEnabled

/-- THRESHER_STOP: a row has failed, or the context is being swapped out and every row sent has been acknowledged. -/
def execThresherStop (d : DieIx) (s : State) : Out :=
  match (s.dieAt d).thresher with
  | none => .fault .notEnabled
  | some th =>
    if s.lost d then .fault .notEnabled else
    match th.sent with
    | (_, _, some c) :: _ => settled ((s.failThresher d th c).resumeNext d)
    | _ :: _ => .fault .notEnabled
    | [] =>
      if (s.ctxAt d th.q).entry.state = 3 then
        settled ((((s.cursorState d th 2 0 [(0, 64)]).idleThresher d).modCtx d th.q fun c => { c with paused := some th }).resumeNext d)
      else .fault .notEnabled

end Sys2Proof.Machine
end

