-- ==== Sys2Proof/Machine/Swap.lean ====
section
/-!
DEFINITION. Context swaps (R234 to R236) and kill (R351, R352): how they begin, what they do tile by tile, and when they
have finished.
-/
namespace Sys2Proof.Machine

/-! ### Swaps -/

/-- The tiles of the dies on which a context is present. -/
def State.tilesOf (s : State) (d : DieIx) (ctxid : BitVec 16) : List (DieIx × Fin 16 × TileIx) :=
  (s.presences d ctxid).flatMap fun p => (List.finRange 64).map fun t => (p.1, p.2, t)

/-- The context that a word names on a die. -/
def State.namedCtx (s : State) (d : DieIx) (v : Word) : Option (Fin 16) :=
  if v.toNat < 2 ^ 16 then (s.dieAt d).findCtx (v.setWidth 16) else none

/-- A tile's shadow bank set holds the image of a swapped-out context other than the given ones. -/
def State.shadowTaken (s : State) (d : DieIx) (t : TileIx) (but : List (BitVec 16)) : Bool :=
  !s.shadowFree d t && !but.contains (s.tileAt d t).shadow.owner

/-- A tile has a parked task of a context to be swapped in. -/
def State.toRestore (s : State) (d : DieIx) (q : Fin 16) (t : TileIx) : Bool :=
  ((s.validSlot d t q).filter fun p => !s.isSuspended p).isSome

/-- Another swap is in progress in the partition. -/
def State.swapBusy (s : State) (r : Req) : Bool :=
  s.reqs.any fun q => decide (q.id ≠ r.id) && decide (q.stage = .waiting) && (s.partition r.die).contains q.die &&
    (match q.kind with
      | .ctxsw .. => true
      | _ => false)

/-- The status of a swap that is refused, 0 for one that proceeds (R235). -/
def State.swapStatus (s : State) (r : Req) (a b : Word) (what : BitVec 8) : Nat :=
  let qa := s.namedCtx r.die a
  let qb := if what = 2 then s.namedCtx r.die b else qa
  match qa, qb with
  | some qa, some qb =>
    let ea := (s.ctxAt r.die qa).entry
    let eb := (s.ctxAt r.die qb).entry
    let good := match what.toNat with
      | 0 => decide (ea.state = 1)
      | 2 => decide (ea.state = 1) && decide (eb.state = 2)
      | _ => decide (ea.state = 2)
    let leaves := if what = 0 ∨ what = 2 then
      (s.tilesOf r.die ea.ctxid).filter fun x => (s.tileAt x.1 x.2.2).runs ea.ctxid else []
    let enters := if what = 1 ∨ what = 2 then (s.tilesOf r.die eb.ctxid).filter fun x => s.toRestore x.1 x.2.1 x.2.2 else []
    let taken := (leaves ++ enters).any fun x => s.shadowTaken x.1 x.2.2 (if what = 0 then [] else [eb.ctxid])
    let frames := (s.presences r.die ea.ctxid ++ s.presences r.die eb.ctxid).all fun x => (s.ctxAt x.1 x.2).entry.frameOk
    let sound := (enters.all fun x => !s.framePoisoned x.1 x.2.2 eb) &&
      (what = 0 || what = 3 || (s.presences r.die eb.ctxid).all fun x =>
        !(s.dieAt x.1).poisonWithin ((s.ctxAt x.1 x.2).entry.frame 0 + 0xFFE00) 512)
    if !good then 2
    else if ea.ctxid = r.ctxid ∨ eb.ctxid = r.ctxid then 3
    else if ea.partid ≠ eb.partid then 4
    else if taken then 5
    else if s.swapBusy r then 6
    else if !frames || !sound then 7
    else 0
  | _, _ => 1

/-- STATE of a context on every die of the partition. -/
def State.setStates (s : State) (d : DieIx) (ctxid : BitVec 16) (st : BitVec 2) : State :=
  (s.presences d ctxid).foldl (fun s p => s.modCtx p.1 p.2 fun c => { c with entry := { c.entry with state := st } }) s

/-- The out part of a swap begins: every tile that runs a task of the context is asked to stop. -/
def State.beginOut (s : State) (d : DieIx) (ctxid : BitVec 16) : State :=
  (s.presences d ctxid).foldl (fun s p => s.preemptTiles p.1 ctxid) (s.setStates d ctxid 3)

/-- The in part of a swap begins: the touched-dies masks are read back (R208). -/
def State.beginIn (s : State) (d : DieIx) (ctxid : BitVec 16) : State :=
  (s.presences d ctxid).foldl (fun s p =>
    let base := (s.ctxAt p.1 p.2).entry.frame 0
    let s := s.frameRead p.1 (base + 0xFFE00) 512
    let m := (s.dieAt p.1).dram.value (base + 0xFFE00) 512
    s.modCtx p.1 p.2 fun c => { c with touched := BitVec.ofNat 4096 m }) (s.setStates d ctxid 3)

/-- spill: shadow bank sets that hold the context's image are written to their image areas and become free (R245). -/
def State.spill (s : State) (d : DieIx) (ctxid : BitVec 16) : State :=
  (s.tilesOf d ctxid).foldl (fun s x =>
    let t := s.tileAt x.1 x.2.2
    if t.shadow.owner = ctxid then
      (s.writeImage x.1 x.2.2 (s.ctxAt x.1 x.2.1).entry t.shadow).setTile x.1 x.2.2 (t.setShadow { t.shadow with tags := [], owner := 0 })
    else s) s

/-- ctxsw begins, or is refused. -/
def State.beginSwap (s : State) (r : Req) (a b : Word) (what : BitVec 8) : State :=
  let st := s.swapStatus r a b what
  let ka : BitVec 16 := a.setWidth 16
  let kb : BitVec 16 := b.setWidth 16
  if st ≠ 0 then s.finishReq r r.die (r.status (wordOf st))
  else
    match what.toNat with
    | 0 => (s.beginOut r.die ka).setReq { r with stage := .waiting }
    | 1 => (s.beginIn r.die ka).setReq { r with stage := .waiting }
    | 2 => ((s.beginOut r.die ka).beginIn r.die kb).setReq { r with stage := .waiting }
    | _ => (s.spill r.die ka).finishReq r r.die (r.status 0)

/-- Whether an access of a request to the tile's scratchpad is on its way (R235). -/
def State.accessing (s : State) (d : DieIx) (t : TileIx) (r : Req) : Bool :=
  (match r.stage with
    | .fabric .. => !r.back
    | .egress .. => !r.back
    | .ingress _ => true
    | .home => true
    | _ => false) && r.pieces.any fun p => p.place.any fun x =>
      decide (s.findDie x.die = some d) && (match region x.local_ with
        | .window u off => decide (u = t) && decide (off < 0x400000)
        | _ => false)

/-- Whether every request of a context's task on a tile has been performed and acknowledged, and no other is on its way to
the tile's scratchpad. -/
def State.tileQuiet (s : State) (d : DieIx) (t : TileIx) (ctxid : BitVec 16) : Bool :=
  s.reqs.all fun r => (!(r.of d t && decide (r.ctxid = ctxid)) || r.acked) && !s.accessing d t r

/-- A halted tile is left by its context: an interrupt that it holds goes with the task (R421), its bank sets exchange roles,
and its segment closes (R235, R305). -/
def State.outTile (s : State) (d : DieIx) (t : TileIx) : State :=
  let irq := (s.tileAt d t).irq
  let s1 := match s.entryOf d t with
    | some q => s.modCtx d q fun c => { c with parked := c.parked.map fun (y : TileIx × Parked) => if y.1 = t then (t, { y.2 with irq := irq }) else y }
    | none => s
  (s1.discardPreload d t).modTile d t fun x => { x.exchange.cleared with seg := x.seg + 1 }

/-- A halted tile whose task a swap takes out has nothing in flight, and nothing is on its way to its scratchpad. -/
def State.outReady (s : State) (d : DieIx) (t : TileIx) (ctxid : BitVec 16) : Bool :=
  let x := s.tileAt d t
  !x.runs ctxid || (decide (x.mode = .halted) && s.tileQuiet d t ctxid && !x.segmentsFull)

/-- The context that a swap in progress takes out while it brings in another. -/
def State.leaving (s : State) (ctxid : BitVec 16) : Option (BitVec 16) :=
  s.reqs.findSome? fun r =>
    match r.kind with
    | .ctxsw a b 2 => if r.stage = .waiting ∧ b = ctxid.setWidth 64 then some (a.setWidth 16) else none
    | _ => none

/-- A tile takes over the images of a context that is swapped in: its shadow set where that is the context's already, else the
image area; `out` tells whether a task of the tile is swapped out first. -/
def State.imagesIn (s : State) (d : DieIx) (t : TileIx) (q : Fin 16) (out : Bool) : State :=
  let e := (s.ctxAt d q).entry
  let s0 := if out then s.outTile d t else s.discardPreload d t
  let kept := decide ((s0.tileAt d t).shadow.owner = e.ctxid)
  let s1 := if kept then s0 else s0.frameRead d (e.imageArea t) 0x200000
  let y := s1.tileAt d t
  let y := if kept then y else y.setShadow ((s1.dieAt d).readImage e t e.ctxid)
  s1.setTile d t y.exchange

/-- A tile takes up the parked task of a context that is swapped in, its own task being taken out first where a swap says so. -/
def State.takeIn (s : State) (d : DieIx) (t : TileIx) (q : Fin 16) (p : Parked) (out : Bool) : State :=
  (s.imagesIn d t q out).restoreTile d t q p false

/-- SWAP_IN_TILE: a tile whose task has ended takes up the parked task of a context that is swapped in (R235). -/
def execSwapInTile (d : DieIx) (t : TileIx) (s : State) : Out :=
  match s.incoming d t with
  | none => .fault .notEnabled
  | some (q, p) =>
    let x := s.tileAt d t
    let out := (s.leaving (s.ctxAt d q).entry.ctxid).any fun a => x.runs a && s.outReady d t a
    if !s.live d || !(decide (x.mode = .idle) || out) then .fault .notEnabled
    else settled (s.takeIn d t q p out)

/-- The out part of a swap has finished everywhere. -/
def State.outDone (s : State) (d : DieIx) (ctxid : BitVec 16) : Bool :=
  ((s.tilesOf d ctxid).all fun x => s.outReady x.1 x.2.2 ctxid) &&
    (s.presences d ctxid).all fun p => !((s.dieAt p.1).thresher.any fun th => decide (th.ctxid = ctxid))

/-- What the end of the out part leaves (R235, R208). -/
def State.endOut (s : State) (d : DieIx) (ctxid : BitVec 16) : State :=
  let s1 := (s.tilesOf d ctxid).foldl (fun s x => if (s.tileAt x.1 x.2.2).runs ctxid then s.outTile x.1 x.2.2 else s) s
  (s1.presences d ctxid).foldl (fun s p =>
    let c := s.ctxAt p.1 p.2
    let s2 := if c.entry.frameOk then
        s.modDie p.1 fun x => x.putImage (c.entry.frame 0 + 0xFFE00) 512 [(0, bytesOf 512 c.touched.toNat)]
      else s
    s2.modCtx p.1 p.2 fun c => { c with precmd := false, entry := { c.entry with state := 2 } }) s1

/-- The in part of a swap has finished everywhere. -/
def State.inDone (s : State) (d : DieIx) (ctxid : BitVec 16) : Bool :=
  (s.tilesOf d ctxid).all fun x => !s.toRestore x.1 x.2.1 x.2.2

/-- What the end of the in part leaves. -/
def State.endIn (s : State) (d : DieIx) (ctxid : BitVec 16) : State :=
  (s.presences d ctxid).foldl (fun s p => s.resumeThresher p.1 p.2) (s.setStates d ctxid 1)

/-- SWAP_COMPLETE. -/
def execSwapComplete (req : Nat) (s : State) : Out :=
  match s.findReq req with
  | none => .fault .notEnabled
  | some r =>
    match r.kind with
    | .ctxsw a b what =>
      let ka : BitVec 16 := a.setWidth 16
      let kb : BitVec 16 := if what = 2 then b.setWidth 16 else ka
      let outs := decide (what = 0 ∨ what = 2)
      let ins := decide (what = 1 ∨ what = 2)
      if decide (r.stage = .waiting) && (!outs || s.outDone r.die ka) && (!ins || s.inDone r.die kb) then
        let s1 := if outs then s.endOut r.die ka else s
        let s2 := if ins then s1.endIn r.die kb else s1
        settled (s2.finishReq r r.die (r.status 0))
      else .fault .notEnabled
    | _ => .fault .notEnabled

/-! ### kill (R351, R352) -/

/-- A kill of a context is in progress, beside request `but`. -/
def State.killing (s : State) (ctxid : BitVec 16) (but : Nat) : Bool :=
  s.reqs.any fun r => decide (r.id ≠ but) && decide (r.stage = .waiting) && decide (r.kind = .kill (ctxid.setWidth 64))

/-- A swap of a context is in progress. -/
def State.swapping (s : State) (ctxid : BitVec 16) : Bool :=
  s.reqs.any fun r => decide (r.stage = .waiting) &&
    (match r.kind with
      | .ctxsw a b what => decide (a = ctxid.setWidth 64) || (decide (what = 2) && decide (b = ctxid.setWidth 64))
      | _ => false)

/-- The status of a kill that is refused, 0 for one that proceeds. -/
def State.killStatus (s : State) (r : Req) (v : Word) : Nat :=
  let k : BitVec 16 := v.setWidth 16
  if 2 ^ 16 ≤ v.toNat ∨ (s.presences r.die k).isEmpty then 1
  else if k = r.ctxid then 2
  else if s.killing k r.id then 3
  else 0

/-- The records of a live graph that are cancelled by a kill, and the graph's end. -/
def State.killGraph (s : State) (d : DieIx) (q : Fin 16) : State :=
  let c := s.ctxAt d q
  let ends := (List.range (s.graphSize d q)).filter fun i =>
    (c.record i).any fun r => !(decide (r.state = .done) || decide (r.state = .faulted) || decide (r.state = .cancelled))
  let s1 := s.modCtx d q fun c => { c with queue := [] }
  let s2 := s1.freezeQueue d q 0x0036 (ends.head?.getD 0)
  (ends.foldl (fun s i => s.endRecord d q i .cancelled 0x0036) s2).completeGraph d q

/-- A rerun in progress on a tile that a kill stops ends with the graph no longer live (R352, R422, R423). DEDUCED (log 99). -/
def State.overtake (s : State) (d : DieIx) (stop : Option (Nat × StopKind)) : State :=
  match stop with
  | some (_, .discard (some _)) => s.modDie d fun x => { x with tbusy := false, tcode := 3 }
  | _ => s

/-- What a kill takes from a tile: its preload, its records, a task that is halted; one that runs is stopped at a cut. -/
def State.killTile (s : State) (d : DieIx) (t : TileIx) (ctxid : BitVec 16) : State :=
  let x := s.tileAt d t
  let mine (p : Placed) : Bool := decide (p.task.ctxid = ctxid)
  let y := if x.preload.any mine then { x.dropPreload with drawn := none } else x
  let y := { y with placed := y.placed.filter fun p => !mine p }
  let s1 := s.setTile d t y
  if !y.runs ctxid then s1
  else if y.mode = .halted then s1.leaveTile d t
  else (s1.setTile d t { y with stop := some (((y.stop.map (·.1)).getD y.now), .discard none), preempt := none }).overtake d y.stop

/-- What a kill empties of a die's tables of the context (R365, R381, R385, R402, R409); its thresher stops. -/
def State.killTables (s : State) (d : DieIx) (q : Fin 16) : State :=
  let ctxid := (s.ctxAt d q).entry.ctxid
  let s1 := if (s.dieAt d).thresher.any fun th => decide (th.ctxid = ctxid) then (s.idleThresher d).resumeNext d else s
  s1.modCtx d q fun c =>
    { c with
      slots := {}, slotsNew := none, red := [], redNew := none, chunks := Vector.replicate 4 {}, triggers := Vector.replicate 16 {}
      counters := Vector.replicate 8 0, ssarr := 0, ssdone := 0, ssnews := false, forwarded := [], precmd := false, paused := none
      parked := [], usedSlots := BitVec.allOnes 64 }

/-- kill begins, or is refused. -/
def State.beginKill (s : State) (r : Req) (v : Word) : State :=
  let st := s.killStatus r v
  let k : BitVec 16 := v.setWidth 16
  if st ≠ 0 then s.finishReq r r.die (r.status (wordOf st))
  else
    let ps := s.presences r.die k
    let s1 := ps.foldl (fun s p => s.killGraph p.1 p.2) s
    let s2 := ps.foldl (fun s p => (List.finRange 64).foldl (fun s t => s.killTile p.1 t k) s) s1
    let s3 := ps.foldl (fun s p => s.killTables p.1 p.2) s2
    (s3.killRequests r.die k).setReq { r with stage := .waiting }

/-- Nothing of a killed context is left: no tile runs it, and no request of it is out. -/
def State.drained (s : State) (d : DieIx) (ctxid : BitVec 16) : Bool :=
  ((s.tilesOf d ctxid).all fun x => !(s.tileAt x.1 x.2.2).runs ctxid)
    && s.reqs.all fun r => !(decide (r.ctxid = ctxid) && (s.partition d).contains r.die)

/-- The bank sets of a killed context are free, and its entry; its segments close (R305, R352). -/
def State.freeContext (s : State) (d : DieIx) (q : Fin 16) : State :=
  let ctxid := (s.ctxAt d q).entry.ctxid
  let freed (b : BankSet) : BankSet := if b.owner = ctxid then { b with owner := 0 } else b
  let tile (x : Tile) : Tile :=
    { x with setA := freed x.setA, setB := freed x.setB, seg := if x.cc.ctxid = ctxid then x.seg + 1 else x.seg }
  let s1 := s.modDie d fun x => { x with tiles := x.tiles.map tile }
  s1.modCtx d q fun c => { c with entry := { c.entry with state := 0 } }

/-- KILL_COMPLETE: every die of the partition has drained what the context had. -/
def execKillComplete (req : Nat) (s : State) : Out :=
  match s.findReq req with
  | none => .fault .notEnabled
  | some r =>
    match r.kind with
    | .kill v =>
      let k : BitVec 16 := v.setWidth 16
      let full := (s.presences r.die k).any fun p =>
        (List.finRange 64).any fun t => decide ((s.tileAt p.1 t).cc.ctxid = k) && (s.tileAt p.1 t).segmentsFull
      if r.stage = .waiting ∧ s.drained r.die k ∧ !full then
        .next (((s.presences r.die k).foldl (fun s p => s.freeContext p.1 p.2) s).finishReq r r.die (r.status 0))
      else .fault .notEnabled
    | _ => .fault .notEnabled

end Sys2Proof.Machine
end

