-- ==== Sys2Proof/Machine/Requests.lean ====
section
/-!
DEFINITION. The events of a request on its way (R256 to R270, R299 to R307, R348, R371): page walks, the routers, the
target die's checks, the access at its home, and the response that lands.
-/
namespace Sys2Proof.Machine

/-! ### Leaving the tile -/

/-- The dies that a placed request goes to. -/
def Req.targets (r : Req) : List (BitVec 12) := r.pieces.filterMap fun p => p.place.map (·.die)

/-- The place that a placed request travels to: that of its first access beside the barrier object. -/
def Req.leadingPlace (r : Req) : Option Place :=
  let ps := match r.kind with
    | .copy i => if i.blk 16 8 = 0 then r.pieces else r.pieces.drop 1 ++ r.pieces.take 1
    | _ => r.pieces
  ps.head?.bind fun p => p.place

/-- The die of the package to which it travels, or from which it leaves the package. -/
def State.targetOf (s : State) (r : Req) : DieIx := (r.leadingPlace.bind fun x => s.findDie x.die).getD r.die

/-- The die of another package to which it travels. -/
def State.awayOf (s : State) (r : Req) : Option (BitVec 12) :=
  r.leadingPlace.bind fun x => if s.isAway x.die then some x.die else none

/-- The place that names a request's failure on its way. -/
def State.wayFailure (s : State) (r : Req) : Failed :=
  let id := r.away.getD (s.dieAt r.target).id
  let x := r.pieces.findSome? fun p => p.place.filter fun x => decide (x.die = id)
  (0x0023, match x with
    | some x => physical x.die x.local_
    | none => physical id 0)

/-- A request with its accesses placed; the generation of the die is that of the moment in which they all are (R349). -/
def Req.placedNow (r : Req) (s : State) (ps : List Piece) : Req :=
  { r with pieces := ps
           gen := if r.pieces.isEmpty || r.pieces.any (fun p => p.place.isNone) then (s.dieAt r.die).gen else r.gen }

/-- PAGE_WALK: the walks of a request's accesses are made, the TLBs filled, or the request fails. -/
def execPageWalk (req : Nat) (s : State) : Out :=
  match s.findReq req with
  | none => .fault .notEnabled
  | some r =>
    if r.stage = .issued ∧ s.needsWalk r then
      match s.translateAll r r.pieces true with
      | (s1, .ok ps) => .next (s1.setReq (r.placedNow s ps))
      | (s1, .error (f, bar)) => .next (s1.failSource r f bar)
    else .fault .notEnabled

/-- A placed request of a tile sets out: its context touches the dies it goes to, and an access to the own die goes to
its home at once. -/
def State.setOut (s : State) (r : Req) : State :=
  let s1 := r.targets.foldl (fun s id => if id = (s.dieAt r.die).id then s else s.touch r.die r.ctxid id) s
  let h := s1.targetOf r
  let r := { r with target := h, away := s1.awayOf r
                    phys := r.targets.filter fun id => ((s1.findDie id).map fun d => (s1.dieAt d).atmode).getD false }
  if h ≠ r.die ∨ r.away.isSome then s1.setReq { r with stage := .fabric r.die 0 }
  else
    match s1.targetAll r r.pieces true with
    | (s2, .ok ps) => s2.setReq { r with pieces := ps, stage := .home }
    | (s2, .error (f, bar)) => s2.failSource r f bar

/-- A request whose bytes have to be there before the cycle that would sample its operand has ended takes it now: while the
end of that cycle is held open, or of the issue cycle as its writes will leave the bytes (R30, R131). -/
def State.takeOperandNow (s : State) (r : Req) : Req :=
  let x := s.tileAt r.die r.tile
  if r.sampling.isEmpty || decide (x.phase ≠ .finish) || !r.kind.lands || !r.landsNow r.die r.tile x.now then r
  else r.takeOperand (if r.issued = x.now then ({ s with die := r.die, tile := r.tile } : State).endCycle.here else x)

/-- A request leaves its tile when nothing holds it back (R274, R275). -/
def State.leaveSource (s : State) (r0 : Req) : Out :=
  let r := s.takeOperandNow r0
  if !r.sampling.isEmpty || s.needsWalk r || (match r.kind with
    | .fence _ => true
    | _ => false) then .fault .notEnabled
  else
    match s.translateAll r r.pieces true with
    | (s1, .error (f, bar)) => .next (s1.failSource r f bar)
    | (s1, .ok ps) =>
      let r := r.placedNow s ps
      if s1.heldBack r then .fault .notEnabled else .next (s1.setOut r)

/-- A packet that is dropped: a request fails; of a request already performed the response says so. -/
def State.dropPacket (s : State) (r : Req) : State :=
  let f := s.wayFailure r
  if r.back then s.setReq { r with resp := r.failure f, stage := .done } else s.failReq r r.die f

/-- The payload bytes that a request carries on its way out, or its response on its way back. -/
def Req.payload (r : Req) : Nat :=
  if r.back then 8 * r.resp.x.length + ((r.resp.sp ++ r.resp.slot).map fun c => c.2.length).sum + (if r.resp.stream.isSome then 512 else 0)
  else
    match r.kind with
    | .store _ bs => bs.length
    | .atom _ k => k.size
    | .copy i => i.data.length
    | _ => 0

/-- The packets of an egress entry: one for each flit's payload of the link that its port drives (R426, R427). DESIGN CHOICE
(log 102): what else an entry holds takes no room in a packet. -/
def Req.packets (r : Req) (d : DieIx) (p : Fin 8) : Nat :=
  let unit := if decide (p.val = 7) || inPackage d p then 250 else 242
  max 1 ((r.payload + unit - 1) / unit)

/-- A request enters the egress queue of a port. -/
def State.intoEgress (s : State) (r : Req) (d : DieIx) (p : Fin 8) (hops : Nat) : State :=
  (s.modPort d p fun x => { x with egress := x.egress ++ [{ req := r.id, gen := r.gen, packets := r.packets d p }] }).setReq
    { r with stage := .egress d p hops }

/-- A packet at a router: it has arrived, takes the output port of its flow, or is dropped after 64 hops (R371, R372). -/
def State.route (s : State) (r : Req) (at_ : DieIx) (hops : Nat) : Out :=
  let dest := r.destination
  if at_ = dest ∧ (r.back ∨ r.away.isNone) then .next (s.setReq { r with stage := if r.back then .done else .ingress at_ }).dropFlows
  else if 64 ≤ hops ∨ (!s.live dest ∧ (r.back ∨ r.away.isNone)) then .next (s.dropPacket r)
  else
    let f := s.flowOf r
    match f.portAt at_ with
    | none => .next (s.dropPacket r)
    | some p =>
      if (s.partner at_ p).isNone ∧ !s.leaves at_ p then .next (s.dropPacket r)
      else if 512 ≤ (s.portAt at_ p).egress.length then .fault .notEnabled
      else .next ((s.keepFlow f).intoEgress r at_ p hops)

/-- Whether an access lies in host memory. -/
def Piece.inHost (p : Piece) : Bool := p.place.any fun x => decide (0xC000000000 ≤ x.local_)

/-- The first virtual address of a request that lies in host memory; that of an item whose index entry lies in memory is
its entry's, or is found with the entry (R342). -/
def State.hostVa (s : State) (r : Req) : Option Word :=
  let known := if r.away.isSome then none else (r.pieces.find? Piece.inHost).map (·.va)
  match r.kind with
  | .copy i =>
    known <|> i.indexVa.bind fun va =>
      let s := s.atOnce
      match (s.placePiece r false (readPiece va 4)).2, s.freeRead r va .read 4 with
      | .ok p, .ok (_, bs) =>
        if p.inHost then some va
        else
          let i := { i with index := some (valueOf bs) }
          (s.placePieces r ((i.pieces (valueOf bs)).drop (if i.blk 16 8 = 0 then 0 else 1))).2.toOption.bind fun ps =>
            (ps.find? Piece.inHost).map (·.va)
      | _, _ => none
  | _ => known

/-- A request for host memory leaves its home by the I/O port (R17, R348). -/
def State.toHost (s : State) (r : Req) : Out :=
  if r.crossed || (s.hostVa r).isNone || decide (512 ≤ (s.portAt r.target 7).egress.length) then .fault .notEnabled
  else
    .next (s.intoEgress r r.target 7 0)

/-- Whether a request waits for no link: neither the I/O port of its home, nor those to the other dies that an item
accesses. -/
def State.pastPort (s : State) (r : Req) : Bool :=
  ((s.hostVa r).isNone || (r.crossed && (s.portAt r.target 7).open_)) &&
    (r.away.isSome || (r.pieces.drop (if r.barFirst then 1 else 0)).all fun p => p.place.all fun x => s.linkedTo r.target x.die)

/-- ROUTER_FORWARD: a request leaves its tile, or a packet moves on at a router. -/
def execRouterForward (req : Nat) (s : State) : Out :=
  match s.findReq req with
  | none => .fault .notEnabled
  | some r =>
    match r.stage with
    | .issued => s.leaveSource r
    | .fabric d h => s.route r d h
    | .home => s.toHost r
    | _ => .fault .notEnabled

/-- INGRESS_REQUEST: the checks at the target die. -/
def execIngressRequest (req : Nat) (s : State) : Out :=
  match s.findReq req with
  | none => .fault .notEnabled
  | some r =>
    match r.stage with
    | .ingress d =>
      (match s.targetAll r r.pieces true with
        | (s1, .ok ps) => .next (s1.setReq { r with pieces := ps, stage := .home })
        | (s1, .error (f, bar)) => .next (s1.failReq r d f bar))
    | _ => .fault .notEnabled

/-! ### Where a request is performed -/

/-- The unit that performs a request. -/
inductive Unit_ where
  | home | bank | atomicUnit | near | contribution | arrival | counter
  deriving DecidableEq, Repr

/-- Whether a piece lies in a tile window. -/
def Piece.inWindow (p : Piece) : Bool := p.place.any fun x =>
  match region x.local_ with
  | .window _ _ => true
  | _ => false

/-- Whether a piece lies in DRAM. -/
def Piece.inMemory (p : Piece) : Bool := p.place.any fun x => inDram x.local_

/-- The unit of a request, by what it does and where (R270, R281, R299). -/
def Req.unit (r : Req) : Unit_ :=
  let window := !r.pieces.isEmpty && r.pieces.all Piece.inWindow
  match r.kind with
  | .load .. | .store .. => if window then .bank else .home
  | .atom .. => if window then .atomicUnit else .near
  | .signal .. => if window then .atomicUnit else if r.pieces.all Piece.inMemory then .near else .home
  | .lenq .. | .ldeq _ | .nchase .. | .barinit .. | .barexp .. | .barwait .. => .near
  | .ssync => .arrival
  | .tcadd .. | .tcrd _ => .counter
  | .copy i =>
    let ps := if i.blk 16 8 = 0 then r.pieces else r.pieces.drop 1
    if i.cmd.isCred then .contribution else if !ps.isEmpty && ps.all Piece.inWindow then .bank else .home
  | _ => .home

/-- Whether a write performed in the present cycle of a tile still waits for the cycle's end on bytes of a piece, or the
end of the cycle is held open (R299). -/
def State.windowBusy (s : State) (p : Piece) : Bool :=
  match p.place with
  | none => false
  | some x =>
    match s.findDie x.die, region x.local_ with
    | some d, .window t off =>
      let y := s.tileAt d t
      let a := y.byRole (pteRole x.leaf) off
      s.endHeld d t || y.remote.any fun c => decide (a ≤ c.1) && decide (c.1 < a + p.n)
    | _, _ => false

/-- A request that may be performed now by a unit. -/
def State.atUnit (s : State) (req : Nat) (u : Unit_) : Option Req :=
  match s.findReq req with
  | none => none
  | some r =>
    if decide (r.stage = .home) && decide (r.unit = u) && s.inTurn r && s.pastPort r && !(r.pieces.any s.windowBusy) then some r
    else none

/-- A request performed at its target. -/
def State.conclude (s : State) (r : Req) (p : Performed) : State :=
  match p with
  | .ok (s1, resp) => s1.finishReq r r.target resp
  | .error f => s.failReq r r.target f

/-- The same, for an operation that may have performed a part before it failed. -/
def State.concludePart (r : Req) (p : State × Except Failed Response) : State :=
  match p.2 with
  | .ok resp => p.1.finishReq r r.target resp
  | .error f => p.1.failReq r r.target f

/-- A load or store of a die control register (R417). -/
def State.performRegister (s : State) (r : Req) (p : Piece) (x : Place) : Performed :=
  match r.kind with
  | .store _ bs => (s.atRegister r.level x p.va p.n (some bs)).map fun a => (a.1, {})
  | _ => (s.atRegister r.level x p.va p.n none).map fun a => (a.1, { x := r.d.map fun i => (i, wordOf (valueOf a.2)) })

/-! ### Beyond the package (R1, R25) -/

/-- An access to a die of another package, which performs it or refuses it: what it answers is not known here. -/
def State.performAway (s : State) (r : Req) : Performed :=
  let k := r.tracked s
  let p : Word × Nat := match r.pieces.head? with
    | some p => (p.va, p.n)
    | none => (0, 0)
  (s.awayRead k p.1 p.2).map fun bs =>
    (s, match r.kind with
      | .load et _ => { x := r.d.map fun i => (i, et.extend bs) }
      | .atom _ a => { x := r.d.zip (a.perform bs).1 }
      | .store .. | .signal .. => {}
      | _ => { x := r.d.zipIdx.map fun e =>
          (e.1, wordOf (valueOf ((List.range 8).map fun i => Config.awayByte r.id (p.1 + wordOf (8 * e.2 + i))))) })

/-- A request performed by its own meaning, or beyond the package. -/
def State.awayElse (s : State) (r : Req) (own : State) : State :=
  if r.away.isNone then own
  else
    match r.kind with
    | .copy _ => own
    | _ => s.conclude r (s.performAway r)

/-! ### The rows -/

/-- A load or a store at its home. -/
def State.performPlain (s : State) (r : Req) : Performed :=
  match r.place1 with
  | none => .error r.noPlace
  | some (p, x) =>
    if x.isRegister then s.performRegister r p x
    else
      match r.kind with
      | .load et _ => s.performLoad r et
      | .store _ bs => s.performStore r bs
      | _ => .error r.noPlace

/-- The flag update of a putsig as an atomic (R344). -/
def signalKind (value : Word) (store : Bool) : AtomKind := .rmw (if store then .swap else .add) 64 value

/-- The response of a flag update that has been made. -/
def Response.quiet (x : Response) : Response := { x with x := [] }

/-- The flag update of a putsig whose flag lies in host memory. -/
def State.performHostSignal (s : State) (r : Req) (k : AtomKind) : Performed :=
  match r.place1 with
  | none => .error r.noPlace
  | some (p, x) =>
    match s.placeRead (r.tracked s) x p.va 8 .syncRead with
    | .error f => .error f
    | .ok (s1, old) =>
      match (k.perform old).2 with
      | none => .ok (s1, {})
      | some bs => (s1.placeWrite (r.tracked s1) x p.va bs .syncWrite).map fun s2 => (s2, {})

/-- Whether a payload item of a putsig's run has failed: its flag is not updated (R344). -/
def State.runFailed (s : State) (r : Req) (run : Nat) : Bool := (s.tileAt r.die r.tile).failedRuns.contains run

/-- The superstep barrier as its home holds it (R406). -/
def State.performSstat (s : State) (r : Req) : Performed :=
  match s.barrierHome r.die with
  | none =>
    if (s.dieAt r.die).barrierId.any s.isAway then
      (s.awayRead (r.tracked s) 0 8).map fun bs => (s, r.status (wordOf (valueOf bs)))
    else .error (0x0023, physical ((s.ranks r.die).headD 0) 0)
  | some h =>
    match (s.dieAt h).findCtx r.ctxid with
    | none => .error (0x0023, physical (s.dieAt h).id 0)
    | some q =>
      let c := s.ctxAt h q
      .ok (s.touch r.die r.ctxid (s.dieAt h).id, r.status (wordOf (c.entry.ssnum.toNat + c.ssarr.toNat * 2 ^ 32)))

/-- The dies of n pages from va on are touched (R208). -/
def State.touchPages (s : State) (r : Req) (va : Word) (size n : Nat) : State :=
  (List.range n).foldl (fun s i =>
    let s := s.walked r.die r.asid (va + wordOf (i * size))
    match s.checkWalk r.die (r.who s) .read (va + wordOf (i * size)) with
    | .ok x => s.touch r.die r.ctxid x.die
    | .fail _ _ => s) s

/-- The dies that a key operation's pages lie on. -/
def State.touchKeys (s : State) (r : Req) (va : Word) (n : Nat) : State :=
  let s := s.walked r.die r.asid va
  match s.checkWalk r.die (r.who s) .read va with
  | .ok x => s.touchPages r va (keyPageSize (pteKd x.leaf) (pteKt x.leaf)) n
  | .fail _ _ => s

/-- A request performed at its home, or begun there. -/
def State.performHome (s : State) (r : Req) : State :=
  match r.kind with
  | .load .. | .store .. => s.conclude r (s.performPlain r)
  | .signal run _ b t _ v st =>
    if s.runFailed r run then s.finishReq r r.target {}
    else
      match s.performHostSignal r (signalKind v st) with
      | .ok (s1, resp) => s1.finishReq r r.target resp
      | .error f => s.setReq (r.answered r.target { status := some (b, some f.1, 0, t) })
  | .ksel et _ =>
    let s1 := s.touchKeys r (wordOf (part r.operand 0 8)) (min 4096 (part r.operand 8 2))
    s1.conclude r (s1.performKsel r et r.operand)
  | .kcrust va n => State.concludePart r ((s.touchKeys r va (min 4096 n.toNat)).performKcrust r va n)
  | .sstatBar => s.conclude r (s.performSstat r)
  | .sstatStg => s.finishReq r r.target (r.status 0)
  | .csched st => s.finishReq r r.target (r.status st)
  | .lyc off => s.conclude r (s.performLyc r off)
  | .lyq off arg what => s.conclude r (s.performLyq r off arg what)
  | .tsld va red => s.conclude r (s.performTsld r va red)
  | .rtld va first => s.conclude r (s.performRtld r va first)
  | .tlbinv va asid what => s.beginTlbinv r va asid what
  | .atw sel lo hi => s.conclude r (s.performAtw r sel lo hi)
  | .ditw sel va load => s.conclude r (s.performDitw r sel va load)
  | .fcolLoad slot va => s.conclude r (s.performFcolLoad r slot va)
  | .fcolRun slot va => s.conclude r (s.performFcolRun r slot va)
  | .ftrigArm e va => s.conclude r (s.performArm r e va)
  | .ftrigDisarm e => let a := s.performDisarm r e; a.1.finishReq r r.target a.2
  | .ftrigQuery e => let a := s.performQuery r e; a.1.finishReq r r.target a.2
  | .rshd x y c => s.conclude r (s.performRshd r x y c)
  | .rshq x y p => s.conclude r (s.performRshq r x y p)
  | .kill v => s.beginKill r v
  | .ctxsw a b what => s.beginSwap r a b what
  | .copy i => (s.performCopy r i).close r.target
  | _ => s.finishReq r r.target {}

/-- Whether an operation on translations or contexts may begin: at most 16 tlbinv are in progress in a partition, and a
kill waits for a swap of its context (R352, R392). -/
def State.mayBegin (s : State) (r : Req) : Bool :=
  match r.kind with
  | .tlbinv .. => decide (s.tlbinvs r.die < 16)
  | .kill v => !s.swapping (v.setWidth 16)
  | _ => true

/-- Lines leave their slices before an access; a line whose records find no room in their bucket stays (R310, R311). -/
def State.evictAll (s : State) (d : DieIx) (ks : List Nat) : State :=
  ks.foldl (fun s k => (s.evictLine d (lineOfSector k)).getD s) s

/-- HOME_ACCESS: the sectors are named whose lines leave the slice first, as far as they can. A fill that then finds no
room is refused (R311). -/
def execHomeAccess (req : Nat) (evict : List Nat) (s : State) : Out :=
  match s.atUnit req .home with
  | none => .fault .notEnabled
  | some r =>
    let held (k : Nat) : Bool := (s.dieAt r.target).slices.any fun c => decide (c.sector = k)
    if !s.mayBegin r || !evict.all held then .fault .notEnabled
    else
      let s1 := s.evictAll r.target evict
      settled (s1.awayElse r (s1.performHome r))

/-- REMOTE_ACCESS: a plain access at a tile's bank. -/
def execRemoteAccess (req : Nat) (s : State) : Out :=
  match s.atUnit req .bank with
  | none => .fault .notEnabled
  | some r =>
    match r.kind with
    | .copy i => settled ((s.performCopy r i).close r.target)
    | _ => .next (s.awayElse r (s.conclude r (s.performPlain r)))

/-- Whether some of n bytes at an offset lie in a bank. -/
def hitsBank (bank off n : Nat) : Bool := (List.range n).any fun i => decide ((off + i) / 64 % 32 = bank)

/-- Bytes of a local atomic or of a write of the control core that complete in this cycle at a bank of the tile. -/
def Result.busyBank (f : Result) (bank : Nat) : Bool :=
  decide (f.agent = .cc) &&
    ((match f.sample with
      | some (0, .atom _ off k) => hitsBank bank off k.size
      | _ => false) ||
    (decide (f.left ≤ 1) && f.effects.any fun e =>
      match e with
      | .sp off bs => hitsBank bank off bs.length
      | _ => false))

/-- Whether the bank that an atomic goes to performs a local atomic or receives a write of the control core in the
tile's present cycle (R282, R299). -/
def State.bankBusy (s : State) (p : Piece) : Bool :=
  match p.place with
  | none => false
  | some x =>
    match s.findDie x.die, region x.local_ with
    | some d, .window t off =>
      let y := s.tileAt d t
      let a := y.byRole (pteRole x.leaf) off
      s.inCycle d t && decide (a < 0x200000) && ((y.flight.any fun f => f.busyBank (a / 64 % 32)) ||
        s.reqs.any fun r => r.landsNow d t y.now && decide (r.agent = .cc) && r.resp.sp.any fun b => hitsBank (a / 64 % 32) b.1 b.2.length)
    | _, _ => false

/-- The atomic of a request and the response that it makes of the old value. -/
def Req.atomic (r : Req) : Option (AtomKind × (Response → Response)) :=
  match r.kind with
  | .atom _ k => some (k, fun x => x)
  | .signal _ _ _ _ _ v st => some (signalKind v st, Response.quiet)
  | _ => none

/-- REMOTE_ATOMIC: an atomic at a tile's bank. -/
def execRemoteAtomic (req : Nat) (s : State) : Out :=
  match s.atUnit req .atomicUnit with
  | none => .fault .notEnabled
  | some r =>
    if r.pieces.any s.bankBusy then .fault .notEnabled
    else
      match r.kind with
      | .signal run .. => if s.runFailed r run then .next (s.finishReq r r.target {}) else
          .next (match r.atomic with
            | some (k, f) => s.awayElse r (s.conclude r ((s.performBankAtom r k).map fun a => (a.1, f a.2)))
            | none => s)
      | _ =>
        match r.atomic with
        | some (k, f) => .next (s.awayElse r (s.conclude r ((s.performBankAtom r k).map fun a => (a.1, f a.2))))
        | none => .fault .notEnabled

/-- NEAR_MEMORY_OP: an operation at a near-memory unit, indivisible. -/
def execNearMemoryOp (req : Nat) (s : State) : Out :=
  match s.atUnit req .near with
  | none => .fault .notEnabled
  | some r =>
    if r.away.isSome ∧ !(match r.kind with
        | .signal run .. => s.runFailed r run
        | _ => false) then .next (s.conclude r (s.performAway r))
    else .next (match r.kind with
      | .atom _ k => s.conclude r (s.performAtom r k)
      | .signal run _ _ _ _ v st =>
        if s.runFailed r run then s.finishReq r r.target {}
        else s.conclude r ((s.performAtom r (signalKind v st)).map fun a => (a.1, a.2.quiet))
      | .lenq _ v => s.conclude r (s.performList r (some v))
      | .ldeq _ => s.conclude r (s.performList r none)
      | .nchase a c k h l => s.performChase r a c k h l
      | .barinit _ n => s.conclude r (s.performBarrier r (.init n))
      | .barexp _ n => s.conclude r (s.performBarrier r (.exp n))
      | .barwait _ p => s.conclude r (s.performBarrier r (.wait p))
      | _ => s)

/-- CRUST_WIDEN: a widening reaches the crust's slice; where it fails, the write that it belongs to reports it (R250). -/
def execCrustWiden (index : Nat) (s : State) : Out :=
  match s.widen[index]? with
  | none => .fault .notEnabled
  | some w =>
    let s1 := { s with widen := s.widen.eraseIdx index }
    if !s.linkedTo w.home (s.dieAt w.die).id then .fault .notEnabled
    else
      .next (match s1.applyWidening w with
        | .ok s2 => s2
        | .error f => { s1 with reqs := s1.reqs.map fun r => if w.req = some r.id then { r with resp := r.failure f } else r })

/-- The task of a request: it runs on the request's tile, or is parked there. -/
def State.taskOfReq (s : State) (r : Req) : Option Task :=
  let x := s.tileAt r.die r.tile
  if x.cc.ctxid = r.ctxid ∧ x.task.isSome then x.task
  else ((s.dieAt r.die).findCtx r.ctxid).bind fun q => ((s.ctxAt r.die q).parkedAt r.tile).map (·.task)

/-- A participant has arrived: its record says so, and the barrier home counts it once (R404). -/
def State.arrive (s : State) (r : Req) (h : DieIx) (q : Fin 16) : State :=
  match s.taskOfReq r with
  | none => s
  | some k =>
    match (s.ctxAt k.home k.q).record k.index with
    | none => s
    | some x =>
      if x.arrived then s
      else
        let s1 := s.modCtx k.home k.q fun c => c.setRecord k.index { x with arrived := true }
        (s1.modCtx h q fun c => { c with ssarr := c.ssarr + 1 }).fireIfFull h q

/-- SSYNC_ARRIVAL. -/
def execSsyncArrival (req : Nat) (s : State) : Out :=
  match s.atUnit req .arrival with
  | none => .fault .notEnabled
  | some r =>
    match s.barrierHome r.die with
    | none =>
      if (s.dieAt r.die).barrierId.any s.isAway then .next (s.finishReq r r.die {})
      else .next (s.failReq r r.die (0x0023, physical ((s.ranks r.die).headD 0) 0))
    | some h =>
      match (s.dieAt h).findCtx r.ctxid with
      | none => .next (s.failReq r r.die (0x0023, physical (s.dieAt h).id 0))
      | some q =>
        let s1 := s.touch r.die r.ctxid (s.dieAt h).id
        if s.linkedTo r.die (s.dieAt h).id then .next ((s1.finishReq r r.die {}).arrive r h q) else .fault .notEnabled

/-- HOST_PAGE_RESOLVED: the host had reported a page of the request as not resident. It has made it resident for an item
of class H, which completes, or it cannot: the accesses of such an item to the page fail with 0x0022, those of any other request
with 0x0021 (R267, R338, R339). -/
def execHostPageResolved (req : Nat) (resident : Bool) (s : State) : Out :=
  match s.findReq req with
  | none => .fault .notEnabled
  | some r =>
    let classH := match r.kind with
      | .copy i => decide (i.op.cls = 2)
      | _ => false
    match s.hostVa r with
    | none => .fault .notEnabled
    | some va =>
      let cause : BitVec 16 := if classH then 0x0022 else 0x0021
      if r.stage ≠ .home ∨ !s.inTurn r ∨ !s.pastPort r ∨ r.unit ≠ .home then .fault .notEnabled
      else if resident then (if classH then settled (s.performHome r) else .fault .notEnabled)
      else
        match r.kind with
        | .copy i => settled ((s.performCopy r i (some (cause, va))).close r.target)
        | _ => .next (s.failReq r r.target (cause, va))

/-! ### Responses (R30, R226) -/

/-- The device changes bytes of a frame slot in place. -/
def Die.frameWrite (x : Die) (l : Nat) (bs : List Byte) : Die :=
  if (x.poisonAt l bs.length).isSome then x else { x with dram := x.dram.write l bs }

/-- A response that lands after its task's frame has been written, whichever stop has captured its request, is stored there:
the entries that differ from those written before, and the data that wait in the silo (R226). -/
def State.markFrame (s : State) (r : Req) : State :=
  if r.captured.isNone then s
  else
    match (s.dieAt r.die).findCtx r.ctxid with
    | none => s
    | some q =>
      let c := s.ctxAt r.die q
      match c.parkedAt r.tile with
      | none => s
      | some p =>
        if !c.entry.frameOk then s
        else
          let base := c.entry.frame r.tile
          let es := s.requestEntries r.die r.tile r.ctxid p.slots
          let fresh := es.filter fun e => !p.record.entries.contains e
          let data := (s.staging r.die r.tile r.ctxid p.slots).flatMap (·.2)
          let s1 := s.modDie r.die fun y =>
            data.foldl (fun y u => y.frameWrite (base + 0x60000 + u.1) u.2) (fresh.foldl (fun y e => y.frameWrite (base + e.off) e.bytes) y)
          s1.modCtx r.die q fun c => { c with parked := c.parked.map fun y =>
            if y.1 = r.tile then (y.1, { y.2 with record := { y.2.record with entries := es } }) else y }

/-- A request without its entry. -/
def State.removeReq (s : State) (id : Nat) : State := { s with reqs := s.reqs.filter fun r => !decide (r.id = id) }

/-- Whether the condition on which a request lands holds now. -/
def State.mayLand (s : State) (r : Req) : Bool :=
  match r.kind, r.stage with
  | .fence c, .issued => s.fenceDone r c.toNat
  | _, .done => !s.widen.any fun w => decide (w.req = some r.id)
  | _, _ => false

/-- RESPONSE_LAND: a response lands at its tile; that of a task that has ended is discarded. -/
def execResponseLand (req : Nat) (s : State) : Out :=
  match s.findReq req with
  | none => .fault .notEnabled
  | some r =>
    if !s.mayLand r then .fault .notEnabled
    else if r.orphan then .next (s.removeReq r.id)
    else
      let r := { r with stage := .landed }
      let x := s.tileAt r.die r.tile
      let s1 := if x.phase = .finish ∧ r.kind.lands ∧ r.landsNow r.die r.tile x.now then
          s.setTile r.die r.tile { x with heldOpen := true } else s
      .next ((s1.setReq r).markFrame r)

end Sys2Proof.Machine
end

