-- ==== Sys2Proof/Machine/Power.lean ====
section
/-!
DEFINITION. The package as a whole (R312, R415, R416, R432, R437 to R441): the sweep of race records, host requests, the
loss and the reset of a die, the power controller, boot, attestation and power.
-/
namespace Sys2Proof.Machine

/-! ### The sweep (R312) -/

/-- SFLOOR of a tile of die d after its scans: every slice of the live dies of the partition has scanned since the
close of what lies below it. A die whose last scan of the tile lies below SFLOOR, as one that is new in the partition, has
seen nothing yet. -/
def State.floorOf (s : State) (d : DieIx) (t : TileIx) : BitVec 32 :=
  let x := s.tileAt d t
  let open_ := (x.seg - x.sfloor).toNat
  let seen (h : DieIx) : Nat := open_ - (x.seg - nth x.scans h).toNat
  x.sfloor + BitVec.ofNat 32 ((s.partition d).foldl (fun m h => min m (seen h)) open_)

/-- Every tile whose partition includes die h has been scanned there up to its open segment. -/
def State.noteScan (s : State) (h : DieIx) : State :=
  (List.finRange 8).foldl (fun s d =>
    if !(s.partition d).contains h then s
    else
      let s1 := s.modDie d fun x => { x with tiles := x.tiles.map fun (t : Tile) => { t with scans := upd t.scans h t.seg } }
      (List.finRange 64).foldl (fun s t => s.modTile d t fun x => { x with sfloor := s.floorOf d t }) s1) s

/-- SEGMENT_SWEEP: a scan of the slices of die d. -/
def execSegmentSweep (d : DieIx) (s : State) : Out :=
  if s.live d then .next ((s.sweepRecords d).noteScan d) else .fault .notEnabled

/-! ### Host requests (R432) -/

/-- Whether an entry of the host filter covers a granule; its source fields are not used. -/
def filterMatches (e : BitVec 128) (granule : Nat) : Bool :=
  e.getLsbD 0 && decide ((e.extractLsb' 24 24).toNat ≤ granule) && decide (granule ≤ (e.extractLsb' 64 24).toNat)

/-- Whether the host filter allows an access to one granule of local addresses. -/
def IoDie.allows (io : IoDie) (write : Bool) (granule : Nat) : Bool :=
  io.filter.toList.any fun e => filterMatches e granule && (if write then e.getLsbD 2 else e.getLsbD 1)

/-- Whether the host filter allows an access to n bytes. -/
def IoDie.allowsAll (io : IoDie) (write : Bool) (l n : Nat) : Bool :=
  (List.range ((l + n - 1) / 65536 + 1 - l / 65536)).all fun k => io.allows write (l / 65536 + k)

/-- A host request that no filter entry turns away: the answer to the host and the state. -/
def State.hostPerform (s : State) (a : HostAccess) : Option (State × List Byte) :=
  let l := a.addr.toNat % 2 ^ 40
  let x : Place := { die := a.addr.extractLsb' 40 12, local_ := l, leaf := 0, size := 65536 }
  let k : Tracked :=
    { who := { tile := 0, die := x.die, level := .system, ctxid := 0, asid := 0 }, seg := 0, untracked := true }
  let n := a.data.length
  let last := region (l + n - 1)
  let whole := match region l, last with
    | .window t _, .window u _ => decide (t = u)
    | p, q => decide (p = .dram ∧ q = .dram) || decide (p = .spill ∧ q = .spill)
  if !whole then none
  else if a.write then
    match s.placeWrite k x 0 a.data .write with
    | .ok s1 => some (s1, [])
    | .error _ => none
  else
    match s.placeRead k x 0 n .read with
    | .ok r => some r
    | .error _ => none

/-- The fields of a doorbell page, from its start (R433); they are read whether or not a context is resident. -/
def State.doorbellPage (s : State) (d : DieIx) (q : Fin 16) : List Byte :=
  let c := s.ctxAt d q
  List.replicate 16 0 ++ (if s.live d then bytesOf 8 c.gqstat.toNat ++ bytesOf 8 c.caddr.toNat else [])

/-- A write at an offset of a doorbell page (R433). -/
def State.doorbellWrite (s : State) (d : DieIx) (q : Fin 16) (off : Nat) (bs : List Byte) : State :=
  let v := valueOf bs
  if !s.pageInUse d q then s
  else if off = 0 ∧ bs.length = 16 then s.submit d q (BitVec.ofNat 128 v)
  else if off = 16 ∧ bs.length = 8 then s.modCtx d q fun c => c.clearGq (wordOf v)
  else if off = 24 ∧ bs.length = 8 then s.modCtx d q fun c => { c with caddr := wordOf (v / 8 * 8) }
  else if off < 16 then s.modCtx d q fun c => { c with gq := { c.gq with err := true } }
  else s

/-- The number by which the boot status register tells its reports apart. -/
def BootStatus.number : BootStatus → Nat
  | .off => 0 | .waiting => 1 | .tooLarge => 2 | .badKey => 3 | .badSignature => 4 | .oldVersion => 5 | .running => 6
  | .keyExhausted => 7

/-- A byte of the I/O die registers: their places and codes are not given, so that it is a free value made from what they
hold, DSTATE and the boot status (R432, log 101). -/
def IoDie.registerByte (io : IoDie) (o : Nat) : Byte :=
  Config.ioRegister (io.dstate.toList.map BitVec.toNat) io.boot.number o

/-- A host request through the register aperture (R417, R432, R433); none where it holds nothing. Writes of the I/O die
registers are rows of their own: DSTATE_WRITE, FIRMWARE_IMAGE_LOAD, ATTESTATION_REQUEST. -/
def State.hostRegister (s : State) (a : HostAccess) : Option (State × List Byte) :=
  let o := a.addr.toNat
  let n := a.data.length
  if o < 0x8000000 then
    let d : DieIx := Fin.ofNat 8 (o / 0x1000000)
    match (if s.live d ∧ n = 8 ∧ o % 8 = 0 then regAt (o % 0x1000000) else none) with
    | none => none
    | some g => some (if a.write then (s.regWrite d g (wordOf (valueOf a.data)), []) else (s, bytesOf 8 (s.regRead d g).toNat))
  else if o < 0x8080000 then
    let d : DieIx := Fin.ofNat 8 (o / 0x10000)
    let q := Fin.ofNat 16 (o / 0x1000)
    some (if a.write then (s.doorbellWrite d q (o % 0x1000) a.data, [])
      else (s, (List.range n).map fun i => (s.doorbellPage d q).getD (o % 0x1000 + i) 0))
  else if 0xC000000 ≤ o ∧ o + n ≤ 0xD000000 ∧ s.io.boot ≠ .off ∧ !a.write then
    some (s, (List.range n).map fun i => s.io.registerByte (o - 0xC000000 + i))
  else none

/-- The die whose I/O port a host request crosses (R17). -/
def State.hostPort (s : State) (a : HostAccess) : Option DieIx :=
  let o := a.addr.toNat
  if !a.register then s.findDie (a.addr.extractLsb' 40 12)
  else if o < 0x8000000 then some (Fin.ofNat 8 (o / 0x1000000))
  else if o < 0x8080000 then some (Fin.ofNat 8 (o / 0x10000))
  else none

/-- A host request has passed the Oshel link, and the I/O link of the die that it is for. -/
def State.hostArrives (s : State) (a : HostAccess) : State :=
  match s.hostPort a with
  | some d => s.fromHost d
  | none => { s with io := { s.io with oshelIn := s.io.oshelIn + 1 } }

/-- Whether a host request goes to a tile's window while the end of that tile's cycle is held open (R30). -/
def State.meetsHeldEnd (s : State) (a : HostAccess) : Bool :=
  !a.register && (match s.findDie (a.addr.extractLsb' 40 12), region (a.addr.toNat % 2 ^ 40) with
    | some d, .window t _ => s.endHeld d t
    | _, _ => false)

/-- HOST_ACCESS: a request through the register aperture, or one through the memory aperture that the host filter allows,
performed at its home without race tracking; it waits while the die's I/O port carries nothing. What is not allowed, or
cannot be performed there, is refused without effect. -/
def execHostAccess (a : HostAccess) (s : State) : Out :=
  let n := a.data.length
  let ok := decide (n ≠ 0) &&
    (a.register || (s.isLive (a.addr.extractLsb' 40 12) && s.io.allowsAll a.write (a.addr.toNat % 2 ^ 40) n))
  if ok && ((s.hostPort a).any (fun d => !(s.portAt d 7).open_) || s.meetsHeldEnd a) then .fault .notEnabled
  else
    let s0 := if ok then s.hostArrives a else { s with io := { s.io with oshelIn := s.io.oshelIn + 1 } }
    settled (match if !ok then none else if a.register then s0.hostRegister a else s0.hostPerform a with
      | some (s1, bs) => if a.write then s1 else s1.report (.hostRead bs)
      | none => s0.report .hostRefused)

/-! ### The loss of a die (R229, R403, R415) -/

/-- The tiles of die h that run a task of context q, and those that are to be resumed, take the loss of the die `id`. -/
def State.tellTiles (s : State) (h : DieIx) (q : Fin 16) (id : BitVec 12) : State :=
  let c := s.ctxAt h q
  let ctxid := c.entry.ctxid
  let tell (x : Tile) : Tile :=
    if x.runs ctxid && (decide (x.mode = .running) || decide (x.mode = .ending)) then { x with dieLost := x.dieLost ++ [id] } else x
  let s1 := s.modDie h fun x => { x with tiles := x.tiles.map tell }
  s1.modCtx h q fun c =>
    { c with parked := c.parked.map fun p =>
        if s.isSuspended p.2 then p else (p.1, { p.2 with dieLost := p.2.dieLost ++ [id] }) }

/-- The records that a dispatcher has placed on a lost die and has not seen retire end FAULTED. -/
def State.faultPlaced (s : State) (h : DieIx) (q : Fin 16) (id : BitVec 12) : State :=
  let out (i : Nat) : Bool := ((s.ctxAt h q).record i).any fun r =>
    decide (r.die = id) && (decide (r.state = .placed) || decide (r.state = .running) || decide (r.state = .suspended))
  ((List.range (s.graphSize h q)).filter out).foldl (fun s i => s.faultRecord h q i 0x0041) s

/-- A participant that waits for a start signal of a barrier whose home is lost, on its tile or parked: its `ssync` fails
(R403). -/
def State.failGangs (s : State) (lost : DieIx) : State :=
  let hit (r : Req) : Bool :=
    decide (r.kind = .ssync) && !r.orphan && r.performed && decide (r.stage ≠ .retired) && decide (s.barrierHome r.die = some lost) &&
      (let x := s.tileAt r.die r.tile
       let parked := ((s.dieAt r.die).findCtx r.ctxid).bind fun q => (s.ctxAt r.die q).parkedAt r.tile
       (decide (x.cc.ctxid = r.ctxid) && x.super.any (fun p => !p.started) && !x.signal)
         || parked.any fun p => p.super.any (fun y => !y.started) && !p.signal)
  { s with reqs := s.reqs.map fun r =>
      if hit r then { r with resp := { r.resp with fault := some (0x0023, physical (s.dieAt lost).id 0) } } else r }

/-- Requests of a die that is gone: those still on their way come to an end where they are, those that have not left it
go with it. -/
def State.forgetOwn (s : State) (d : DieIx) : State :=
  { s with reqs := s.reqs.filterMap fun r =>
      if r.die ≠ d then some r
      else
        match r.stage with
        | .fabric .. | .egress .. | .ingress _ | .home | .adding =>
          if r.target = d || r.back then none else some { r with orphan := true, captured := none, post := none }
        | _ => none }

/-- Requests to a lost die that are still in flight fail with cause 0x0023. -/
def State.failTo (s : State) (d : DieIx) : State :=
  let out (r : Req) : Bool := decide (r.die ≠ d) && decide (r.target = d) && (match r.stage with
    | .ingress _ | .home | .adding | .waiting => true
    | .fabric h _ | .egress h _ _ => !r.back || decide (h = d)
    | .done => false
    | _ => false)
  (s.reqs.filter out).foldl (fun s r =>
    if r.back then s.setReq { r with resp := r.failure (s.wayFailure r), stage := .done }
    else s.failReq r r.die (s.wayFailure r) (decide (r.stage = .adding))) s

/-- A die is declared lost: no other die waits for a link in what it then does. -/
def State.loseDie (s : State) (d : DieIx) : State :=
  let id := (s.dieAt d).id
  let s1 := s.failGangs d
  let s2 := { s1 with io := { s1.io with dstate := upd s1.io.dstate d 3 } }
  let s3 := ((s2.forgetOwn d).failTo d).idleThresher d
  (List.finRange 8).foldl (fun s h =>
    if !s.live h then s
    else (List.finRange 16).foldl (fun s q =>
      let c := s.ctxAt h q
      if c.entry.state = 0 ∨ !c.touched.getLsbD id.toNat then s
      else (((s.tellTiles h q id).atOnce.faultPlaced h q id).settleGraph h q).rejoin s) s) s3

/-- DIE_LOSS_DECLARE. -/
def execDieLossDeclare (d : DieIx) (s : State) : Out :=
  if s.dstate d = 0 ∨ s.dstate d = 3 then .fault .notEnabled else .next (s.loseDie d)

/-- DSTATE_WRITE: writing 3 is an order to declare the die lost. -/
def execDstateWrite (d : DieIx) (value : BitVec 2) (s : State) : Out :=
  .next (if value = 3 ∧ s.dstate d ≠ 3 then s.loseDie d else { s with io := { s.io with dstate := upd s.io.dstate d value } })

/-! ### Training (R21, R415, R429) -/

/-- A die whose I/O port has come out of a training with no lane is declared lost (R415). -/
def State.afterTraining (s : State) (d : DieIx) (p : Fin 8) (trained : Bool) : State :=
  let dead := decide (p.val = 7) && (!trained || decide ((lmapModule (s.portAt d p).lmap 0).width = 3))
  if dead && (decide (s.dstate d = 1) || decide (s.dstate d = 2)) then s.loseDie d else s

/-- LINK_TRAINING: a link trains at the widths that it reaches, repaired or narrowed as training finds (R21, R428). A link
held down trains only when system software retrains it. -/
def execLinkTraining (d : DieIx) (p : Fin 8) (result : Training) (s : State) : Out :=
  if p.val = 0 ∨ (s.portAt d p).busy ∨ (s.portAt d p).down then .fault .notEnabled
  else
    let v := (s.portAt d p).lmap
    let reached (m : Nat) : Module :=
      if h : m < 4 then
        let w := (nth result.widths ⟨m, h⟩).toNat
        let x := lmapModule v m
        { x with width := w, low := if w = 2 then 0 else x.low, high := if w = 1 then 0 else x.high }
      else { width := 3, low := 0, high := 0 }
    .next ((if result.success then s.train d p result (lmapOf reached)
      else (s.modLink d p fun x => { x with down := true }).report (.linkDown d p)).afterTraining d p result.success)

/-- LINK_COMMAND_COMPLETE: the command ends with DONE or ERR at the end that wrote it. -/
def execLinkCommandComplete (d : DieIx) (p : Fin 8) (result : Training) (s : State) : Out :=
  let x := s.portAt d p
  match x.command with
  | none => .fault .notEnabled
  | some w =>
    let s1 := (s.modLink d p fun x => { x with busy := false }).modPort d p fun x => { x with command := none }
    let done (s : State) : State := s.modPort d p fun x => { x with doneBit := true }
    let again (g : Egress) : Egress := { g with lost := false }
    match lctlResult (portModules d p) w x.lmap with
    | none => .next (s1.refuseLctl d p)
    | some v =>
      match lctlCode w with
      | 2 => .next (done (s1.modLink d p fun x => { x with paused := false, egress := x.egress.map again }))
      | 3 => .next (done (s1.modLink d p fun x => { x with lmap := v }))
      | 4 | 5 | 6 =>
        if !s.idAgrees d p result then .next ((s1.train d p result v).refuseLctl d p)
        else if result.success then .next ((done (s1.train d p result v)).afterTraining d p true)
        else .next ((s1.refuseLctl d p).afterTraining d p false)
      | _ => .next (done s1)

/-! ### The reset of a die (R251, R416) -/

/-- DRAM without what dirty sectors have changed: its bits, and the marks that the writes would have cleared (R251, R416). -/
def Die.discardDirty (x : Die) : Die :=
  let marked (f : CacheSector → Bool) : List Nat := (x.slices.filter f).map (·.sector)
  { x with
    slices := [], poison := x.poison ++ marked (·.bad), flaws := x.flaws ++ marked (·.flaw)
    dram := x.slices.foldl (fun m c =>
      match c.old with
      | some v => m.put (c.sector * 32) 32 v.toNat
      | none => m) x.dram }

/-- A port after a die reset: LMAP keeps what training left, and a threshold stays as written. -/
def Port.afterReset (p : Port) : Port := { threshold := p.threshold, armed := p.armed, lmap := p.lmap }

/-- A tile after a die reset: POSN is the firmware's, and the records placed on the tile are the dispatcher's. -/
def Tile.afterReset (x : Tile) : Tile := { posn := x.posn, placed := x.placed }

/-- The links of a die that has been reset: no other die changes state, so this end numbers as the far end expects, and
expects what the far end sends next. -/
def State.resetLinks (s : State) (d : DieIx) : State :=
  (List.finRange 8).foldl (fun s p =>
    match s.partner d p with
    | none => s
    | some (e, k) =>
      let next := ((s.portAt e k).nextEntry.map fun g => (s.portAt e k).nextNumber g.2).getD (s.portAt e k).seqOut
      s.modPort d p fun x => { x with seqIn := next, seqOut := (s.portAt e k).seqIn }) s

/-- A die after a die reset: the race records in its spill area stay in DRAM. A rerun in progress ends with the tile that
it was to stop. DEDUCED (log 99). -/
def Die.afterReset (x : Die) : Die :=
  let x := x.discardDirty
  { x with
    tiles := x.tiles.map Tile.afterReset, races := x.races.filter fun p => p.2.spilled
    access := Vector.replicate 7 (Vector.replicate 16 0), accessLo := Vector.replicate 7 (Vector.replicate 16 0)
    routes := Vector.replicate 1024 0, tlb2 := [], itlb := [], gen := 0, ports := x.ports.map Port.afterReset, thresher := none
    atmode := true, wbbusy := false, wbdone := false, tbusy := false, tcode := if x.tbusy then 3 else x.tcode }

/-- DIE_RESET: refused while a context is resident, unless the die is lost. -/
def execDieReset (d : DieIx) (s : State) : Out :=
  let resident := (List.finRange 16).any fun q => (s.ctxAt d q).entry.state = 1 ∨ (s.ctxAt d q).entry.state = 3
  if s.dstate d ≠ 3 ∧ resident then .next s
  else
    let s1 := (List.finRange 64).foldl (fun s t => s.discardPreload d t) s
    let s2 := (((s1.forgetOwn d).modDie d Die.afterReset).resetLinks d).settlePre d
    .next { s2 with io := { s2.io with dstate := upd s2.io.dstate d 1 } }

/-! ### Power (R436, R437) -/

/-- The activity of a tile since the last power interval. -/
def Tile.activitySince (x : Tile) : Nat := ((List.finRange 5).map fun a => (nth x.activity a - nth x.counted a).toNat).sum

/-- The activity a_i of a die. -/
def Die.activitySince (x : Die) : Nat := (x.tiles.toList.map Tile.activitySince).sum

/-- Dies in rising order of their IDs. -/
def State.byId (s : State) (ds : List DieIx) : List DieIx :=
  ds.foldl (fun acc d => let (a, b) := acc.span fun e => decide ((s.dieAt e).id.toNat ≤ (s.dieAt d).id.toNat); a ++ d :: b) []

/-- Dies in decreasing order of a remainder, ties in the order given. -/
def byRemainder (rem : DieIx → Nat) (ds : List DieIx) : List DieIx :=
  ds.foldl (fun acc d => let (a, b) := acc.span fun e => decide (rem d ≤ rem e); a ++ d :: b) []

/-- The shares of the pool of 67 tokens, for dies in rising order of their IDs. -/
def shares (act : DieIx → Nat) (ds : List DieIx) (d : DieIx) : Nat :=
  let total := (ds.map act).sum
  if total = 0 then 0
  else
    let base (e : DieIx) : Nat := 67 * act e / total
    let left := 67 - (ds.map base).sum
    base d + (if ((byRemainder (fun e => 67 * act e % total) ds).take left).contains d then 1 else 0)

/-- STEP of a die after an interval with MEAS against TOKENS. -/
def nextStep (hot : Bool) (step meas tokens : Nat) : Nat :=
  if hot then 3
  else if 16 * tokens < meas then max (step - 1) 3
  else if meas * (step + 2) ≤ 16 * tokens * (step + 1) ∧ step < 15 then step + 1
  else step

/-- A die after a power interval. -/
def Die.repower (x : Die) (share : Nat) (m : PowerMeasure) : Die :=
  let tokens := min (111 + share) x.dcap.toNat
  let seen (t : Tile) : Tile := { t with counted := t.activity }
  { x with
    tokens := BitVec.ofNat 8 tokens, meas := m.meas, hot := m.hot, tiles := x.tiles.map seen
    step := BitVec.ofNat 4 (nextStep m.hot x.step.toNat m.meas.toNat tokens) }

/-- The dies that the power controller reaches: live, with an I/O port that carries traffic (R17). -/
def State.powered (s : State) : List DieIx := s.byId ((List.finRange 8).filter fun d => s.live d && (s.portAt d 7).open_)

/-- POWER_INTERVAL: for every live die, over its I/O port (R17, R437). One that is not reached keeps its tokens, and its
activity is counted when it is. DESIGN CHOICE (log 86). -/
def execPowerInterval (measure : Vector PowerMeasure 8) (s : State) : Out :=
  let ds := s.powered
  let act (d : DieIx) : Nat := (s.dieAt d).activitySince
  .next (ds.foldl (fun s1 d => (s1.modDie d fun x => x.repower (shares act ds d) (nth measure d)).hostPacket d) s)

/-! ### Boot (R19, R28, R439) -/

/-- POSN of a tile of the die at coordinates (x, y, z) (R28). -/
def bootPosn (b : BootValues) (x y z : Nat) (t : TileIx) : BitVec 32 :=
  BitVec.ofNat 32 (t.val * 2 ^ 24 + b.xs.val * 2 ^ 21 + b.ys.val * 2 ^ 18 + b.zs.val * 2 ^ 15 + x * 2 ^ 8 + y * 2 ^ 4 + z)

/-- Entry j of a die interleave table filled round robin. -/
def bootDit (b : BootValues) (j : Nat) : BitVec 12 := (b.dit[j % b.dit.length]?).getD 0

/-- Module m of a port of so many modules as training at boot leaves it (R428). -/
def bootModule (modules : Nat) (v : BitVec 64) (m : Nat) : Module :=
  if modules ≤ m then { width := 3, low := 0, high := 0 }
  else
    let x := lmapModule v m
    { x with low := min 2 x.low, high := min 2 x.high }

/-- A compute die as boot firmware leaves it. -/
def Die.booted (b : BootValues) (d : DieIx) : Die :=
  let x := 2 * b.px.val + localCoord d 0
  let y := 2 * b.py.val + localCoord d 1
  let z := 2 * b.pz.val + localCoord d 2
  let tile (t : TileIx) : Tile := { posn := bootPosn b x y z t }
  let port (p : Fin 8) : Port :=
    if p = 0 then {} else { lmap := lmapOf (bootModule (portModules d p) ((b.lmap[7 * d.val + p.val - 1]?).getD 0)) }
  { id := BitVec.ofNat 12 (x * 2 ^ 8 + y * 2 ^ 4 + z), tiles := Vector.ofFn tile, ports := Vector.ofFn port
    dits := Vector.replicate 4 (Vector.ofFn fun (j : Fin 4096) => bootDit b j.val) }

/-- The links whose training at boot found another die than the expected neighbour are held down and reported (R21). -/
def State.checkCables (s : State) (ports : List (DieIx × Fin 8)) : State :=
  ports.foldl (fun s e =>
    if e.2.val = 0 ∨ e.2.val = 7 then s
    else (s.modLink e.1 e.2 fun x => { x with down := true }).report (.linkDown e.1 e.2)) s

/-- The compute dies are powered and train their links (R415, R439). -/
def State.powerDies (s : State) (i : FirmwareImage) : State :=
  ({ s with
    dies := Vector.ofFn (Die.booted i.boot)
    io := { s.io with
      boot := if 2 ^ 20 ≤ s.io.leaf then .keyExhausted else .running, image := i.bytes, version := i.version
      dstate := Vector.replicate 8 1
      filter := Vector.ofFn fun (k : Fin 16) => (i.boot.filter[k.val]?).getD 0 } } : State).checkCables i.boot.miscabled

/-- The package as boot firmware leaves it: every die live, in ATMODE 1. -/
def State.booted (s : State) (i : FirmwareImage) : State :=
  let s1 := s.powerDies i
  { s1 with io := { s1.io with dstate := Vector.replicate 8 2 } }

/-- What the ROM's checks of an image say. -/
def imageCheck (i : FirmwareImage) : BootStatus :=
  if 0x2000000 < i.bytes.length then .tooLarge
  else if Config.shake256 i.publicKey Config.keyDigest.length ≠ Config.keyDigest then .badKey
  else if !Config.xmssVerify i.publicKey i.bytes i.signature then .badSignature
  else if i.version < Config.minVersion then .oldVersion
  else .running

/-- Whether the ROM waits for an image. -/
def BootStatus.waits : BootStatus → Bool
  | .waiting | .tooLarge | .badKey | .badSignature | .oldVersion => true
  | _ => false

/-- POWER_GOOD: the ROM runs and waits for an image. -/
def execPowerGood (s : State) : Out :=
  if s.io.boot = .off then .next { s with io := { s.io with boot := .waiting } } else .fault .notEnabled

/-- FIRMWARE_IMAGE_LOAD: verified and booted, or the reason reported and awaited anew. -/
def execFirmwareImageLoad (i : FirmwareImage) (s : State) : Out :=
  if !s.io.boot.waits then .fault .notEnabled
  else if imageCheck i = .running then .next (s.booted i)
  else .next { s with io := { s.io with boot := imageCheck i } }

/-! ### Attestation (R440) -/

/-- Bytes 0 to 127 of an attestation report. -/
def IoDie.statement (io : IoDie) (nonce : BitVec 256) : List Byte :=
  let ds := ((List.finRange 8).map fun d => (nth io.dstate d).toNat * 4 ^ d.val).sum
  bytesOf 32 nonce.toNat ++ Config.shake256 io.image 64 ++ Config.serial.toList ++ bytesOf 4 io.version.toNat ++ bytesOf 2 ds
    ++ List.replicate 10 0

/-- The signature of a statement with the leaf of an index: the index, as RFC 8391 has it in four bytes with the highest
first, PRESUMED (log 100), then the rest of 2,816 bytes. -/
def signature (leaf : Nat) (m : List Byte) : List Byte := (bytesOf 4 leaf).reverse ++ (Config.xmssSign leaf m).toList

/-- ATTESTATION_REQUEST: the leaf is committed before the report leaves; after 2^20 signatures every request is refused. -/
def execAttestationRequest (nonce : BitVec 256) (s : State) : Out :=
  if s.io.boot = .off then .fault .notEnabled
  else if s.io.boot.waits then .next (s.report .attestationRefused)
  else if 2 ^ 20 ≤ s.io.leaf then .next (s.report .attestationRefused)
  else
    let m := s.io.statement nonce
    let leaf := s.io.leaf + 1
    .next ({ s with io := { s.io with leaf, boot := if leaf = 2 ^ 20 then .keyExhausted else s.io.boot } }.report
      (.attestation (m ++ signature s.io.leaf m)))

/-! ### Reset and power (R441) -/

/-- The package at its Reset values; the nonvolatile store stays, and so does what is outside: host memory, what has been
sent, and what is still to come. -/
def State.restart (s : State) : State :=
  { State.reset with
    io := { leaf := s.io.leaf, reports := s.io.reports }, host := s.host, agenda := s.agenda, nextReq := s.nextReq }

/-- PACKAGE_COLD_RESET. -/
def execPackageColdReset (s : State) : Out := .next s.restart

/-- MODULE_POWER_OFF: what the package holds at its next power-on. -/
def execModulePowerOff (s : State) : Out := .next s.restart

end Sys2Proof.Machine
end

