-- ==== Sys2Proof/Machine/Tags.lean ====
section
/-!
DEFINITION. The tag table's operations (R276 to R279).
-/
namespace Sys2Proof.Machine

/-- The range check of a tag entry (R278). -/
def entryCheck (e : Word) : Option (BitVec 16 × Word) := if 1023 < e.toNat then some (0x0005, e) else none

/-- The check of a slot operand (R278). -/
def slotOperandCheck (v : Word) : Option (BitVec 16 × Word) :=
  if v.getLsbD 15 ∨ v.extractLsb' 32 32 ≠ 0 ∨ 32768 < (v.extractLsb' 16 16).toNat then some (0x0005, v) else none

/-- tlk: samples the table in e + 1, written at the end of e + 2 (R277). -/
def execTlk (o : Op) (s : State) : Out :=
  let tag := s.here.intOperand o .a o.a
  .next (s.ccIssue o fun s => s.modHere fun t => t.ccResult o 3 [] (some (1, .tlk o.d.xIx tag)))

/-- tins, at the end of e + 1 (R278). -/
def execTins (o : Op) (s : State) : Out :=
  let e := s.here.intOperand o .a o.a
  let tag := s.here.cc.readX o.b.xIx
  let v := s.here.cc.readX o.c.xIx
  .next (s.ccTry o (entryCheck e <|> slotOperandCheck v) fun s =>
    s.modHere fun t => t.ccResult o 2 [.tagIns e.toNat tag (v.extractLsb' 0 15) (v.extractLsb' 16 16)])

/-- tinv one, at the end of e + 1 (R278). -/
def execTinvOne (o : Op) (s : State) : Out :=
  let e := s.here.intOperand o .a o.a
  .next (s.ccTry o (entryCheck e) fun s => s.modHere fun t => t.ccResult o 2 [.tagInv e.toNat])

/-- tinv all (R278). -/
def execTinvAll (o : Op) (s : State) : Out := .next (s.ccWrite o 2 [.tagInvAll])

/-- tinv tag (R278). -/
def execTinvTag (o : Op) (s : State) : Out := .next (s.ccWrite o 2 [.tagInvTag (s.here.intOperand o .a o.a)])

end Sys2Proof.Machine
end

