-- ==== Sys2Proof/Machine/VeLanes.lean ====
section
/-!
DEFINITION. The vector engine's shifts, rotations and permutations of lanes (R161 to R165).
-/
namespace Sys2Proof.Machine

/-- vshl (R162). -/
def execVshl (o : Op) (tl : Tail) (s : State) : Out :=
  .next (s.veLane (.vshl o tl) o tl 2 fun _ a b _ =>
    if o.et.width ≤ b then 0 else lowBits o.et.width ((a * 2 ^ b : Nat) : Int))
/-- vshr (R162). -/
def execVshr (o : Op) (tl : Tail) (s : State) : Out :=
  .next (s.veLane (.vshr o tl) o tl 2 fun _ a b _ => if o.et.width ≤ b then 0 else a / 2 ^ b)
/-- vsra: a is read as signed for every type (R162). -/
def execVsra (o : Op) (tl : Tail) (s : State) : Out :=
  .next (s.veLane (.vsra o tl) o tl 2 fun _ a b _ =>
    let w := o.et.width
    let v := readInt true w a
    if w ≤ b then (if v < 0 then 2 ^ w - 1 else 0) else lowBits w (v / 2 ^ b))
/-- vfsl: the high half of the joined element shifted left (R163). -/
def execVfsl (o : Op) (tl : Tail) (s : State) : Out :=
  .next (s.veLane (.vfsl o tl) o tl 2 fun _ a b c =>
    let w := o.et.width
    (a * 2 ^ w + b) * 2 ^ (c % w) / 2 ^ w % 2 ^ w)
/-- vfsr: the low half of the joined element shifted right (R163). -/
def execVfsr (o : Op) (tl : Tail) (s : State) : Out :=
  .next (s.veLane (.vfsr o tl) o tl 2 fun _ a b c =>
    let w := o.et.width
    (a * 2 ^ w + b) / 2 ^ (c % w) % 2 ^ w)

/-- An operation whose lane i takes lane `from_ lanesOfB i` of A, or zero when that is no lane of A. -/
def State.veGather (s : State) (i : Instr) (o : Op) (tl : Tail) (lat : Nat) (from_ : List Nat → Nat → Nat) : State :=
  s.veOp i o tl lat o.et.width fun t x =>
    let (a, b, _) := t.sources x o
    vecOfLanes o.et.width ((List.range o.et.lanes).map fun k => a.getD (from_ b k) 0)

/-- vrot: within groups of 2^g lanes, lane p takes lane (p - k) mod 2^g (R164). -/
def execVrot (o : Op) (tl : Tail) (s : State) : Out :=
  .next (s.veGather (.vrot o tl) o tl 3 fun b i =>
    let g := 2 ^ (o.sub.toNat % 16)
    i / g * g + (i % g + g - b.headD 0 % g) % g)
/-- vperm: an index that is no lane number gives zero (R165). -/
def execVperm (o : Op) (tl : Tail) (s : State) : Out :=
  .next (s.veGather (.vperm o tl) o tl 3 fun b i => b.getD i 0)
/-- vsplat (R165). -/
def execVsplat (o : Op) (tl : Tail) (s : State) : Out :=
  .next (s.veGather (.vsplat o tl) o tl 2 fun _ _ => o.lit.toNat % 1024 % o.et.lanes)
/-- vbcast (R165). -/
def execVbcast (o : Op) (tl : Tail) (s : State) : Out :=
  .next (s.veGather (.vbcast o tl) o tl 3 fun _ i => i % 2 ^ (o.sub.toNat % 16))

end Sys2Proof.Machine
end

