-- ==== Sys2Proof/Machine/VeMem.lean ====
section
/-!
DEFINITION. The vector engine's moves, loads, stores and tag checks (R176 to R179).
-/
namespace Sys2Proof.Machine

/-- vmov (R176). -/
def execVmov (o : Op) (tl : Tail) (s : State) : Out :=
  .next (s.veOp (.vmov o tl) o tl 2 o.et.width fun t x => t.vecOperand x.q x.r o .a o.a o.et.width)

/-- The checks of an access to 512 bytes: address generation (R76), range, alignment and, when asked, tags (R177,
R179). -/
def Tile.blockCheck (t : Tile) (at_ : Nat × Word) (tags : Bool) : Option (BitVec 16 × Word) :=
  let a := at_.2
  if at_.1 ≠ 0 then some (0x0004, a)
  else if 0x200000 < a.toNat + 512 then some (0x0005, a)
  else if a.toNat % 64 ≠ 0 then some (0x0004, a)
  else if tags then
    ((List.range 8).find? fun k => !t.active.covers (a.toNat / 64 + k)).map fun k =>
      (0x0010, BitVec.ofNat 64 (a.toNat + 64 * k))
  else none

/-- The plan of a load or store of 512 bytes; an idle iteration makes no address (R58, R76). -/
def Tile.blockPlan (t : Tile) (o : Op) (tl : Tail) (r : Running) (idle tags : Bool) (lat : Nat) : Plan :=
  { trap := if idle then none else t.blockCheck (t.agAddr r tl o.et o.a) tags
    pops := streamsOf [o.b], push := o.d.stream, lat }

/-- vld: sampled in e + 2, written at the end of e + 5 (R178). -/
def execVld (o : Op) (tl : Tail) (s : State) : Out :=
  .next (s.iterate (.vld o tl) o tl id (fun _ r idle => s.here.blockPlan o tl r idle tl.ctl.tchk 6) fun s x =>
    let t := s.here
    let mask := laneMask o.et.width (t.governing o) 0 1
    s.addResults x [vecResult 6 [] (some (2, .vld o.d x.slot (t.agAddr x.r tl o.et o.a).2.toNat allBits mask))
      o.et.width])

/-- vst: the bits of the masked elements are written at the end of e + 2 (R178). -/
def execVst (o : Op) (tl : Tail) (s : State) : Out :=
  .next (s.iterate (.vst o tl) o tl id (fun _ r idle => s.here.blockPlan o tl r idle tl.ctl.tchk 3) fun s x =>
    let t := s.here
    let mask := laneMask o.et.width (t.governing o) 0 1
    s.addResults x [vecResult 3 [.spBits (t.agAddr x.r tl o.et o.a).2.toNat
      (t.vecOperand x.q x.r o .b o.b o.et.width) mask] none o.et.width])

/-- Bit k tells whether bank word k of the 512 bytes at a is covered (R179). -/
def Tile.coverWords (t : Tile) (a : Nat) : List Bool := (List.range 8).map fun k => t.active.covers (a / 64 + k)

/-- vldt: elements of covered bank words, and the hit mask (R179). -/
def execVldt (o : Op) (tl : Tail) (s : State) : Out :=
  .next (s.iterate (.vldt o tl) o tl id (fun _ r idle => s.here.blockPlan o tl r idle false 6) fun s x =>
    let t := s.here
    let a := (t.agAddr x.r tl o.et o.a).2.toNat
    let w := o.et.width
    let hits := t.coverWords a
    let keep := vecOfLanes 512 (hits.map fun h => if h then 2 ^ 512 - 1 else 0)
    let q := maskOf ((List.range o.et.lanes).map fun i => hits.getD (i * w / 512) false)
    s.addResults x [vecResult 6 [.qreg o.c.qIx q (BitVec.allOnes 1024)]
      (some (2, .vld o.d x.slot a keep (laneMask w (t.governing o) 0 1))) w])

end Sys2Proof.Machine
end

