-- ==== Sys2Proof/Machine/VeSpecial.lean ====
section
/-!
DEFINITION. The vector engine's special functions (R180): the exact value rounded once to nearest even.
-/
namespace Sys2Proof.Machine

/-- A special function on each element. -/
def State.veSpecial (s : State) (i : Instr) (o : Op) (tl : Tail) (f : Num → Exact) : State :=
  s.veLane i o tl 8 fun c a _ _ =>
    let c : RoundCtx := { fpctl := c.fpctl }
    o.et.fmt.round c (f (c.read o.et.fmt a))

/-- vexp2 (R180). -/
def execVexp2 (o : Op) (tl : Tail) (s : State) : Out := .next (s.veSpecial (.vexp2 o tl) o tl fnExp2)
/-- vlog2 (R180). -/
def execVlog2 (o : Op) (tl : Tail) (s : State) : Out := .next (s.veSpecial (.vlog2 o tl) o tl fnLog2)
/-- vrcp (R180). -/
def execVrcp (o : Op) (tl : Tail) (s : State) : Out := .next (s.veSpecial (.vrcp o tl) o tl fnRcp)
/-- vrsqrt (R180). -/
def execVrsqrt (o : Op) (tl : Tail) (s : State) : Out := .next (s.veSpecial (.vrsqrt o tl) o tl fnRsqrt)
/-- vsin (R180). -/
def execVsin (o : Op) (tl : Tail) (s : State) : Out := .next (s.veSpecial (.vsin o tl) o tl (fnTrig false))
/-- vcos (R180). -/
def execVcos (o : Op) (tl : Tail) (s : State) : Out := .next (s.veSpecial (.vcos o tl) o tl (fnTrig true))
/-- vtanh (R180). -/
def execVtanh (o : Op) (tl : Tail) (s : State) : Out := .next (s.veSpecial (.vtanh o tl) o tl fnTanh)
/-- vsigm (R180). -/
def execVsigm (o : Op) (tl : Tail) (s : State) : Out := .next (s.veSpecial (.vsigm o tl) o tl fnSigm)

end Sys2Proof.Machine
end

