-- ==== Sys2Proof/Machine/VeWide.lean ====
section
/-!
DEFINITION. The vector engine's widening operations, dot product, conversion and block-scaled packing (R145, R166 to
R170, R100).
-/
namespace Sys2Proof.Machine

/-- The writes of a destination group of n registers: element m of the list is element m of the group (R145). The
mask's bit m governs element m (R146). -/
def groupEffects (d : Operand) (slot : Fin 4) (w n : Nat) (q : Mask) (es : List Nat) : List Effect :=
  (List.range n).map fun k =>
    let data := vecOfLanes w ((List.range (4096 / w)).map fun i => es.getD (n * i + k) 0)
    let mask := laneMask w q k n
    match d with
    | .s i => .stream i slot (data &&& mask)
    | _ => .vreg (xAfter d.vIx k) data mask

/-- The destination type of a widening operation (R167). -/
def ElemType.wide : ElemType → ElemType
  | .i4 => .i8 | .n4 => .n8 | .i8 => .i16 | .n8 => .n16 | .i16 => .i32 | .n16 => .n32
  | .e4m3 | .e5m2 => .bf16
  | _ => .f32

/-- A widening operation on the elements of A and B. -/
def State.veWiden (s : State) (i : Instr) (o : Op) (tl : Tail) (lat : Nat) (f : RoundCtx → Nat → Nat → Nat) : State :=
  s.veRun i o tl lat fun t x =>
    let (a, b, _) := t.sources x o
    let es := map3 (fun k p q _ => f (t.laneRound x.q x.r o k) p q) 0 a b a
    [vecResult lat (groupEffects o.d x.slot (ElemType.wide o.et).width 2 (t.governing o) es)
      none (ElemType.wide o.et).width]

/-- vwmul (R167). -/
def execVwmul (o : Op) (tl : Tail) (s : State) : Out :=
  .next (s.veWiden (.vwmul o tl) o tl (latOf o.et 3 4) fun c a b =>
    if o.et.isFloat then (ElemType.wide o.et).fmt.round c ((c.read o.et.fmt a).mul (c.read o.et.fmt b)).exact
    else lowBits (2 * o.et.width) (elemInt o.et a * elemInt o.et b))
/-- vwadd (R167). -/
def execVwadd (o : Op) (tl : Tail) (s : State) : Out :=
  .next (s.veWiden (.vwadd o tl) o tl (latOf o.et 2 4) fun c a b =>
    if o.et.isFloat then (ElemType.wide o.et).fmt.round c ((c.read o.et.fmt a).add (c.read o.et.fmt b))
    else lowBits (2 * o.et.width) (elemInt o.et a + elemInt o.et b))

/-- vdot4: four products of 8-bit elements and the accumulator, narrowed once (R114, R168). -/
def execVdot4 (o : Op) (tl : Tail) (s : State) : Out :=
  .next (s.veOp (.vdot4 o tl) o tl 4 32 fun t x =>
    let a := lanes 8 512 (t.vecOperand x.q x.r o .a o.a 8).toNat
    let b := lanes 8 512 (t.vecOperand x.q x.r o .b o.b 8).toNat
    let c := lanes 32 128 (t.vecOperand x.q x.r o .c o.c 32).toNat
    let prods := (a.zip b).map fun p => elemInt o.et p.1 * elemInt o.et p.2
    let sum (i : Nat) : Int := ((prods.drop (4 * i)).take 4).foldl (· + ·) (readInt true 32 (c.getD i 0))
    vecOfLanes 32 ((List.range 128).map fun i => narrow (o.mod = 8) true 32 (sum i)))

/-- The elements of a source group of n registers, or of a single register, stream or literal. -/
def Tile.wideSource (t : Tile) (x : Issue) (o : Op) (n w : Nat) : List Nat :=
  if n = 1 then lanes w (4096 / w) (t.vecOperand x.q x.r o .a o.a w).toNat else t.groupLanes o.a n w

/-- vcvt (R169, R104). -/
def execVcvt (o : Op) (tl : Tail) (s : State) : Out :=
  let st := ElemType.ofCode (o.sub.setWidth 4)
  let dw := o.et.width
  let sw := st.width
  .next (s.veRun (.vcvt o tl) o tl 4 fun t x =>
    let es := t.wideSource x o (max 1 (sw / dw)) sw
    let rs := map3 (fun k a _ _ => convert o.et.valueType st.valueType (t.laneRound x.q x.r o k) a) 0 es es es
    [vecResult 4 (groupEffects o.d x.slot dw (max 1 (dw / sw)) (t.governing o) rs) none dw])

/-- The greatest exponent of the leading bit among nonzero finite values (R100). -/
def topExponent (xs : List Num) : Option Int :=
  xs.foldl (fun m x =>
    match x with
    | .fin _ (k + 1) e =>
      let top : Int := (Nat.log2 (k + 1) : Int) + e
      some (match m with
        | some y => max y top
        | none => top)
    | _ => m) none

/-- Whether a value is neither NaN nor an infinity. -/
def isFiniteNum : Num → Bool
  | .fin .. => true
  | _ => false

/-- The scale of one block (R100). -/
def blockScale (f : Fmt) (xs : List Num) : Nat :=
  if xs.any (fun x => !(isFiniteNum x)) then 255
  else
    match topExponent xs with
    | none => 127
    | some top => (min (max (top - (if f.isE4m3 then 8 else 2) + 127) 0) 254).toNat

/-- An element of a block with this scale, saturating whatever MOD says (R100). -/
def blockElem (f src : Fmt) (scale : Nat) (c : RoundCtx) (x : Num) : Nat :=
  match x with
  | .fin neg m e =>
    if scale = 255 then 0
    else
      let e' := e - ((scale : Int) - 127)
      f.round { c with sat := true } (Num.fin neg m e').exact (some (e', src.m + 1))
  | _ => 0

/-- vpack: every scale is computed and written; the mask governs elements (R170, R100). -/
def execVpack (o : Op) (tl : Tail) (s : State) : Out :=
  let st := ElemType.ofCode (o.sub.setWidth 4)
  let dw := o.et.width
  .next (s.veRun (.vpack o tl) o tl 4 fun t x =>
    let c0 : RoundCtx := { fpctl := t.cc.fpctl }
    let es := (t.groupLanes o.a (st.width / dw) st.width).map (c0.read st.fmt)
    let scales := (List.range (o.et.lanes / 32)).map fun j => blockScale o.et.fmt ((es.drop (32 * j)).take 32)
    let out := es.zipIdx.map fun p =>
      blockElem o.et.fmt st.fmt (scales.getD (p.2 / 32) 0) (t.laneRound x.q x.r o p.2) p.1
    [vecResult 4 [vecEffect o.d x.slot (vecOfLanes dw out) (laneMask dw (t.governing o) 0 1),
      .vreg o.c.vIx (vecOfLanes 8 scales) allBits] none dw])

end Sys2Proof.Machine
end

