-- ==== Sys2Proof/Machine/Dispatch.lean ====
section
/-!
DEFINITION. What each operation and each event does to the state: one call of its meaning.
-/
namespace Sys2Proof.Machine

/-- The meaning of an instruction in a state. -/
def exec (i : Instr) (s : State) : Host.Outcome State Fault Refusal :=
  match i with
  | .add o => Sys2Proof.Machine.execAdd o s
  | .sub o => Sys2Proof.Machine.execSub o s
  | .and o => Sys2Proof.Machine.execAnd o s
  | .or o => Sys2Proof.Machine.execOr o s
  | .xor o => Sys2Proof.Machine.execXor o s
  | .andn o => Sys2Proof.Machine.execAndn o s
  | .sll o => Sys2Proof.Machine.execSll o s
  | .srl o => Sys2Proof.Machine.execSrl o s
  | .sra o => Sys2Proof.Machine.execSra o s
  | .rotl o => Sys2Proof.Machine.execRotl o s
  | .min o => Sys2Proof.Machine.execMin o s
  | .max o => Sys2Proof.Machine.execMax o s
  | .minn o => Sys2Proof.Machine.execMinn o s
  | .maxn o => Sys2Proof.Machine.execMaxn o s
  | .mul o => Sys2Proof.Machine.execMul o s
  | .mulh o => Sys2Proof.Machine.execMulh o s
  | .mulhn o => Sys2Proof.Machine.execMulhn o s
  | .div o => Sys2Proof.Machine.execDiv o s
  | .divn o => Sys2Proof.Machine.execDivn o s
  | .rem o => Sys2Proof.Machine.execRem o s
  | .remn o => Sys2Proof.Machine.execRemn o s
  | .clz o => Sys2Proof.Machine.execClz o s
  | .ctz o => Sys2Proof.Machine.execCtz o s
  | .popc o => Sys2Proof.Machine.execPopc o s
  | .sel o => Sys2Proof.Machine.execSel o s
  | .cmp o => Sys2Proof.Machine.execCmp o s
  | .li o => Sys2Proof.Machine.execLi o s
  | .lih o => Sys2Proof.Machine.execLih o s
  | .lea o => Sys2Proof.Machine.execLea o s
  | .fadd o => Sys2Proof.Machine.execFadd o s
  | .fsub o => Sys2Proof.Machine.execFsub o s
  | .fmul o => Sys2Proof.Machine.execFmul o s
  | .fdiv o => Sys2Proof.Machine.execFdiv o s
  | .fsqrt o => Sys2Proof.Machine.execFsqrt o s
  | .ffma o => Sys2Proof.Machine.execFfma o s
  | .fmin o => Sys2Proof.Machine.execFmin o s
  | .fmax o => Sys2Proof.Machine.execFmax o s
  | .fcmp o => Sys2Proof.Machine.execFcmp o s
  | .fcvt o => Sys2Proof.Machine.execFcvt o s
  | .pbr o => Sys2Proof.Machine.execPbr o s
  | .pbrReg o => Sys2Proof.Machine.execPbrReg o s
  | .bcc o => Sys2Proof.Machine.execBcc o s
  | .jal o => Sys2Proof.Machine.execJal o s
  | .jalr o => Sys2Proof.Machine.execJalr o s
  | .ld o => Sys2Proof.Machine.execLd o s
  | .st o => Sys2Proof.Machine.execSt o s
  | .ldl o => Sys2Proof.Machine.execLdl o s
  | .enq o => Sys2Proof.Machine.execEnq o s
  | .wrg o => Sys2Proof.Machine.execWrg o s
  | .wrn o => Sys2Proof.Machine.execWrn o s
  | .nst o => Sys2Proof.Machine.execNst o s
  | .mgo o => Sys2Proof.Machine.execMgo o s
  | .rdsr o => Sys2Proof.Machine.execRdsr o s
  | .wrsr o => Sys2Proof.Machine.execWrsr o s
  | .trapEnd o => Sys2Proof.Machine.execTrapEnd o s
  | .trapSys o => Sys2Proof.Machine.execTrapSys o s
  | .trapBrk o => Sys2Proof.Machine.execTrapBrk o s
  | .eret o => Sys2Proof.Machine.execEret o s
  | .wfe o => Sys2Proof.Machine.execWfe o s
  | .vadd o t => Sys2Proof.Machine.execVadd o t s
  | .vsub o t => Sys2Proof.Machine.execVsub o t s
  | .vmul o t => Sys2Proof.Machine.execVmul o t s
  | .vmulh o t => Sys2Proof.Machine.execVmulh o t s
  | .vmin o t => Sys2Proof.Machine.execVmin o t s
  | .vmax o t => Sys2Proof.Machine.execVmax o t s
  | .vfma o t => Sys2Proof.Machine.execVfma o t s
  | .vfms o t => Sys2Proof.Machine.execVfms o t s
  | .vfnma o t => Sys2Proof.Machine.execVfnma o t s
  | .vabs o t => Sys2Proof.Machine.execVabs o t s
  | .vneg o t => Sys2Proof.Machine.execVneg o t s
  | .vround o t => Sys2Proof.Machine.execVround o t s
  | .vclamp o t => Sys2Proof.Machine.execVclamp o t s
  | .vcmp o t => Sys2Proof.Machine.execVcmp o t s
  | .vsel o t => Sys2Proof.Machine.execVsel o t s
  | .vand o t => Sys2Proof.Machine.execVand o t s
  | .vor o t => Sys2Proof.Machine.execVor o t s
  | .vxor o t => Sys2Proof.Machine.execVxor o t s
  | .vandn o t => Sys2Proof.Machine.execVandn o t s
  | .vlop3 o t => Sys2Proof.Machine.execVlop3 o t s
  | .vshl o t => Sys2Proof.Machine.execVshl o t s
  | .vshr o t => Sys2Proof.Machine.execVshr o t s
  | .vsra o t => Sys2Proof.Machine.execVsra o t s
  | .vfsl o t => Sys2Proof.Machine.execVfsl o t s
  | .vfsr o t => Sys2Proof.Machine.execVfsr o t s
  | .vrot o t => Sys2Proof.Machine.execVrot o t s
  | .vperm o t => Sys2Proof.Machine.execVperm o t s
  | .vsplat o t => Sys2Proof.Machine.execVsplat o t s
  | .vbcast o t => Sys2Proof.Machine.execVbcast o t s
  | .vwmul o t => Sys2Proof.Machine.execVwmul o t s
  | .vwadd o t => Sys2Proof.Machine.execVwadd o t s
  | .vdot4 o t => Sys2Proof.Machine.execVdot4 o t s
  | .vcvt o t => Sys2Proof.Machine.execVcvt o t s
  | .vpack o t => Sys2Proof.Machine.execVpack o t s
  | .vred o t => Sys2Proof.Machine.execVred o t s
  | .vscan o t => Sys2Proof.Machine.execVscan o t s
  | .vtopk o t => Sys2Proof.Machine.execVtopk o t s
  | .qand o t => Sys2Proof.Machine.execQand o t s
  | .qor o t => Sys2Proof.Machine.execQor o t s
  | .qnot o t => Sys2Proof.Machine.execQnot o t s
  | .qpop o t => Sys2Proof.Machine.execQpop o t s
  | .qfirst o t => Sys2Proof.Machine.execQfirst o t s
  | .vmov o t => Sys2Proof.Machine.execVmov o t s
  | .vld o t => Sys2Proof.Machine.execVld o t s
  | .vst o t => Sys2Proof.Machine.execVst o t s
  | .vldt o t => Sys2Proof.Machine.execVldt o t s
  | .vexp2 o t => Sys2Proof.Machine.execVexp2 o t s
  | .vlog2 o t => Sys2Proof.Machine.execVlog2 o t s
  | .vrcp o t => Sys2Proof.Machine.execVrcp o t s
  | .vrsqrt o t => Sys2Proof.Machine.execVrsqrt o t s
  | .vsin o t => Sys2Proof.Machine.execVsin o t s
  | .vcos o t => Sys2Proof.Machine.execVcos o t s
  | .vtanh o t => Sys2Proof.Machine.execVtanh o t s
  | .vsigm o t => Sys2Proof.Machine.execVsigm o t s
  | .mldw o t => Sys2Proof.Machine.execMldw o t s
  | .mflip o t => Sys2Proof.Machine.execMflip o t s
  | .mstep o t => Sys2Proof.Machine.execMstep o t s
  | .mstepz o t => Sys2Proof.Machine.execMstepz o t s
  | .mrd o t => Sys2Proof.Machine.execMrd o t s
  | .mclr o t => Sys2Proof.Machine.execMclr o t s
  | .mscMul o t => Sys2Proof.Machine.execMscMul o t s
  | .mscLd o t => Sys2Proof.Machine.execMscLd o t s
  | .mstat o t => Sys2Proof.Machine.execMstat o t s
  | .cpy o t => Sys2Proof.Machine.execCpy o t s
  | .cpyt o t => Sys2Proof.Machine.execCpyt o t s
  | .cpyg o t => Sys2Proof.Machine.execCpyg o t s
  | .cpys o t => Sys2Proof.Machine.execCpys o t s
  | .cpyx o t => Sys2Proof.Machine.execCpyx o t s
  | .cpyw o t => Sys2Proof.Machine.execCpyw o t s
  | .putsig o t => Sys2Proof.Machine.execPutsig o t s
  | .cred o t => Sys2Proof.Machine.execCred o t s
  | .csched o => Sys2Proof.Machine.execCsched o s
  | .cstep o t => Sys2Proof.Machine.execCstep o t s
  | .strm o t => Sys2Proof.Machine.execStrm o t s
  | .strmq o t => Sys2Proof.Machine.execStrmq o t s
  | .halo o t => Sys2Proof.Machine.execHalo o t s
  | .kgath o t => Sys2Proof.Machine.execKgath o t s
  | .fcolLoad o => Sys2Proof.Machine.execFcolLoad o s
  | .fcolRun o => Sys2Proof.Machine.execFcolRun o s
  | .ftrigArm o => Sys2Proof.Machine.execFtrigArm o s
  | .ftrigDisarm o => Sys2Proof.Machine.execFtrigDisarm o s
  | .ftrigQuery o => Sys2Proof.Machine.execFtrigQuery o s
  | .rshd o => Sys2Proof.Machine.execRshd o s
  | .rshqTotal o => Sys2Proof.Machine.execRshqTotal o s
  | .rshqPairs o => Sys2Proof.Machine.execRshqPairs o s
  | .kill o => Sys2Proof.Machine.execKill o s
  | .ldg o => Sys2Proof.Machine.execLdg o s
  | .stg o => Sys2Proof.Machine.execStg o s
  | .ldacq o => Sys2Proof.Machine.execLdacq o s
  | .strel o => Sys2Proof.Machine.execStrel o s
  | .atomAdd o => Sys2Proof.Machine.execAtomAdd o s
  | .atomMin o => Sys2Proof.Machine.execAtomMin o s
  | .atomMax o => Sys2Proof.Machine.execAtomMax o s
  | .atomMinn o => Sys2Proof.Machine.execAtomMinn o s
  | .atomMaxn o => Sys2Proof.Machine.execAtomMaxn o s
  | .atomAnd o => Sys2Proof.Machine.execAtomAnd o s
  | .atomOr o => Sys2Proof.Machine.execAtomOr o s
  | .atomXor o => Sys2Proof.Machine.execAtomXor o s
  | .atomSwap o => Sys2Proof.Machine.execAtomSwap o s
  | .cas o => Sys2Proof.Machine.execCas o s
  | .cas2 o => Sys2Proof.Machine.execCas2 o s
  | .cas4 o => Sys2Proof.Machine.execCas4 o s
  | .lenq o => Sys2Proof.Machine.execLenq o s
  | .ldeq o => Sys2Proof.Machine.execLdeq o s
  | .nchase o => Sys2Proof.Machine.execNchase o s
  | .tlk o => Sys2Proof.Machine.execTlk o s
  | .tins o => Sys2Proof.Machine.execTins o s
  | .tinvOne o => Sys2Proof.Machine.execTinvOne o s
  | .tinvAll o => Sys2Proof.Machine.execTinvAll o s
  | .tinvTag o => Sys2Proof.Machine.execTinvTag o s
  | .ksel o => Sys2Proof.Machine.execKsel o s
  | .kcrust o => Sys2Proof.Machine.execKcrust o s
  | .fence o => Sys2Proof.Machine.execFence o s
  | .kset o => Sys2Proof.Machine.execKset o s
  | .ksetReg o => Sys2Proof.Machine.execKsetReg o s
  | .kwait o t => Sys2Proof.Machine.execKwait o t s
  | .kpost o t => Sys2Proof.Machine.execKpost o t s
  | .barinit o => Sys2Proof.Machine.execBarinit o s
  | .barexp o => Sys2Proof.Machine.execBarexp o s
  | .barwait o => Sys2Proof.Machine.execBarwait o s
  | .ssync o => Sys2Proof.Machine.execSsync o s
  | .sstatBar o => Sys2Proof.Machine.execSstatBar o s
  | .sstatStg o => Sys2Proof.Machine.execSstatStg o s
  | .tcaddAdd o => Sys2Proof.Machine.execTcaddAdd o s
  | .tcaddSet o => Sys2Proof.Machine.execTcaddSet o s
  | .tcrd o => Sys2Proof.Machine.execTcrd o s
  | .loop o t => Sys2Proof.Machine.execLoop o t s
  | .endloop o t => Sys2Proof.Machine.execEndloop o t s
  | .lyc o => Sys2Proof.Machine.execLyc o s
  | .lyqBox o => Sys2Proof.Machine.execLyqBox o s
  | .lyqShard o => Sys2Proof.Machine.execLyqShard o s
  | .lyqNup o => Sys2Proof.Machine.execLyqNup o s
  | .lyqNdn o => Sys2Proof.Machine.execLyqNdn o s
  | .tsldSlots o => Sys2Proof.Machine.execTsldSlots o s
  | .tsldRed o => Sys2Proof.Machine.execTsldRed o s
  | .rtld o => Sys2Proof.Machine.execRtld o s
  | .tlbinvPage o => Sys2Proof.Machine.execTlbinvPage o s
  | .tlbinvAsid o => Sys2Proof.Machine.execTlbinvAsid o s
  | .tlbinvAll o => Sys2Proof.Machine.execTlbinvAll o s
  | .atw o => Sys2Proof.Machine.execAtw o s
  | .ditwFill o => Sys2Proof.Machine.execDitwFill o s
  | .ditwLoad o => Sys2Proof.Machine.execDitwLoad o s
  | .ctxswOut o => Sys2Proof.Machine.execCtxswOut o s
  | .ctxswIn o => Sys2Proof.Machine.execCtxswIn o s
  | .ctxswXchg o => Sys2Proof.Machine.execCtxswXchg o s
  | .ctxswSpill o => Sys2Proof.Machine.execCtxswSpill o s
  | .resultWriteback => Sys2Proof.Machine.execResultWriteback s
  | .stallResume ag => Sys2Proof.Machine.execStallResume ag s
  | .responseLand req => Sys2Proof.Machine.execResponseLand req s
  | .dueCycle => Sys2Proof.Machine.execDueCycle s
  | .commPhaseEnd => Sys2Proof.Machine.execCommPhaseEnd s
  | .semaphoreCeilingTrap => Sys2Proof.Machine.execSemaphoreCeilingTrap s
  | .stopCut => Sys2Proof.Machine.execStopCut s
  | .latchReinject => Sys2Proof.Machine.execLatchReinject s
  | .preemptAccept => Sys2Proof.Machine.execPreemptAccept s
  | .interruptAccept => Sys2Proof.Machine.execInterruptAccept s
  | .dieLossDeclare d => Sys2Proof.Machine.execDieLossDeclare d s
  | .budgetOverrun => Sys2Proof.Machine.execBudgetOverrun s
  | .wfeTimeout => Sys2Proof.Machine.execWfeTimeout s
  | .wfeWake => Sys2Proof.Machine.execWfeWake s
  | .icacheFill d t line => Sys2Proof.Machine.execIcacheFill d t line s
  | .pageWalk req => Sys2Proof.Machine.execPageWalk req s
  | .submitGraph d q hi => Sys2Proof.Machine.execSubmitGraph d q hi s
  | .doorbellSubmit d q entry => Sys2Proof.Machine.execDoorbellSubmit d q entry s
  | .graphTake d q => Sys2Proof.Machine.execGraphTake d q s
  | .recordForward d q record => Sys2Proof.Machine.execRecordForward d q record s
  | .gangStart d q => Sys2Proof.Machine.execGangStart d q s
  | .preload d t => Sys2Proof.Machine.execPreload d t s
  | .taskStart d t => Sys2Proof.Machine.execTaskStart d t s
  | .taskComplete d t => Sys2Proof.Machine.execTaskComplete d t s
  | .remoteAccess req => Sys2Proof.Machine.execRemoteAccess req s
  | .remoteAtomic req => Sys2Proof.Machine.execRemoteAtomic req s
  | .ingressRequest req => Sys2Proof.Machine.execIngressRequest req s
  | .homeAccess req evict => Sys2Proof.Machine.execHomeAccess req evict s
  | .nearMemoryOp req => Sys2Proof.Machine.execNearMemoryOp req s
  | .crustWiden index => Sys2Proof.Machine.execCrustWiden index s
  | .barrierAdd req => Sys2Proof.Machine.execBarrierAdd req s
  | .contributionArrival req => Sys2Proof.Machine.execContributionArrival req s
  | .ssyncArrival req => Sys2Proof.Machine.execSsyncArrival req s
  | .startSignal d t => Sys2Proof.Machine.execStartSignal d t s
  | .ssnumUpdate d q => Sys2Proof.Machine.execSsnumUpdate d q s
  | .triggerCounterChange req => Sys2Proof.Machine.execTriggerCounterChange req s
  | .chunkArrival d q slot => Sys2Proof.Machine.execChunkArrival d q slot s
  | .thresherRowSend d => Sys2Proof.Machine.execThresherRowSend d s
  | .thresherRowAck d => Sys2Proof.Machine.execThresherRowAck d s
  | .thresherStop d => Sys2Proof.Machine.execThresherStop d s
  | .segmentSweep d => Sys2Proof.Machine.execSegmentSweep d s
  | .hostPageResolved req resident => Sys2Proof.Machine.execHostPageResolved req resident s
  | .hostAccess access => Sys2Proof.Machine.execHostAccess access s
  | .swapInTile d t => Sys2Proof.Machine.execSwapInTile d t s
  | .swapComplete req => Sys2Proof.Machine.execSwapComplete req s
  | .killComplete req => Sys2Proof.Machine.execKillComplete req s
  | .tlbinvComplete req => Sys2Proof.Machine.execTlbinvComplete req s
  | .routerForward req => Sys2Proof.Machine.execRouterForward req s
  | .linkPacketReceive d p good => Sys2Proof.Machine.execLinkPacketReceive d p good s
  | .linkAck d p upto => Sys2Proof.Machine.execLinkAck d p upto s
  | .linkReplay d p => Sys2Proof.Machine.execLinkReplay d p s
  | .linkTraining d p result => Sys2Proof.Machine.execLinkTraining d p result s
  | .linkNone d p word => Sys2Proof.Machine.execLinkNone d p word s
  | .linkPause d p word => Sys2Proof.Machine.execLinkPause d p word s
  | .linkResume d p word => Sys2Proof.Machine.execLinkResume d p word s
  | .linkRemap d p word => Sys2Proof.Machine.execLinkRemap d p word s
  | .linkRetrain d p word => Sys2Proof.Machine.execLinkRetrain d p word s
  | .linkDegrade d p word => Sys2Proof.Machine.execLinkDegrade d p word s
  | .linkRestore d p word => Sys2Proof.Machine.execLinkRestore d p word s
  | .linkCommandComplete d p result => Sys2Proof.Machine.execLinkCommandComplete d p result s
  | .contextEntryWrite d ix dw word => Sys2Proof.Machine.execContextEntryWrite d ix dw word s
  | .partitionWrite d reg word => Sys2Proof.Machine.execPartitionWrite d reg word s
  | .gqstatWrite d q word => Sys2Proof.Machine.execGqstatWrite d q word s
  | .irqcmd d word => Sys2Proof.Machine.execIrqcmd d word s
  | .precmdStop d word => Sys2Proof.Machine.execPrecmdStop d word s
  | .precmdResume d word => Sys2Proof.Machine.execPrecmdResume d word s
  | .taskResume d word => Sys2Proof.Machine.execTaskResume d word s
  | .taskRerun d word => Sys2Proof.Machine.execTaskRerun d word s
  | .sliceWriteback d word => Sys2Proof.Machine.execSliceWriteback d word s
  | .writebackComplete d => Sys2Proof.Machine.execWritebackComplete d s
  | .atmodeWrite d word => Sys2Proof.Machine.execAtmodeWrite d word s
  | .accessTableWrite d p e upper word => Sys2Proof.Machine.execAccessTableWrite d p e upper word s
  | .routeTableWrite d e word => Sys2Proof.Machine.execRouteTableWrite d e word s
  | .ditWrite d n dw word => Sys2Proof.Machine.execDitWrite d n dw word s
  | .thresholdWrite d p word => Sys2Proof.Machine.execThresholdWrite d p word s
  | .dieRegisterWrite d offset word => Sys2Proof.Machine.execDieRegisterWrite d offset word s
  | .dieReset d => Sys2Proof.Machine.execDieReset d s
  | .powerGood => Sys2Proof.Machine.execPowerGood s
  | .packageColdReset => Sys2Proof.Machine.execPackageColdReset s
  | .firmwareImageLoad image => Sys2Proof.Machine.execFirmwareImageLoad image s
  | .attestationRequest nonce => Sys2Proof.Machine.execAttestationRequest nonce s
  | .powerInterval measure => Sys2Proof.Machine.execPowerInterval measure s
  | .dstateWrite d value => Sys2Proof.Machine.execDstateWrite d value s
  | .modulePowerOff => Sys2Proof.Machine.execModulePowerOff s
  | .lctlUnassignedCommand d p word => Sys2Proof.Machine.execLctlUnassignedCommand d p word s
  | .tccmdOtherOp d word => Sys2Proof.Machine.execTccmdOtherOp d word s

end Sys2Proof.Machine
end

