-- ==== Sys2Proof/Machine/Schedule.lean ====
section
/-!
DEFINITION. What moves next (R5, R29, R30, R52 to R54, R80, R217, R222): one small step of a tile's cycle, the slots of a
scheduled segment (R346, R369, R408), the steps of everything else, and the agenda. Every definition is given the meaning
of the instructions as `ex`.
-/
namespace Sys2Proof.Machine

/-- The meaning of the instructions. -/
abbrev Meaning := Instr → State → Out

/-- An agent has nothing to do in its phase of the cycle. -/
def State.pass (s : State) : State := s.modHere fun t => { t with phase := t.phase.next }

/-- The outcome of an instruction that has had its turn; one that a tile's freeze has held back is none (R312). -/
def State.took (s : State) (o : Out) : Option Out :=
  match o with
  | .next s1 => if s1.here.phase = s.here.phase ∧ s1.here.closing = s.here.closing then none else some o
  | _ => some o

/-! ### The control core (R127) -/

/-- The bytes of the word at PC, when its line is held. -/
def Tile.wordAt (t : Tile) : Option (BitVec 128) :=
  (t.icache.find? fun p => decide (p.1 = lineOf t.cc.pc)).map fun p => p.2.extractLsb' (t.cc.pc.toNat % 64 * 8) 128

/-- The control core issues nothing from the trigger cycle of a stop that its budget ends on (R212, R228). -/
def Tile.overrun (t : Tile) : Bool :=
  match t.stop with
  | some (_, .handler x) => decide (x.kind = .taskEnding)
  | _ => false

/-- The control core's turn; none while its word has not landed. -/
def State.ccTurn (ex : Meaning) (s : State) : Option Out :=
  let t := s.here
  if t.cc.mode ≠ .ready ∨ t.stalled.isSome ∨ t.overrun then some (.next s.pass)
  else
    match t.wordAt with
    | some w =>
      (match decodeWord w with
        | .ok i => s.took (ex i { s with agent := .cc })
        | .bad f => some (.next (s.preciseTrap 0x0001 f.tval)))
    | none =>
      match t.fetchBad.find? fun p => decide (p.1 = lineOf t.cc.pc) with
      | some p => some (.next ((s.modHere fun t => { t with fetchBad := [] }).preciseTrap p.2 t.cc.pc))
      | none => none

/-- Whether the control core takes a precise trap in this cycle. -/
def State.ccTraps (ex : Meaning) (s : State) : Bool :=
  match (s.modHere fun t => { t with phase := .cc }).ccTurn ex with
  | some (.next s1) =>
    (match s1.here.cc.mode with
      | .entering 6 .. => decide (s.here.cc.mode = .ready)
      | _ => false) ||
    (match s1.here.stop with
      | some (_, .ending ..) => decide (s1.here.stop ≠ s.here.stop)
      | _ => false)
  | _ => false

/-! ### Sequencers -/

/-- Whether the transfers that an iteration of stage n in phase cycle u relies on are due by then (R408). -/
def State.stagesMet (s : State) (ag : Agent) (n u : Nat) : Bool :=
  let late := s.reqs.any fun r => r.of s.die s.tile && r.captured.isNone && decide (u < r.due) &&
    (match r.kind with
      | .copy i => decide (i.stg < n)
      | _ => false)
  !late && (decide (ag ≠ .se) || decide (n ≤ (nth s.here.seqs 2).stg.toNat))


/-- The arrival offset that an iteration of a copy-family record counts with. -/
def slotArrival (i : Instr) : Nat :=
  match i.coded with
  | some c => if c.maj = 0xAA ∧ c.fn = 1 then 0 else c.op.arrival
  | none => 0

/-- The loop nesting of record k of a segment of n records is broken (R79). -/
def loopsBroken (q : Seq) (i : Instr) (k n : Nat) : Bool :=
  let after := match i with
    | .loop .. => q.loops.length + 1
    | .endloop .. => q.loops.length - 1
    | _ => q.loops.length
  (match i with
    | .loop .. => decide (2 ≤ q.loops.length)
    | .endloop .. => q.loops.isEmpty
    | _ => false) || (decide (n ≤ k + 1) && decide (after ≠ 0))

/-- Whether a sequencer may try to issue in this cycle: one that stalls does so only for a record's first iteration, which
it reads anew in every cycle (R80). -/
def Tile.seqReady (t : Tile) (q : Seq) : Bool :=
  (q.stalled.isNone || q.cur.all fun r => !r.began) && !q.held && decide (q.gap = 0) && !t.cc.trap.halt && (match t.cc.mode with
    | .resume _ => false
    | _ => true)

/-- The record in issue, or the next one as it stood at the end of the cycle before the previous one (R80). -/
def Tile.recordAt (t : Tile) (q : Seq) : Option (Nat × Nat × Nat × BitVec 512) :=
  match q.queue with
  | [] => none
  | e :: _ =>
    if e.delay ≠ 0 then none
    else
      let off := e.off + 64 * q.idx
      match q.cur.filter fun r => r.began with
      | some r => some (r.off, q.idx, e.count, r.word)
      | none => some (off, q.idx, e.count, BitVec.ofNat 512 (valueOf (t.snapshot off 64)))

/-- The record in issue as the sequencer holds it. -/
def Seq.holding (q : Seq) (off : Nat) (w : BitVec 512) (i : Instr) : Seq :=
  match q.cur with
  | some r => if r.began then q else { q with cur := some { r with off, word := w, instr := i } }
  | none => { q with cur := some { off, word := w, instr := i } }

/-- A record whose first iteration has not issued is read again; a wait that the record read before had been granted is
given back (R80). -/
def Tile.reread (t : Tile) (ag : Agent) (off : Nat) (w : BitVec 512) : Tile :=
  let q := nth t.seqs ag.seqIx
  match q.cur.filter fun r => !r.began && (decide (r.word ≠ w) || decide (r.off ≠ off)) with
  | some r =>
    let t := t.setSeq ag { q with cur := none, stalled := none }
    (match if r.waited then r.instr.coded.bind (fun c => c.op.sw) else none with
      | some k => { t with sems := upd t.sems k { nth t.sems k with count := (nth t.sems k).count + 1 } }
      | none => t)
  | none => t

/-! ### Scheduled segments (R346, R369, R408) -/

/-- What the iteration of a scheduled segment finds that is due in or before this cycle. -/
inductive SlotTurn where
  /-- Its slot has not come. -/
  | early
  | go
  /-- It is not issued, and the tile takes a due-cycle trap with this TVAL. -/
  | trap (tval : Word)
  deriving DecidableEq, Repr

/-- The slot of the next iteration of the engine's scheduled segment, with arrival offset `arrival`. -/
def State.slotTurn (s : State) (ag : Agent) (arrival : Nat) : SlotTurn :=
  let t := s.here
  match (nth t.seqs ag.seqIx).phase, t.super with
  | some (_, n), some p =>
    (match (s.engineSlots ag)[n]? with
      | none => .early
      | some (u, e) =>
        if t.now < p.s + u then .early
        else if p.clen ≤ u + arrival then .trap (BitVec.ofNat 64 e)
        else .go)
  | _, _ => .go

/-- An iteration of what is left of a segment: record offset, arrival offset, l0 to l3 (R231). -/
structure Ahead where
  off     : Nat
  arrival : Nat
  fidx    : Word

/-- Iteration `m` of record k on, `done` iterations of the first of these records having issued; n records are left. -/
def Tile.aheadFrom (t : Tile) (ag : Agent) (e : Seg) (first : Option Running) (k done m : Nat) : Nat → Option Ahead
  | 0 => none
  | n + 1 =>
    let off := e.off + 64 * k
    let w := match first with
      | some r => r.word
      | none => BitVec.ofNat 512 (valueOf (t.snapshot off 64))
    match decodeRecord ag w with
    | .bad _ => none
    | .ok i =>
      match i.coded.bind fun c => c.tail with
      | none => none
      | some tl =>
        let l := done + m
        let total := tl.trip 0 * tl.trip 1 * tl.trip 2 * tl.trip 3
        if l < total then
          some { off, arrival := slotArrival i
                 fidx := BitVec.ofNat 64 (l % tl.trip 0 + l / tl.trip 0 % tl.trip 1 * 2 ^ 16
                   + l / (tl.trip 0 * tl.trip 1) % tl.trip 2 * 2 ^ 32 + l / (tl.trip 0 * tl.trip 1 * tl.trip 2) * 2 ^ 48) }
        else t.aheadFrom ag e none (k + 1) 0 (l - total) n

/-- Iteration m of what is left of an engine's segment. -/
def Tile.ahead (t : Tile) (ag : Agent) (m : Nat) : Option Ahead :=
  let q := nth t.seqs ag.seqIx
  match q.queue with
  | [] => none
  | e :: _ =>
    let r := q.cur.filter fun r => r.began
    let done := match r with
      | some r => ((r.instr.coded.bind fun c => c.tail).map r.linear).getD 0
      | none => 0
    t.aheadFrom ag e r q.idx done m (e.count - q.idx)

/-- The due-cycle trap of an engine's scheduled segment in this cycle, whether the engine is free to issue or not: of the
iteration whose slot it is, when its arrival passes the phase or the transfers it relies on are not due; in the last
cycle of the phase, of an iteration left without a slot (R369, R408). -/
def State.slotTrap (s : State) (ag : Agent) : Option (Word × Ahead) :=
  let t := s.here
  let q := nth t.seqs ag.seqIx
  match q.phase, t.super with
  | some (_, n), some p =>
    let slots := s.engineSlots ag
    if q.held || t.cc.trap.halt then none
    else
      (match slots.zipIdx.find? fun e => decide (n ≤ e.2) && decide (p.s + e.1.1 = t.now) with
        | some ((u, e), m) =>
          (t.ahead ag (m - n)).bind fun x =>
            if p.clen ≤ u + x.arrival then some (BitVec.ofNat 64 e, x)
            else if !s.stagesMet ag q.stg.toNat t.now then some (BitVec.ofNat 64 (0x80000000 + e), x)
            else none
        | none => none) <|>
      (if t.now + 1 = p.s + p.clen then
          (t.ahead ag (slots.length - n)).map fun x =>
            (BitVec.ofNat 64 ((s.hereCtx.map fun (c : CtxDie) => c.slots.entries.length).getD 0), x)
        else none)
  | _, _ => none

/-- A trap of a scheduled segment: the iteration is not issued, and the engine issues nothing further before the cut. -/
def State.slotStop (s : State) (ag : Agent) (v : Word) (off : Nat) (fidx : Word) : State :=
  (s.modHere fun t => t.setSeq ag { nth t.seqs ag.seqIx with held := true, stalled := none }).pass.trigger
    { code := 0x0014, value := v, kind := .dueCycle, agent := some ag, fpc := BitVec.ofNat 64 off, fidx }

/-! ### A sequencer's turn -/

/-- The turn of a sequencer that may issue. -/
def State.issueTurn (ex : Meaning) (s0 : State) (ag : Agent) : Option Out :=
  let read := if s0.here.seqReady (nth s0.here.seqs ag.seqIx) then s0.here.recordAt (nth s0.here.seqs ag.seqIx) else none
  let s := match read with
    | some (off, _, _, w) => s0.modHere fun t => t.reread ag off w
    | none => s0
  let t := s.here
  let q := nth t.seqs ag.seqIx
  match read with
  | none => some (.next s.pass)
  | some (off, k, n, w) =>
    match decodeRecord ag w with
    | .bad f => some (.next (s.seqTrap ag 0x0001 f.tval none off 0))
    | .ok i =>
      if loopsBroken q i k n then some (.next (s.seqTrap ag 0x0001 (Failure.tval ⟨0, 11⟩) none off 0))
      else
        match s.slotTurn ag (slotArrival i) with
        | .early => some (.next s.pass)
        | .trap v => some (.next (s.slotStop ag v off ((q.cur.map Running.fidx).getD 0)))
        | .go => s.took (ex i { s.modHere (fun t => t.setSeq ag (q.holding off w i)) with agent := ag })

/-- A sequencer's turn. -/
def State.seqTurn (ex : Meaning) (s0 : State) (ag : Agent) : Option Out :=
  match s0.slotTrap ag with
  | some (v, x) => some (.next (s0.slotStop ag v x.off x.fidx))
  | none => s0.issueTurn ex ag

/-! ### The start of a cycle (R217, R222) -/

/-- The turn of an agent whose phase it is. -/
def State.agentTurn (ex : Meaning) (s : State) (ag : Agent) : Option Out :=
  if ag = .cc then s.ccTurn ex else s.seqTurn ex ag

/-- The state after an agent's turn, or the same state with the phase moved on. -/
def State.tried (ex : Meaning) (s : State) (ag : Agent) : State :=
  match (s.modHere fun t => { t with phase := ag.phase }).agentTurn ex ag with
  | some (.next s1) => s1
  | _ => s

/-- The first of these sequencers to find a trap in its turn of this cycle, the others taking theirs before it. -/
def State.firstTrap (ex : Meaning) (s : State) : List Agent → Option Agent
  | [] => none
  | ag :: more =>
    let s1 := s.tried ex ag
    if s1.here.stop ≠ s.here.stop then some ag else s1.firstTrap ex more

/-- Some sequencer of the moving tile has work for this cycle. -/
def State.busy (s : State) : Bool :=
  (s.here.seqs.toList.any fun q => s.here.seqReady q && (s.here.recordAt q).isSome) || (s.slotTrap .le).isSome || (s.slotTrap .se).isSome

/-- The sequencer whose iteration trap triggers or replaces a stop in this cycle: it is found before any agent issues. -/
def State.trapping (ex : Meaning) (s : State) : Option Agent :=
  if s.here.takesFault && s.busy then
    let base := if s.ccTraps ex then s else s.tried ex .cc
    base.firstTrap ex [.ve, .me, .le, .se]
  else none

/-- An iteration trap or a due-cycle fault has been taken in this very cycle: a precise trap of the same cycle gives way
(R222). -/
def Tile.freshTrap (t : Tile) : Bool := decide (t.faultAt = some t.now)

/-- The trap of one sequencer is taken at the start of the cycle, ahead of every issue. -/
def State.takeTrap (ex : Meaning) (s : State) (ag : Agent) : State :=
  (s.tried ex ag).modHere fun t => { t with phase := .start }

/-- The first agent that leaves a stall in this cycle. -/
def State.resuming (s : State) : Option Agent :=
  [Agent.cc, .ve, .me, .le, .se].find? fun ag =>
    match s.here.stallOf ag with
    | some w => !s.stallHolds ag w
    | none => false

/-- The task's end waits for nothing within the tile's time any more (R50). -/
def State.endingNow (s : State) : Bool :=
  let x := s.here
  decide (x.mode = .ending) && x.stop.isNone && x.refused.isEmpty && x.flight.isEmpty && s.enginesIdle s.die s.tile
    && s.reqs.all fun r => !(r.of s.die s.tile && r.captured.isNone)

/-- The outcome of a row that comes about in this state. -/
def State.happens (s : State) (row : State → Out) : Option Out :=
  match row s with
  | .next s1 => some (.next s1)
  | _ => none

/-- Acceptance of requests, when no other event of the cycle takes precedence: pre-emption, die loss, interrupt (R222). -/
def State.acceptance (ex : Meaning) (s : State) : Option Out :=
  if !s.here.accepts || (s.here.preempt.isNone && s.here.dieLost.isEmpty && s.here.irq.isNone) || s.ccTraps ex then none
  else
    match s.happens execPreemptAccept with
    | some o => some o
    | none => if s.here.dieLost.isEmpty then s.happens execInterruptAccept else some (.next s.acceptDieLoss)

/-- A stop that ends without a frame does not wait for a frozen tile (R352, R423). -/
def Tile.discards (t : Tile) : Bool :=
  match t.stop with
  | some (_, .discard _) => t.cutDue
  | _ => false

/-- The start of a cycle: its events in their order, and then the agents' turns. None while the tile is frozen. -/
def State.startTurn (ex : Meaning) (s : State) : Option Out :=
  let t := s.here
  if s.toReinject then some (execLatchReinject s)
  else if t.discards then s.happens execStopCut
  else if s.frozen s.die s.tile then none
  else if t.cutDue then s.happens execStopCut
  else if s.reqs.any s.dueNow then some (execDueCycle s)
  else if t.phaseOver then some (execCommPhaseEnd s)
  else if s.endingNow then s.happens (execTaskComplete s.die s.tile)
  else
    match s.resuming with
    | some ag => some (execStallResume ag s)
    | none =>
      if !t.refused.isEmpty then some (execSemaphoreCeilingTrap s)
      else if t.wantsLine (lineOf t.cc.pc) then none
      else
        match s.trapping ex with
        | some ag => some (.next (s.takeTrap ex ag))
        | none =>
          match s.happens execBudgetOverrun with
          | some o => some o
          | none =>
            match s.acceptance ex with
            | some o => some o
            | none => some (.next s.pass)

/-- The next cycle begins. -/
def State.reopen (s : State) : State := (s.modHere fun t => { t with heldOpen := false }).pass

/-- The end of a cycle is decided: a wfe ends, or the next cycle begins (R140). -/
def State.closeTurn (s : State) : Out :=
  match s.happens execWfeWake with
  | some (.next s1) => .next s1.reopen
  | _ =>
    match s.happens execWfeTimeout with
    | some (.next s1) => .next s1.reopen
    | _ => .next s.reopen

/-- A remote access that arrived while the end of the moving tile's cycle was held open is performed now, between the cycles
(R30). -/
def State.heldAccess (s : State) : Option Out :=
  if !s.here.heldOpen then none
  else
    let here (r : Req) : Bool := decide (r.stage = .home) && r.pieces.any fun p => p.place.any fun x =>
      decide (s.findDie x.die = some s.die) && (match region x.local_ with
        | .window t _ => decide (t = s.tile)
        | _ => false)
    (s.reqs.filter here).findSome? fun r => s.happens (execRemoteAccess r.id) <|> s.happens (execRemoteAtomic r.id)

/-- One small step of the moving tile; none when it has no task, is halted, or is frozen. -/
def State.tileTurn (ex : Meaning) (s : State) : Option Out :=
  let t := s.here
  if !s.live s.die || !(decide (t.mode = .running) || decide (t.mode = .ending)) then none
  else
    match t.phase with
    | .start => s.startTurn ex
    | .cc => if t.freshTrap && s.ccTraps ex then some (.next s.pass) else s.ccTurn ex
    | .ve => if t.cutDue then s.happens execStopCut else s.seqTurn ex .ve
    | .me => s.seqTurn ex .me
    | .le => s.seqTurn ex .le
    | .se => s.seqTurn ex .se
    | .finish => s.happens execResultWriteback
    | .close => s.heldAccess <|> some s.closeTurn

/-! ### Everything else -/

/-- Rows that belong to the cycle of a tile: they come about when the tile moves. -/
def ofCycle : Instr → Bool
  | .resultWriteback | .stallResume _ | .dueCycle | .commPhaseEnd | .semaphoreCeilingTrap | .stopCut | .latchReinject
  | .preemptAccept | .interruptAccept | .budgetOverrun | .wfeTimeout | .wfeWake | .taskComplete .. => true
  | _ => false

/-- What a request may do next. -/
def State.reqSteps (s : State) (r : Req) : List (State → Out) :=
  match r.stage with
  | .issued => [execPageWalk r.id, execRouterForward r.id, execResponseLand r.id]
  | .fabric .. => [execRouterForward r.id]
  | .egress d p _ =>
    (match s.sender d p with
      | some (e, k) => [execLinkPacketReceive e k true, execLinkReplay d p]
      | none => [])
  | .ingress _ => [execIngressRequest r.id]
  | .home =>
    [execRouterForward r.id, execHomeAccess r.id [], execRemoteAccess r.id, execRemoteAtomic r.id, execNearMemoryOp r.id
      , execContributionArrival r.id, execSsyncArrival r.id, execTriggerCounterChange r.id]
  | .adding => [execBarrierAdd r.id]
  | .waiting => [execKillComplete r.id, execSwapComplete r.id, execTlbinvComplete r.id]
  | .done => [execResponseLand r.id]
  | _ => []

/-- What the links and the units of a die may do next. -/
def State.dieSteps (s : State) (d : DieIx) : List (State → Out) :=
  let ports := (List.finRange 8).flatMap fun p =>
    match (s.portAt d p).egress.head?.bind fun (g : Egress) => if g.received then g.sent.map fun n => n + BitVec.ofNat 12 (g.packets - 1) else none with
    | some n => [execLinkAck d p n]
    | none => if (s.portAt d p).command.isSome then [execLinkCommandComplete d p { partner := s.expectedId d p }] else []
  let ctxs := (List.finRange 16).flatMap fun q =>
    if (s.ctxAt d q).entry.state = 0 then []
    else [execRecordForward d q 0, execGraphTake d q, execGangStart d q, execSsnumUpdate d q]
      ++ (List.finRange 4).map fun k => execChunkArrival d q k
  let sweeps := ((List.finRange 64).filter fun t => (s.tileAt d t).segmentsFull).flatMap fun t =>
    ((s.partition d).filter fun h => decide (nth (s.tileAt d t).scans h ≠ (s.tileAt d t).seg)).map execSegmentSweep
  ports ++ ctxs ++ sweeps ++ [execWritebackComplete d, execThresherRowSend d, execThresherRowAck d, execThresherStop d]

/-- What a tile may do between its cycles. -/
def State.tileSteps (s : State) (d : DieIx) (t : TileIx) : List (State → Out) :=
  let x := s.tileAt d t
  [execIcacheFill d t (lineOf x.cc.pc), execStartSignal d t, execSwapInTile d t, execPreload d t, execTaskStart d t]

/-- The first of these rows that comes about. -/
def State.firstOf (s : State) : List (State → Out) → Option Out
  | [] => none
  | row :: more =>
    match s.happens row with
    | some o => some o
    | none => s.firstOf more

/-- The first tile of a list that moves. -/
def State.firstTile (ex : Meaning) (s : State) : List (DieIx × TileIx) → Option Out
  | [] => none
  | (d, t) :: more =>
    match ({ s with die := d, tile := t }).tileTurn ex with
    | some o => some o
    | none => s.firstTile ex more

/-- The tiles of the live dies. -/
def State.liveTiles (s : State) : List (DieIx × TileIx) :=
  ((List.finRange 8).filter fun d => s.live d).flatMap fun d => (List.finRange 64).map fun t => (d, t)

/-- The tiles of the live dies, from the one after the moving tile round to itself. -/
def State.tilesRound (s : State) : List (DieIx × TileIx) :=
  let l := s.liveTiles
  (l.dropWhile fun p => decide (p ≠ (s.die, s.tile))).drop 1 ++ l

/-- What comes next beside the moving tile when the agenda does not say: requests in order of age, then the units of the
dies, then what tiles do between cycles, then the next tile that moves; nothing at all leaves the state as it is. -/
def State.others (ex : Meaning) (s : State) : Out :=
  match s.firstOf (s.tileSteps s.die s.tile ++ s.reqs.flatMap s.reqSteps ++ (if s.widen = [] then [] else [execCrustWiden 0])) with
  | some o => o
  | none =>
    let ds := (List.finRange 8).filter fun d => s.live d
    match s.firstOf (ds.flatMap s.dieSteps ++ s.liveTiles.flatMap fun p => s.tileSteps p.1 p.2) with
    | some o => o
    | none => (s.firstTile ex s.tilesRound).getD (.next s)

/-- Whether the moving tile lets everything else go first: at every sixteenth of its cycles. -/
def Tile.yields (t : Tile) : Bool := decide (t.phase = .start) && decide (t.now % 16 = 0)

/-- A die whose slices the moving tile waits for before it may close a segment. -/
def State.unswept (s : State) : Option DieIx :=
  if s.here.segmentsFull then
    (s.partition s.die).find? fun h => decide (nth s.here.scans h ≠ s.here.seg)
  else none

/-- What comes next when the agenda does not say: a scan that the moving tile waits for, the moving tile until it yields or
is frozen, then the others. -/
def State.progress (ex : Meaning) (s : State) : Out :=
  match s.unswept with
  | some h => execSegmentSweep h s
  | none =>
    if s.here.yields then s.others ex
    else
      match s.tileTurn ex with
      | some o => o
      | none => s.others ex

/-- One step of the package: the head of the agenda, or what comes by itself. -/
def State.turn (ex : Meaning) (s : State) : Out :=
  match s.agenda with
  | [] => s.progress ex
  | .run d t :: rest => (({ s with agenda := rest, die := d, tile := t } : State).tileTurn ex).getD (.fault .notEnabled)
  | .event i :: rest =>
    if i.coded.isSome then .refused .wordInAgenda
    else if ofCycle i then .fault .notEnabled
    else ex i { s with agenda := rest }

end Sys2Proof.Machine
end

