-- ==== Sys2Proof/Machine/Step.lean ====
section
/-!
DEFINITION. One step of the package, and the placing of an instruction where the next step fetches it.
-/
namespace Sys2Proof.Machine

/-- One step: what the agenda says, or what comes by itself; every word that an agent fetches has its meaning in exec. -/
def step (s : State) : Host.Outcome State Fault Refusal := s.turn exec

/-- The sequencer whose queue takes a record: the first that the opcode map lists and that decodes it; none for a word of
the control core. -/
def fetchAgent (nbits v : Nat) : Agent :=
  let word := match decodeBytes .cc (bytesOf 16 v) with
    | .ok _ => decide (nbits ≤ 128)
    | .bad _ => false
  if word then .cc
  else
    match decodeBytes (recordAgent (v % 256)) (bytesOf 64 v) with
    | .ok _ => recordAgent (v % 256)
    | .bad _ =>
      match decodeBytes .se (bytesOf 64 v) with
      | .ok _ => .se
      | .bad _ => if nbits ≤ 128 then .cc else recordAgent (v % 256)

/-- The tile with a word in its instruction cache at PC, at the point of a cycle at which the control core issues. -/
def Tile.withWord (t : Tile) (v : Nat) : Tile :=
  let line := lineOf t.cc.pc
  { t with
    mode := .running, phase := .cc, stalled := none, stop := none
    icache := (line, BitVec.ofNat 512 (v % 2 ^ 128 * 2 ^ (8 * (t.cc.pc.toNat % 64)))) :: t.icache.filter fun p => decide (p.1 ≠ line)
    cc := { t.cc with mode := .ready } }

/-- A sequencer whose only segment begins with a record at offset 0. -/
def Seq.withRecord (q : Seq) (v : Nat) : Seq :=
  { q with
    queue := [{ off := 0, count := if v % 65536 = 0xDF then 2 else 1 }], idx := 0, cur := none, gap := 0, stalled := none
    held := false, phase := none, aside := none
    loops := if v % 65536 = 0x1DF then [{ first := 0, trips := 1, index := 0 }] else [] }

/-- The tile with a record in its scratchpad, at the point of a cycle at which its sequencer issues. -/
def Tile.withRecord (t : Tile) (ag : Agent) (v : Nat) : Tile :=
  let t := t.spWrite 0 (bytesOf 64 v)
  { t.setSeq ag ((nth t.seqs ag.seqIx).withRecord v) with
    mode := .running, phase := ag.phase, stop := none, undo := []
    cc := { t.cc with
      trap := t.cc.trap.setHalt false
      mode := match t.cc.mode with
        | .resume _ => .ready
        | m => m } }

/-- An instruction placed where the moving tile fetches next: its die is live, the tile runs, and nothing of the agenda
comes first. -/
def State.withFetchWord (s : State) (nbits w : Nat) : State :=
  let v := w % 2 ^ nbits
  let ag := fetchAgent nbits v
  let s1 := s.modHere fun t => if ag = .cc then t.withWord v else t.withRecord ag v
  { s1 with agenda := [], io := { s1.io with dstate := upd s1.io.dstate s.die 2 } }

end Sys2Proof.Machine
end

