-- ==== Sys2Proof/Safety.lean ====
section
/-!
DEFINITION. What a safe run is, in the terms that claims use.
-/
namespace Sys2Proof.Machine

/-- Whether an outcome is a next state. -/
def isNext (o : Out) : Bool :=
  match o with
  | .next _ => true
  | _ => false

/-- Every memory of a tile is in canonical form. -/
def Tile.memOk (t : Tile) : Bool := t.setA.bytes.wf && t.setB.bytes.wf && t.silo.wf

/-- Every memory of a die is in canonical form. -/
def Die.memOk (x : Die) : Bool := x.dram.wf && x.tiles.toList.all Tile.memOk

/-- Every memory of the package is in canonical form. -/
def State.memOk (s : State) : Bool := s.host.wf && s.dies.toList.all Die.memOk

/-- A run of n steps goes on: no step of it ends in a fault or a refusal. -/
def runs : Nat → State → Bool
  | 0, _ => true
  | n + 1, s =>
    match step s with
    | .next s1 => runs n s1
    | _ => false

end Sys2Proof.Machine
end

