-- ==== Sys2Proof/Certificates/Slice0/Obligations.lean ====
section
/-!
DEFINITION. The statements about the machine, each after the rules it formalises; what several of them say in one way stands
in Sys2Proof.Claims.
-/
namespace Sys2Proof.Claims

open Sys2Proof.Machine

/-! ### What is left alone -/

/-- Every byte of memory reads as before: the DRAM of every die, the bank sets, tag tables and silo of every tile, and the
host memory. -/
def SameMemory (s t : State) : Prop :=
  (∀ d a, (t.dieAt d).dram.read a = (s.dieAt d).dram.read a) ∧
  (∀ d k a, (t.tileAt d k).winByte a = (s.tileAt d k).winByte a) ∧
  ∀ a, t.host.read a = s.host.read a

/-- Every other tile, every other die and everything beside the moving tile, its requests apart, is as before. -/
def OnlyHere (s t : State) : Prop :=
  t.die = s.die ∧ t.tile = s.tile ∧ t = { s.setTile s.die s.tile t.here with reqs := t.reqs, nextReq := t.nextReq }

/-! ### Operations of the control core -/

/-- The semaphore that SW names, if any, holds a count (R70). -/
def Granted (o : Op) (s : State) : Prop := ∀ k, o.sw = some k → 1 ≤ (nth s.here.sems k).count.toNat

/-- The semaphores after the wait that SW names. -/
def waited (o : Op) (s : State) : Vector Sem 16 :=
  match o.sw with
  | some k => upd s.here.sems k { nth s.here.sems k with count := (nth s.here.sems k).count - 1 }
  | none => s.here.sems

/-- The address of the word that issues, and of the word after it: PC[63:56] are always 0 (R115). -/
def wordPc (s : State) : Word := BitVec.ofNat 64 (s.here.cc.pc.toNat % 2 ^ 56)
def nextWord (s : State) : Word := BitVec.ofNat 64 ((s.here.cc.pc.toNat + 16) % 2 ^ 56)

/-- A control-core operation has issued: PC stands at `pc`, its wait is made, and nothing else of the machine has changed but
results in flight, requests, the lines requested ahead, the segment, and the model's phase and activity count. -/
structure CcIssued (o : Op) (s t : State) (pc : Word) : Prop where
  pc : t.here.cc.pc = pc
  sems : t.here.sems = waited o s
  here : OnlyHere s t
  tile : t.here = { s.here with
    cc := { s.here.cc with pc := t.here.cc.pc, wfeBack := none }, sems := t.here.sems, fetch := t.here.fetch, flight := t.here.flight
    stalled := none, phase := t.here.phase, activity := t.here.activity, seg := t.here.seg }
  memory : SameMemory s t

/-- The same for an operation that makes no request and closes no segment. -/
structure CcDone (o : Op) (s t : State) (pc : Word) : Prop extends CcIssued o s t pc where
  reqs : t.reqs = s.reqs
  nextReq : t.nextReq = s.nextReq
  seg : t.here.seg = s.here.seg

/-- The result that an operation leaves in flight: what it writes, when, and its post (R70, R83). -/
def ccResult (o : Op) (s : State) (lat : Nat) (effects : List Effect) (sample : Option (Nat × Sample) := none) : Result :=
  { agent := .cc, left := lat, issued := s.here.now, effects, sample, post := o.sp.map fun k => { k }, fpc := wordPc s }

/-- A scalar register as it reads: x0 is zero (R115). -/
def xreg (s : State) (i : Fin 32) : Word := if i = 0 then 0 else nth s.here.cc.x i

/-- The index of a scalar specifier. -/
def xix (x : Operand) : Fin 32 :=
  match x with
  | .x i => i
  | _ => 0

/-- An integer operand: LIT, sign-extended, when LSEL selects its field, else the register (R68, R118). -/
def operand (o : Op) (s : State) (sel : LitSel) (x : Operand) : Word :=
  if o.lsel = sel then BitVec.ofInt 64 o.lit.toInt else xreg s (xix x)

/-- What an operation of R119 writes: x_d, or SRSEED when D names it (R118). -/
def writeD (o : Op) (v : Word) : Effect := if o.d = .srseed then .seed v else .x (xix o.d) v

/-- The conditions of R120. -/
def condition (code : Nat) (a b : Word) : Bool :=
  match code with
  | 0 => decide (a = b)
  | 1 => decide (a ≠ b)
  | 2 => decide (a.toInt < b.toInt)
  | 3 => decide (a.toInt ≥ b.toInt)
  | 4 => decide (a.toInt ≤ b.toInt)
  | 5 => decide (a.toInt > b.toInt)
  | 6 => decide (a.toNat < b.toNat)
  | 7 => decide (a.toNat ≥ b.toNat)
  | 8 => decide (a.toNat ≤ b.toNat)
  | 9 => decide (a.toNat > b.toNat)
  | _ => false

/-- The number of the first bit that is set, from the lowest up; 64 for none. -/
def firstBit (a : Word) : Nat := ((List.range 64).find? fun i => a.getLsbD i).getD 64

/-- The integer operations (R119, R120): fields, latency (R83) and what is written. -/
def intRow (s : State) (i : Instr) : Option (Op × Nat × Effect) :=
  let two (o : Op) (lat : Nat) (f : Word → Word → Word) : Option (Op × Nat × Effect) :=
    some (o, lat, writeD o (f (operand o s .a o.a) (operand o s .b o.b)))
  let int (v : Int) : Word := BitVec.ofInt 64 v
  let nat (v : Nat) : Word := BitVec.ofNat 64 v
  match i with
  | .add o => two o 1 fun a b => int (a.toInt + b.toInt)
  | .sub o => two o 1 fun a b => int (a.toInt - b.toInt)
  | .and o => two o 1 fun a b => a &&& b
  | .or o => two o 1 fun a b => a ||| b
  | .xor o => two o 1 fun a b => a ^^^ b
  | .andn o => two o 1 fun a b => a &&& ~~~b
  | .sll o => two o 1 fun a b => nat (a.toNat * 2 ^ (b.toNat % 64))
  | .srl o => two o 1 fun a b => nat (a.toNat / 2 ^ (b.toNat % 64))
  | .sra o => two o 1 fun a b => int (a.toInt / 2 ^ (b.toNat % 64))
  | .rotl o => two o 1 fun a b => nat (a.toNat * 2 ^ (b.toNat % 64) + a.toNat / 2 ^ (64 - b.toNat % 64))
  | .min o => two o 1 fun a b => if b.toInt < a.toInt then b else a
  | .max o => two o 1 fun a b => if a.toInt < b.toInt then b else a
  | .minn o => two o 1 fun a b => if b.toNat < a.toNat then b else a
  | .maxn o => two o 1 fun a b => if a.toNat < b.toNat then b else a
  | .mul o => two o 3 fun a b => int (a.toInt * b.toInt)
  | .mulh o => two o 3 fun a b => int (a.toInt * b.toInt / 2 ^ 64)
  | .mulhn o => two o 3 fun a b => nat (a.toNat * b.toNat / 2 ^ 64)
  | .div o => two o 24 fun a b => if b = 0 then int (-1) else int (a.toInt.tdiv b.toInt)
  | .divn o => two o 24 fun a b => if b = 0 then int (-1) else nat (a.toNat / b.toNat)
  | .rem o => two o 24 fun a b => if b = 0 then a else int (a.toInt.tmod b.toInt)
  | .remn o => two o 24 fun a b => if b = 0 then a else nat (a.toNat % b.toNat)
  | .clz o => two o 1 fun a _ => nat (if a = 0 then 64 else 63 - Nat.log2 a.toNat)
  | .ctz o => two o 1 fun a _ => nat (firstBit a)
  | .popc o => two o 1 fun a _ => nat ((List.range 64).filter fun i => a.getLsbD i).length
  | .sel o => two o 1 fun a b => if xreg s (xix o.c) ≠ 0 then a else b
  | .cmp o => two o 1 fun a b => if condition o.sub.toNat a b then 1 else 0
  | .li o => some (o, 1, .x (xix o.d) (int o.lit.toInt))
  | .lih o => some (o, 1, .x (xix o.d) (nat (o.lit.toNat * 2 ^ 32 + (xreg s (xix o.d)).toNat % 2 ^ 32)))
  | .lea o => two o 1 fun a b => int (a.toInt + b.toInt * 2 ^ o.sub.toNat + o.lit.toInt)
  | _ => none

/-- The float operations (R121 to R123): the exact result of the operands' values, rounded once in the context of the
operation (R102, R106); fcmp is 0 or 1 by the relations of R122. The value stands in the low bits of x_d (R92). -/
def floatRow (s : State) (i : Instr) : Option (Op × Nat × Effect) :=
  let run (o : Op) (lat : Nat) (f : Fmt → RoundCtx → Nat → Nat → Nat → Nat) : Option (Op × Nat × Effect) :=
    let v := f o.et.fmt (s.here.ccRound o) (s.here.floatOperand o .a o.a) (s.here.floatOperand o .b o.b) (s.here.floatOperand o .c o.c)
    some (o, lat, .x (xix o.d) (BitVec.ofNat 64 v))
  match i with
  | .fadd o => run o 4 fun f c a b _ => f.round c ((c.read f a).add (c.read f b))
  | .fsub o => run o 4 fun f c a b _ => f.round c ((c.read f a).add (c.read f b).neg)
  | .fmul o => run o 4 fun f c a b _ => f.round c ((c.read f a).mul (c.read f b)).exact
  | .fdiv o => run o 20 fun f c a b _ => f.round c ((c.read f a).div (c.read f b))
  | .fsqrt o => run o 22 fun f c a _ _ => f.round c (c.read f a).sqrt
  | .ffma o => run o 4 fun f c a b d => f.round c (((c.read f a).mul (c.read f b)).add (c.read f d))
  | .fmin o => run o 2 fun f c a b _ => f.select c false a b
  | .fmax o => run o 2 fun f c a b _ => f.select c true a b
  | .fcmp o => run o 2 fun f c a b _ => if condFloat f c o.sub.toNat a b then 1 else 0
  | .fcvt o =>
    let st := (ElemType.ofCode (o.sub.setWidth 4)).ccType
    some (o, 3, .x (xix o.d) (BitVec.ofNat 64 (convert o.et.ccType st (s.here.ccRound o) ((xreg s (xix o.a)).toNat % 2 ^ st.width))))
  | _ => none

/-- The jumps: fields, whether the branch is taken, its target, and the link (R124, R125). -/
def jumpRow (s : State) (i : Instr) : Option (Op × Bool × Word × List Effect) :=
  let link (o : Op) : List Effect := [.x (xix o.d) (s.here.cc.pc + 16)]
  match i with
  | .bcc o => some (o, decide (o.sub = 15) || condition o.sub.toNat (xreg s (xix o.b)) 0, nth s.here.cc.b (bIx o.a), [])
  | .jal o => some (o, true, s.here.cc.pc + BitVec.ofInt 64 o.lit.toInt, link o)
  | .jalr o => some (o, true, nth s.here.cc.b (bIx o.a), link o)
  | _ => none

/-- A branch target may be jumped to (R125). -/
def goodTarget (w : Word) : Prop := w.toNat % 16 = 0 ∧ w.toNat < 2 ^ 56

/-- What an operation of the control core leaves in flight, when it has anything to leave. -/
def left (o : Op) (s : State) (lat : Nat) (effects : List Effect) : List Result :=
  if effects = [] ∧ o.sp = none then [] else [ccResult o s lat effects]

/-- Operations of the control core on the scratchpad, the silo, the engines, status registers, tags and semaphores: fields,
whether the checks of the rule hold, latency, what is written, and what is sampled (R129 to R136, R117, R277, R278, R281,
R284, R397). -/
def coreRow (s : State) (i : Instr) : Option (Op × Bool × Nat × List Effect × Option (Nat × Sample)) :=
  let t := s.here
  let a (o : Op) : Word := xreg s (xix o.a) + BitVec.ofInt 64 o.lit.toInt
  let atom (o : Op) (d : List (Fin 32)) (k : AtomKind) : Option (Op × Bool × Nat × List Effect × Option (Nat × Sample)) :=
    let va := xreg s (xix o.a)
    if o.sub.getLsbD 0 then none
    else some (o, decide (va.toNat + k.size ≤ 0x200000) && decide (va.toNat % k.size = 0), 4, [], some (1, .atom d va.toNat k))
  let rmw (o : Op) (op : AtomOp) := atom o [xix o.d] (.rmw op o.atomWidth (xreg s (xix o.b)))
  match i with
  | .ld o => some (o, decide ((a o).toNat < 0x400000) && (decide ((a o).toNat < 0x200000) || decide (t.cc.level = .system))
      && decide ((a o).toNat % o.et.memBytes = 0), 4, [], some (1, .ld (xix o.d) (a o).toNat o.et))
  | .st o => some (o, decide ((a o).toNat < 0x400000) && (decide ((a o).toNat < 0x200000) || decide (t.cc.level = .system))
      && decide ((a o).toNat % o.et.memBytes = 0), 2, [.sp (a o).toNat (bytesOf o.et.memBytes (xreg s (xix o.b)).toNat)], none)
  | .ldl o => some (o, decide ((a o).toNat + o.et.memBytes ≤ t.slotSize (slotIx o)) && decide ((a o).toNat % o.et.memBytes = 0), 4, []
      , some (1, .ldl (xix o.d) (t.slotBase (slotIx o) + (a o).toNat) o.et))
  | .wrg o => some (o, true, 1, [.g (match o.d with | .g i => i | _ => 0) (operand o s .a o.a)], none)
  | .wrn o => some (o, true, 1, [.n (match o.d with | .n i => i | _ => 0) (BitVec.ofNat 16 (min (operand o s .a o.a).toNat 65535))], none)
  | .nst o => some (o, true, 1, [.nest (Fin.ofNat 6 o.sub.toNat) (BitVec.ofNat 64 ((operand o s .a o.a).toNat % 2 ^ 50))], none)
  | .mgo o => some (o, true, 1, [.nestGo], none)
  | .rdsr o => some (o, decide (t.cc.level = .system) || decide (o.sub.toNat ≤ 7), 1, [.x (xix o.d) (s.statusRead o.sub.toNat)], none)
  | .wrsr o => some (o, decide (t.cc.level = .system) || decide (o.sub.toNat ≤ 1), 1, [.sreg o.sub (operand o s .a o.a)], none)
  | .enq o => some (o, decide ((nth t.seqs (engineOf o).seqIx).entries.length < 32)
      && (t.segmentCheck (engineOf o) (operand o s .a o.a) (operand o s .b o.b)).isNone, 1
      , [.enq (engineOf o) (operand o s .a o.a).toNat (operand o s .b o.b).toNat], none)
  | .tlk o => some (o, true, 3, [], some (1, .tlk (xix o.d) (operand o s .a o.a)))
  | .tins o =>
    let v := xreg s (xix o.c)
    some (o, decide ((operand o s .a o.a).toNat ≤ 1023) && decide (v.toNat % 2 ^ 16 < 2 ^ 15) && decide (v.toNat / 2 ^ 16 ≤ 32768), 2
      , [.tagIns (operand o s .a o.a).toNat (xreg s (xix o.b)) (BitVec.ofNat 15 v.toNat) (BitVec.ofNat 16 (v.toNat / 2 ^ 16))], none)
  | .tinvOne o => some (o, decide ((operand o s .a o.a).toNat ≤ 1023), 2, [.tagInv (operand o s .a o.a).toNat], none)
  | .tinvAll o => some (o, true, 2, [.tagInvAll], none)
  | .tinvTag o => some (o, true, 2, [.tagInvTag (operand o s .a o.a)], none)
  | .kset o =>
    let c := BitVec.ofNat 8 o.lit.toNat
    let m := BitVec.ofNat 8 (o.lit.toNat / 2 ^ 8)
    some (o, decide (c.toNat ≤ m.toNat), 1, [.kset (Operand.kIx o.d) c m], none)
  | .ksetReg o =>
    let c := BitVec.ofNat 8 (xreg s (xix o.a)).toNat
    let m := BitVec.ofNat 8 ((xreg s (xix o.a)).toNat / 2 ^ 8)
    some (o, decide (c.toNat ≤ m.toNat), 1, [.kset (Operand.kIx o.d) c m], none)
  | .pbr o => some (o, true, 2, [.b (bIx o.d) (t.cc.pc + BitVec.ofInt 64 o.lit.toInt)], none)
  | .pbrReg o => some (o, true, 2, [.b (bIx o.d) (a o)], none)
  | .atomAdd o => rmw o .add
  | .atomMin o => rmw o .min
  | .atomMax o => rmw o .max
  | .atomMinn o => rmw o .minn
  | .atomMaxn o => rmw o .maxn
  | .atomAnd o => rmw o .and
  | .atomOr o => rmw o .or
  | .atomXor o => rmw o .xor
  | .atomSwap o => rmw o .swap
  | .cas o => atom o [xix o.d] (.cas o.atomWidth (xreg s (xix o.b)) (xreg s (xix o.c)))
  | .cas2 o => atom o (xGroup (xix o.d) 2) (.casN ((xGroup (xix o.b) 2).map (xreg s)) ((xGroup (xix o.c) 2).map (xreg s)))
  | .cas4 o => atom o (xGroup (xix o.d) 4) (.casN ((xGroup (xix o.b) 4).map (xreg s)) ((xGroup (xix o.c) 4).map (xreg s)))
  | _ => none

end Sys2Proof.Claims

open Sys2Proof Sys2Proof.Machine

/-- R119, R120: every integer operation whose wait is granted completes and writes the value of its row. -/
def Obligations.IntegerOperationsComplete : Prop :=
  ∀ i o lat e s, Claims.intRow s i = some (o, lat, e) → Claims.Granted o s →
    ∃ t, exec i s = .next t ∧ Claims.CcDone o s t (Claims.nextWord s) ∧
      t.here.flight = s.here.flight ++ [Claims.ccResult o s lat [e]]

/-- R122, R123: the same for every float operation. Logs 79 and 80 name the model's choices of stochastic rounding. -/
def Obligations.FloatOperationsComplete : Prop :=
  ∀ i o lat e s, Claims.floatRow s i = some (o, lat, e) → Claims.Granted o s →
    ∃ t, exec i s = .next t ∧ Claims.CcDone o s t (Claims.nextWord s) ∧
      t.here.flight = s.here.flight ++ [Claims.ccResult o s lat [e]]

/-- R125: a branch or jump completes, at its target when it is taken and the target is good, at the next word when it is not. -/
def Obligations.JumpsComplete : Prop :=
  ∀ i o taken target link s, Claims.jumpRow s i = some (o, taken, target, link) → Claims.Granted o s →
    (taken = true → Claims.goodTarget target) →
    ∃ t, exec i s = .next t ∧ Claims.CcDone o s t (if taken then target else Claims.nextWord s) ∧
      t.here.flight = s.here.flight ++ Claims.left o s 1 link

/-- The other operations of the control core that stay on the tile complete when the checks of their rule hold. -/
def Obligations.CoreOperationsComplete : Prop :=
  ∀ i o lat es smp s, Claims.coreRow s i = some (o, true, lat, es, smp) → Claims.Granted o s →
    ∃ t, exec i s = .next t ∧ Claims.CcDone o s t (Claims.nextWord s) ∧
      t.here.flight = s.here.flight ++ [Claims.ccResult o s lat es smp]

namespace Sys2Proof.Claims

open Sys2Proof.Machine

/-! ### Records of the sequencers -/

/-- The sequencer that moves, and the iteration that it is to issue: its valid count and nest table are fixed in the
record's first iteration (R57, R136). -/
def sequencer (s : State) : Seq := nth s.here.seqs s.agent.seqIx
def iteration (s : State) (i : Instr) (tl : Tail) : Running := s.here.fixRecord ((sequencer s).running i) tl

/-- One active iteration: fields, agent, streams popped and pushed, the first check that fails, occupancy (R83), whether
it changes ACT, its results, and what the records of loops and semaphores do besides: to the sequencer after its issue, a wait
for n of their own, a post of n of their own, which their idle iterations make as well. -/
structure RecordRow where
  o       : Op
  tail    : Tail
  agent   : Agent := .ve
  pops    : List (Fin 8) := []
  push    : Option (Fin 8) := none
  check   : Option (BitVec 16 × Word) := none
  occ     : Nat := 1
  flips   : Bool := false
  results : List Result
  seq     : Seq → Seq := id
  takes   : Option (Fin 16 × Nat) := none
  posts   : Option Post := none
  handshake : Bool := false

/-- A result of the iteration. -/
def recordResult (s : State) (i : Instr) (tl : Tail) (left : Nat) (effects : List Effect)
    (sample : Option (Nat × Sample) := none) (ew : Nat := 32) : Result :=
  { agent := s.agent, left, issued := s.here.now, effects, sample, ew, fpc := BitVec.ofNat 64 (iteration s i tl).off
    fidx := (iteration s i tl).fidx }

/-- The post of R70 goes with the result that is written last; a result that writes nothing and posts nothing leaves
nothing in flight. -/
def withPost (p : Option Post) : List Result → List Result
  | [] => []
  | [r] => [{ r with post := p }]
  | r :: rs => r :: withPost p rs
def inFlight (p : Option Post) (rs : List Result) : List Result :=
  (withPost p rs).filter fun r => !(r.effects.isEmpty && r.post.isNone && r.sample.isNone)

/-- The iteration is active, or it is a wait or post of semaphores that an idle one makes too, and nothing holds it back: the wait of SW is granted, the checks hold, every stream that it
pops has a written head and the one that it pushes has room (R57, R58, R70, R153). -/
structure RecordMay (row : RecordRow) (i : Instr) (s : State) : Prop where
  agent  : s.agent = row.agent
  active : row.handshake = false → (iteration s i row.tail).idle row.tail = false
  wait   : ∀ k, dueWait row.o row.tail (sequencer s) (iteration s i row.tail) = some k → 1 ≤ (nth s.here.sems k).count.toNat
  check  : row.check = none
  pops   : ∀ k ∈ row.pops, (nth s.here.streams k).readable = true
  push   : ∀ k, row.push = some k → (nth s.here.streams k).writable = true
  takes  : ∀ k n, row.takes = some (k, n) → n ≤ (nth s.here.sems k).count.toNat

/-- The streams after the pops and the reservation. -/
def streamsAfter (row : RecordRow) (s : State) : Vector Stream 8 :=
  let v := row.pops.foldl (fun v k => upd v k (nth v k).pop) s.here.streams
  match row.push with
  | some k => upd v k (nth v k).reserve
  | none => v

/-- The semaphores after the wait that the iteration makes. -/
def semsAfter (row : RecordRow) (i : Instr) (s : State) : Vector Sem 16 :=
  let v := match dueWait row.o row.tail (sequencer s) (iteration s i row.tail) with
    | some k => upd s.here.sems k { nth s.here.sems k with count := (nth s.here.sems k).count - 1 }
    | none => s.here.sems
  match row.takes with
  | some (k, n) => upd v k { nth v k with count := (nth v k).count - BitVec.ofNat 8 n }
  | none => v

/-- The iteration has issued: its wait is made, its streams have moved, its results are in flight and its sequencer has
gone on (R75, R78); nothing else changes but the model's phase and activity count. -/
structure RecordIssued (row : RecordRow) (i : Instr) (s t : State) : Prop where
  here    : OnlyHere s t
  memory  : SameMemory s t
  reqs    : t.reqs = s.reqs
  nextReq : t.nextReq = s.nextReq
  tile    : t.here = { s.here with
    sems := semsAfter row i s, streams := streamsAfter row s
    seqs := upd s.here.seqs s.agent.seqIx (row.seq ((sequencer s).issued (iteration s i row.tail) row.tail row.occ))
    me := { s.here.me with act := if row.flips then 1 - s.here.me.act else s.here.me.act }
    flight := s.here.flight ++ inFlight (row.posts <|> duePost row.o row.tail (sequencer s) (iteration s i row.tail)) row.results
    phase := t.here.phase, activity := t.here.activity }

/-- Every operation of a table completes whenever nothing holds it back. -/
def RecordsComplete (row : State → Instr → Option RecordRow) : Prop :=
  ∀ i r s, row s i = some r → RecordMay r i s → ∃ t, exec i s = .next t ∧ RecordIssued r i s t

/-! ### The vector engine -/

/-- Element k of width w of a vector, and the vector of elements that f gives. -/
def lane (w : Nat) (v : Vec) (k : Nat) : Nat := v.toNat / 2 ^ (w * k) % 2 ^ w
def byLane (et : ElemType) (f : Nat → Nat) : Vec := vecOfLanes et.width ((List.range et.lanes).map f)

/-- A source of the iteration (R148 to R150, R68). -/
def source (s : State) (i : Instr) (o : Op) (tl : Tail) (sel : LitSel) (x : Operand) (w : Nat) : Vec :=
  s.here.vecOperand (sequencer s) (iteration s i tl) o sel x w

/-- The rounding context of element k (R106, R108, R149). -/
def roundAt (s : State) (i : Instr) (o : Op) (tl : Tail) (k : Nat) : RoundCtx :=
  s.here.laneRound (sequencer s) (iteration s i tl) o k

/-- The entry that a push reserves. -/
def pushSlot (s : State) (d : Operand) : Fin 4 :=
  match d.stream with
  | some k => (nth s.here.streams k).tail
  | none => 0

/-- A row of the vector engine with vector or stream operands in A, B and C. -/
def vecRow (s : State) (i : Instr) (o : Op) (tl : Tail) (lat : Nat) (effects : List Effect) (ew : Nat) : RecordRow :=
  { o, tail := tl, pops := streamsOf [o.a, o.b, o.c], push := o.d.stream, results := [recordResult s i tl lat effects none ew] }

/-- A row with one vector destination under the mask of PQ (R148). -/
def vecDest (s : State) (i : Instr) (o : Op) (tl : Tail) (lat w : Nat) (data : Vec) : RecordRow :=
  vecRow s i o tl lat [vecEffect o.d (pushSlot s o.d) data (laneMask w (s.here.governing o) 0 1)] w

/-- What an operation gives for the elements a, b and c at one place: latency (R83) and value (R156, R157, R180). Integer results are exact before they are narrowed; float results are rounded once. -/
def laneValue (i : Instr) : Option (Op × Tail × Nat × (RoundCtx → Nat → Nat → Nat → Nat)) :=
  let arith (o : Op) (tl : Tail) (li lf : Nat) (f : Int → Int → Int) (g : RoundCtx → Nat → Nat → Nat) :
      Option (Op × Tail × Nat × (RoundCtx → Nat → Nat → Nat → Nat)) :=
    some (o, tl, if o.et.isFloat then lf else li, fun c a b _ =>
      if o.et.isFloat then g c a b else narrow (o.mod = 8) o.et.isSigned o.et.width (f (elemInt o.et a) (elemInt o.et b)))
  let fma (o : Op) (tl : Tail) (np na : Bool) : Option (Op × Tail × Nat × (RoundCtx → Nat → Nat → Nat → Nat)) :=
    some (o, tl, 4, fun c a b d => floatFma o.et.fmt c np na a b d)
  let special (o : Op) (tl : Tail) (f : Num → Exact) : Option (Op × Tail × Nat × (RoundCtx → Nat → Nat → Nat → Nat)) :=
    some (o, tl, 8, fun c a _ _ =>
      o.et.fmt.round { fpctl := c.fpctl } (f (({ fpctl := c.fpctl } : RoundCtx).read o.et.fmt a)))
  let choose (o : Op) (c : RoundCtx) (greater : Bool) (a b : Nat) : Nat :=
    if o.et.isFloat then o.et.fmt.select c greater a b
    else if greater then (if elemInt o.et a < elemInt o.et b then b else a)
    else if elemInt o.et b < elemInt o.et a then b else a
  match i with
  | .vadd o tl => arith o tl 2 4 (· + ·) fun c a b => o.et.fmt.round c ((c.read o.et.fmt a).add (c.read o.et.fmt b))
  | .vsub o tl => arith o tl 2 4 (· - ·) fun c a b => o.et.fmt.round c ((c.read o.et.fmt a).add (c.read o.et.fmt b).neg)
  | .vmul o tl => arith o tl 3 4 (· * ·) fun c a b => o.et.fmt.round c ((c.read o.et.fmt a).mul (c.read o.et.fmt b)).exact
  | .vmulh o tl => some (o, tl, 3, fun _ a b _ => lowBits o.et.width (elemInt o.et a * elemInt o.et b / 2 ^ o.et.width))
  | .vmin o tl => some (o, tl, if o.et.isFloat then 4 else 2, fun c a b _ => choose o c false a b)
  | .vmax o tl => some (o, tl, if o.et.isFloat then 4 else 2, fun c a b _ => choose o c true a b)
  | .vclamp o tl => some (o, tl, if o.et.isFloat then 4 else 2, fun k a b c => choose o k false (choose o k true a b) c)
  | .vfma o tl => fma o tl false false
  | .vfms o tl => fma o tl false true
  | .vfnma o tl => fma o tl true false
  | .vabs o tl => some (o, tl, 2, fun _ a _ _ =>
    if o.et.isFloat then a % 2 ^ (o.et.width - 1)
    else narrow (o.mod = 8) o.et.isSigned o.et.width (if elemInt o.et a < 0 then -elemInt o.et a else elemInt o.et a))
  | .vneg o tl => some (o, tl, 2, fun _ a _ _ =>
    if o.et.isFloat then a ^^^ 2 ^ (o.et.width - 1) else narrow (o.mod = 8) o.et.isSigned o.et.width (-elemInt o.et a))
  | .vround o tl => some (o, tl, 4, fun c a _ _ => o.et.fmt.integral c a)
  | .vexp2 o tl => special o tl fnExp2
  | .vlog2 o tl => special o tl fnLog2
  | .vrcp o tl => special o tl fnRcp
  | .vrsqrt o tl => special o tl fnRsqrt
  | .vsin o tl => special o tl (fnTrig false)
  | .vcos o tl => special o tl (fnTrig true)
  | .vtanh o tl => special o tl fnTanh
  | .vsigm o tl => special o tl fnSigm
  | _ => none

/-- The shifts, as R162 and R163 write them. -/
def shiftValue (i : Instr) : Option (Op × Tail × Nat × (RoundCtx → Nat → Nat → Nat → Nat)) :=
  match i with
  | .vshl o tl => some (o, tl, 2, fun _ a b _ => if o.et.width ≤ b then 0 else a * 2 ^ b % 2 ^ o.et.width)
  | .vshr o tl => some (o, tl, 2, fun _ a b _ => if o.et.width ≤ b then 0 else a / 2 ^ b)
  | .vsra o tl => some (o, tl, 2, fun _ a b _ =>
    if o.et.width ≤ b then (if a.testBit (o.et.width - 1) then 2 ^ o.et.width - 1 else 0)
    else lowBits o.et.width (readInt true o.et.width a / 2 ^ b))
  | .vfsl o tl => some (o, tl, 2, fun _ a b c =>
    (a * 2 ^ o.et.width + b) * 2 ^ (c % o.et.width) / 2 ^ o.et.width % 2 ^ o.et.width)
  | .vfsr o tl => some (o, tl, 2, fun _ a b c => (a * 2 ^ o.et.width + b) / 2 ^ (c % o.et.width) % 2 ^ o.et.width)
  | _ => none

/-- Operations on the elements at equal places. -/
def laneRow (value : Option (Op × Tail × Nat × (RoundCtx → Nat → Nat → Nat → Nat))) (s : State) (i : Instr) : Option RecordRow :=
  value.map fun p =>
    let (o, tl, lat, f) := p
    let at_ (sel : LitSel) (x : Operand) := lane o.et.width (source s i o tl sel x o.et.width)
    vecDest s i o tl lat o.et.width (byLane o.et fun k => f (roundAt s i o tl k) (at_ .a o.a k) (at_ .b o.b k) (at_ .c o.c k))

/-- Operations on whole vectors: logic and select (R160), moves and permutations of elements (R164, R165, R176). -/
def wholeRow (s : State) (i : Instr) : Option RecordRow :=
  let bits (o : Op) (tl : Tail) (f : Vec → Vec → Vec → Vec) : Option RecordRow :=
    let src (sel : LitSel) (x : Operand) := source s i o tl sel x o.et.width
    some (vecDest s i o tl 2 o.et.width (f (src .a o.a) (src .b o.b) (src .c o.c)))
  let take (o : Op) (tl : Tail) (lat : Nat) (from_ : (Nat → Nat) → Nat → Nat) : Option RecordRow :=
    let a := lane o.et.width (source s i o tl .a o.a o.et.width)
    let b := lane o.et.width (source s i o tl .b o.b o.et.width)
    some (vecDest s i o tl lat o.et.width (byLane o.et fun k => if from_ b k < o.et.lanes then a (from_ b k) else 0))
  match i with
  | .vand o tl => bits o tl fun a b _ => a &&& b
  | .vor o tl => bits o tl fun a b _ => a ||| b
  | .vxor o tl => bits o tl fun a b _ => a ^^^ b
  | .vandn o tl => bits o tl fun a b _ => a &&& ~~~b
  | .vlop3 o tl => bits o tl fun a b c => vecOfLanes 1 ((List.range 4096).map fun k =>
    (o.sub.getLsbD ((a.getLsbD k).toNat * 4 + (b.getLsbD k).toNat * 2 + (c.getLsbD k).toNat)).toNat)
  | .vmov o tl => bits o tl fun a _ _ => a
  | .vsel o tl => bits o tl fun a b _ =>
    byLane o.et fun k => if (nth s.here.ve.q o.c.qIx).getLsbD k then lane o.et.width a k else lane o.et.width b k
  | .vrot o tl => take o tl 3 fun b k =>
    let g := 2 ^ (o.sub.toNat % 16)
    k - k % g + ((((k % g : Nat) : Int) - (b 0 : Int)) % (g : Int)).toNat
  | .vperm o tl => take o tl 3 fun b k => b k
  | .vsplat o tl => take o tl 2 fun _ _ => o.lit.toNat % 1024 % o.et.lanes
  | .vbcast o tl => take o tl 3 fun _ k => k % 2 ^ (o.sub.toNat % 16)
  | _ => none

end Sys2Proof.Claims

namespace Sys2Proof.Claims

open Sys2Proof.Machine

/-- A row that writes a mask register: bit k of the governed places below the element count is f k, the bits from there up
are zero (R146, R148). -/
def maskRow (s : State) (i : Instr) (o : Op) (tl : Tail) (lat : Nat) (f : Nat → Bool) : RecordRow :=
  vecRow s i o tl lat [maskEffect s.here o o.et.lanes (maskOf ((List.range o.et.lanes).map f))] 32

/-- Compares, selection of the greatest, and mask operations (R159, R174, R175). -/
def predicateRow (s : State) (i : Instr) : Option RecordRow :=
  let at_ (o : Op) (tl : Tail) (sel : LitSel) (x : Operand) (k : Nat) : Nat := lane o.et.width (source s i o tl sel x o.et.width) k
  let masks (o : Op) (tl : Tail) (f : Bool → Bool → Bool) : Option RecordRow :=
    let bit (k : Nat) : Bool := f ((nth s.here.ve.q o.a.qIx).getLsbD k) ((nth s.here.ve.q o.b.qIx).getLsbD k)
    some (vecRow s i o tl 2 [.qreg o.d.qIx (maskOf ((List.range 1024).map bit)) (BitVec.allOnes 1024)] 32)
  let count (o : Op) (tl : Tail) (f : (Nat → Bool) → Nat) : Option RecordRow :=
    some (vecRow s i o tl 2
      [vecEffect o.d (pushSlot s o.d) (BitVec.ofNat 4096 (f fun k => (nth s.here.ve.q o.a.qIx).getLsbD k)) allBits] 32)
  match i with
  | .vcmp o tl => some (maskRow s i o tl 2 fun k =>
      let a := at_ o tl .a o.a k
      let b := at_ o tl .b o.b k
      if o.et.isFloat then condFloat o.et.fmt { fpctl := s.here.cc.fpctl } o.sub.toNat a b
      else
        let x := elemInt o.et a
        let y := elemInt o.et b
        match o.sub.toNat with
        | 0 => x == y
        | 1 => x != y
        | 2 => decide (x < y)
        | 3 => decide (y ≤ x)
        | 4 => decide (x ≤ y)
        | 5 => decide (y < x)
        | _ => false)
  | .vtopk o tl =>
    let g := 2 ^ (o.sub.toNat % 16)
    if g ≤ o.et.lanes then
      some (maskRow s i o tl 16 fun k =>
        let key (j : Nat) : Int := rankKey o.et { fpctl := s.here.cc.fpctl } (at_ o tl .a o.a (k - k % g + j))
        let before (j : Nat) : Bool := decide (key (k % g) < key j) || (decide (key j = key (k % g)) && decide (j < k % g))
        decide (((List.range g).filter before).length < o.lit.toNat % 2048))
    else none
  | .qand o tl => masks o tl fun a b => a && b
  | .qor o tl => masks o tl fun a b => a || b
  | .qnot o tl => masks o tl fun a _ => !a
  | .qpop o tl => count o tl fun q => ((List.range o.et.lanes).filter q).length
  | .qfirst o tl => count o tl fun q => ((List.range o.et.lanes).find? q).getD o.et.lanes
  | _ => none

/-- A destination group of n registers, or a stream for n = 1: element m of the list is element m of the group (R145). -/
def groupRow (s : State) (i : Instr) (o : Op) (tl : Tail) (lat w n : Nat) (es : List Nat) : RecordRow :=
  vecRow s i o tl lat (groupEffects o.d (pushSlot s o.d) w n (s.here.governing o) es) w

/-- Widening operations, the dot product, conversion and packing (R145, R167 to R170). -/
def wideRow (s : State) (i : Instr) : Option RecordRow :=
  let widen (o : Op) (tl : Tail) (lat : Nat) (f : RoundCtx → Nat → Nat → Nat) : Option RecordRow :=
    let at_ (sel : LitSel) (x : Operand) := lane o.et.width (source s i o tl sel x o.et.width)
    some (groupRow s i o tl lat (ElemType.wide o.et).width 2
      ((List.range o.et.lanes).map fun k => f (roundAt s i o tl k) (at_ .a o.a k) (at_ .b o.b k)))
  let issue (o : Op) (tl : Tail) : Issue :=
    { q := sequencer s, r := iteration s i tl, slot := pushSlot s o.d, post := duePost o tl (sequencer s) (iteration s i tl) }
  match i with
  | .vwmul o tl => widen o tl (if o.et.isFloat then 4 else 3) fun c a b =>
      if o.et.isFloat then (ElemType.wide o.et).fmt.round c ((c.read o.et.fmt a).mul (c.read o.et.fmt b)).exact
      else lowBits (2 * o.et.width) (elemInt o.et a * elemInt o.et b)
  | .vwadd o tl => widen o tl (if o.et.isFloat then 4 else 2) fun c a b =>
      if o.et.isFloat then (ElemType.wide o.et).fmt.round c ((c.read o.et.fmt a).add (c.read o.et.fmt b))
      else lowBits (2 * o.et.width) (elemInt o.et a + elemInt o.et b)
  | .vdot4 o tl =>
    let a (k : Nat) : Int := elemInt o.et (lane 8 (source s i o tl .a o.a 8) k)
    let b (k : Nat) : Int := elemInt o.et (lane 8 (source s i o tl .b o.b 8) k)
    let c (k : Nat) : Int := readInt true 32 (lane 32 (source s i o tl .c o.c 32) k)
    let dot (k : Nat) : Int := c k + a (4 * k) * b (4 * k) + a (4 * k + 1) * b (4 * k + 1) + a (4 * k + 2) * b (4 * k + 2)
      + a (4 * k + 3) * b (4 * k + 3)
    some (vecDest s i o tl 4 32 (vecOfLanes 32 ((List.range 128).map fun k => narrow (o.mod = 8) true 32 (dot k))))
  | .vcvt o tl =>
    let st := ElemType.ofCode (o.sub.setWidth 4)
    let es := s.here.wideSource (issue o tl) o (max 1 (st.width / o.et.width)) st.width
    some (groupRow s i o tl 4 o.et.width (max 1 (o.et.width / st.width))
      (es.zipIdx.map fun p => convert o.et.valueType st.valueType (roundAt s i o tl p.2) p.1))
  | .vpack o tl =>
    let st := ElemType.ofCode (o.sub.setWidth 4)
    let es := (s.here.groupLanes o.a (st.width / o.et.width) st.width).map
      (({ fpctl := s.here.cc.fpctl } : RoundCtx).read st.fmt)
    let scale (j : Nat) : Nat := blockScale o.et.fmt ((es.drop (32 * j)).take 32)
    let out := es.zipIdx.map fun p => blockElem o.et.fmt st.fmt (scale (p.2 / 32)) (roundAt s i o tl p.2) p.1
    if es.length = o.et.lanes then
      some (vecRow s i o tl 4
        [vecEffect o.d (pushSlot s o.d) (vecOfLanes o.et.width out) (laneMask o.et.width (s.here.governing o) 0 1)
        , .vreg o.c.vIx (vecOfLanes 8 ((List.range (o.et.lanes / 32)).map scale)) allBits] o.et.width)
    else none
  | _ => none

/-- The value at place n of level g of a pairwise tree over leaves a. -/
def tree (f : Nat → Nat → Nat) (a : Nat → Nat) : Nat → Nat → Nat
  | 0, n => a n
  | g + 1, n => f (tree f a g (2 * n)) (tree f a g (2 * n + 1))

/-- The fold of a from the left over elements 0 to n. -/
def foldUpTo (f : Nat → Nat → Nat) (a : Nat → Nat) : Nat → Nat
  | 0 => a 0
  | n + 1 => f (foldUpTo f a n) (a (n + 1))

/-- The exact sum of the elements 0 to n - 1. -/
def sumBelow (a : Nat → Int) : Nat → Int
  | 0 => 0
  | n + 1 => sumBelow a n + a n

/-- Reductions and scans over groups of 2^g elements (R171 to R173): an integer sum is exact and narrowed once; every other
form joins neighbours level by level, or folds from the left, a NaN among the elements standing as the canonical one (R95). -/
def reduceRow (s : State) (i : Instr) : Option RecordRow :=
  let elem (o : Op) (tl : Tail) (k : Nat) : Nat :=
    let a := lane o.et.width (source s i o tl .a o.a o.et.width) k
    let flushed := (s.here.nodeRound o).flushIn o.et.fmt a
    if o.et.isFloat then (if o.et.fmt.value flushed = .nan then o.et.fmt.nan else flushed) else a
  match i with
  | .vred o tl =>
    let g := o.sub.toNat % 16
    let a := elem o tl
    if 2 ^ g ≤ o.et.lanes then
      some (vecDest s i o tl 10 o.et.width (vecOfLanes o.et.width ((List.range (o.et.lanes / 2 ^ g)).map fun n =>
        if exactSum o then narrow (o.mod = 8) o.et.isSigned o.et.width (sumBelow (fun j => elemInt o.et (a (2 ^ g * n + j))) (2 ^ g))
        else tree (reduceOp o (s.here.nodeRound o)) a g n)))
    else none
  | .vscan o tl =>
    let g := 2 ^ (o.sub.toNat % 16)
    let a := elem o tl
    some (vecDest s i o tl 12 o.et.width (byLane o.et fun k =>
      if exactSum o then
        narrow (o.mod = 8) o.et.isSigned o.et.width (sumBelow (fun j => elemInt o.et (a (k - k % g + j))) (k % g + 1))
      else foldUpTo (reduceOp o (s.here.nodeRound o)) (fun j => a (k - k % g + j)) (k % g)))
  | _ => none

/-- The scratchpad address of slot AGA in the iteration (R76). -/
def addressOf (s : State) (i : Instr) (o : Op) (tl : Tail) : Nat × Word := s.here.agAddr (iteration s i tl) tl o.et o.a

/-- The checks of a 512-byte access, in order: whole bytes, range, alignment, tags when TCHK asks (R76, R177, R179). -/
def accessCheck (s : State) (a : Nat × Word) (tags : Bool) : Option (BitVec 16 × Word) :=
  if a.1 ≠ 0 then some (0x0004, a.2)
  else if 0x200000 < a.2.toNat + 512 then some (0x0005, a.2)
  else if a.2.toNat % 64 ≠ 0 then some (0x0004, a.2)
  else if tags then
    ((List.range 8).find? fun k => !s.here.active.covers (a.2.toNat / 64 + k)).map fun k =>
      (0x0010, BitVec.ofNat 64 (a.2.toNat + 64 * k))
  else none

/-- Loads and stores of the vector engine (R177 to R179). -/
def blockRow (s : State) (i : Instr) : Option RecordRow :=
  let row (o : Op) (tl : Tail) (tags : Bool) (left : Nat) (es : List Effect) (smp : Option (Nat × Sample)) : Option RecordRow :=
    some { o, tail := tl, pops := streamsOf [o.b], push := o.d.stream, check := accessCheck s (addressOf s i o tl) tags
           results := [recordResult s i tl left es smp o.et.width] }
  let mask (o : Op) : Vec := laneMask o.et.width (s.here.governing o) 0 1
  match i with
  | .vld o tl => row o tl tl.ctl.tchk 6 []
      (some (2, .vld o.d (pushSlot s o.d) (addressOf s i o tl).2.toNat allBits (mask o)))
  | .vst o tl => row o tl tl.ctl.tchk 3 [.spBits (addressOf s i o tl).2.toNat (source s i o tl .b o.b o.et.width) (mask o)] none
  | .vldt o tl =>
    let a := (addressOf s i o tl).2.toNat
    let hit (k : Nat) : Bool := s.here.active.covers (a / 64 + k)
    row o tl false 6
      [.qreg o.c.qIx (maskOf ((List.range o.et.lanes).map fun k => hit (k * o.et.width / 512))) (BitVec.allOnes 1024)]
      (some (2, .vld o.d (pushSlot s o.d) a (vecOfLanes 512 ((List.range 8).map fun k => if hit k then 2 ^ 512 - 1 else 0)) (mask o)))
  | _ => none

/-! ### The matrix engine -/

/-- A row of the matrix engine. -/
def matrixRow (s : State) (i : Instr) : Option RecordRow :=
  let q := sequencer s
  let at_ (tl : Tail) : Running := iteration s i tl
  let result (tl : Tail) (left : Nat) (es : List Effect) (smp : Option (Nat × Sample) := none) : Result := recordResult s i tl left es smp
  let popped (x : Operand) : Vec :=
    match x.stream with
    | some k => (nth s.here.streams k).front
    | none => 0
  match i with
  | .mldw o tl =>
    let b := s.here.block q (at_ tl) tl o o.a 24 (o.lit.setWidth 16) (o.mod.getLsbD 0)
    let p := 1 - s.here.me.act
    let desc := o.et.code + (if o.mod.getLsbD 0 then 16 else 0) + s.here.edge o.sub 2 0 * 2 ^ 8 + s.here.edge o.sub 6 4 * 2 ^ 16
    some { o, tail := tl, agent := .me, check := s.here.blockTrap b tl.ctl.tchk, occ := 128
           results := result tl 1 [.planeDesc p (BitVec.ofNat 24 desc)]
             :: (List.finRange 128).map (fun k =>
                  result tl (k.val + 1) [] (some (k.val, .planeRow p k (b.addr.toNat + k.val * b.pitch) (16 * o.et.width))))
             ++ if o.mod.getLsbD 0 then [result tl 128 [] (some (127, .planeScales p (b.addr.toNat + 128 * b.pitch)))] else [] }
  | .mflip o tl => some { o, tail := tl, agent := .me, results := [result tl 1 [.actFlip]] }
  | .mrd o tl =>
    let a := accIx q (at_ tl) o.a
    let r : Fin 128 := Fin.ofNat 128 (o.lit.toNat + (at_ tl).l0)
    let row := nth (nth s.here.me.acc a) r
    let data := if o.et.width = 32 then row else byLane o.et fun k =>
      if k < 128 then convert o.et.valueType ElemType.f32.valueType (roundAt s i o tl k) (lane 32 row k) else 0
    some { o, tail := tl, agent := .me, push := o.d.stream
           results := (if o.sub.getLsbD 0 then [result tl 1 [.accRow a r 0 allBits]] else [])
             ++ [result tl 4 [vecEffect o.d (pushSlot s o.d) data allBits]] }
  | .mclr o tl =>
    some { o, tail := tl, agent := .me
           results := [result tl 1 [match o.d with
             | .plane p => .planeClear p
             | d => .accClear (accIx q (at_ tl) d)]] }
  | .mscMul o tl =>
    let a := accIx q (at_ tl) o.d
    some { o, tail := tl, agent := .me, pops := streamsOf [o.a]
           results := [result tl 1 [.accMul a ((List.finRange 128).map fun r => vecOfLanes 32 ((List.range 128).map fun k =>
             floatMul ElemType.f32.fmt (s.here.nodeRound o) (lane 32 (nth (nth s.here.me.acc a) r) k)
               (if o.a.stream.isSome then lane 32 (popped o.a) r.val else 0)))]] }
  | .mscLd o tl =>
    some { o, tail := tl, agent := .me, pops := streamsOf [o.a]
           results := [result tl 1
             [.accRow (accIx q (at_ tl) o.d) (Fin.ofNat 128 (o.lit.toNat + (at_ tl).l0)) (popped o.a) allBits]] }
  | .mstat o tl =>
    let m := s.here.me
    some { o, tail := tl, agent := .me, push := o.d.stream
           results := [result tl 1 [vecEffect o.d (pushSlot s o.d)
             (BitVec.ofNat 4096 (m.act.val + (nth m.planes 0).desc.toNat * 2 ^ 8 + (nth m.planes 1).desc.toNat * 2 ^ 32)) allBits]] }
  | _ => none

/-- An array step (R189 to R195): its stage predicate, its plane after its own predicated flip, its checks, its rows. -/
def stepRow (s : State) (i : Instr) : Option RecordRow :=
  let step (o : Op) (tl : Tail) (zero : Bool) : Option RecordRow :=
    let q := sequencer s
    let r := iteration s i tl
    let repeat_ := if o.et.width = 4 then 64 else if o.et.width = 8 then 128 else 256
    let flip := tl.ctl.spat.getLsbD (r.linear tl % (tl.ctl.slen.toNat + 1))
    let load := flip && o.b.isAg
    let p := if flip then 1 - s.here.me.act else s.here.me.act
    let desc := (nth s.here.me.planes p).desc
    let scaled := o.mod.getLsbD 0
    let a := s.here.block q r tl o o.a 0 (o.lit.setWidth 16) false
    let b := s.here.block q r tl o o.b 24 (o.lit.extractLsb' 16 16) scaled
    let shadow := 1 - p
    let info : StepInfo :=
      { et := o.et, pt := ElemType.ofCode (desc.setWidth 4), scaled, sat := o.mod = 8, zero
        kv := min (desc.toNat / 2 ^ 8 % 256) 128, nv := min (desc.toNat / 2 ^ 16) 128, plane := p, fpctl := s.here.cc.fpctl }
    let scales : Vec := match o.c.stream with
      | some k => (nth s.here.streams k).front
      | none => 0
    let enter (k : Nat) : Nat := k * repeat_ / 128
    let result (left : Nat) (es : List Effect) (smp : Option (Nat × Sample)) : Result := recordResult s i tl left es smp
    let loads : List Result := if load then
        result 1 [.planeDesc shadow (BitVec.ofNat 24 (o.et.code + (if scaled then 16 else 0) + 128 * 2 ^ 8 + 128 * 2 ^ 16))] none
          :: (List.finRange 128).map (fun k =>
               result (k.val + 1) [] (some (k.val, .planeRow shadow k (b.addr.toNat + k.val * b.pitch) (16 * o.et.width))))
          ++ if scaled then [result 128 [] (some (127, .planeScales shadow (b.addr.toNat + 128 * b.pitch)))] else []
      else []
    let rows : List Result := ((List.finRange 128).filter fun k => decide (k.val < s.here.edge o.sub 2 0)).map fun k =>
      result (enter k.val + 128) []
        (some (enter k.val, .stepRow (accIx q r o.d) k (a.addr.toNat + k.val * a.pitch) (scales.extractLsb' (32 * k.val) 32) info))
    some { o, tail := tl, agent := .me, pops := streamsOf [o.c], occ := if load then max repeat_ 128 else repeat_, flips := flip
           check := s.here.blockTrap a tl.ctl.tchk
             <|> (if load then s.here.blockTrap b tl.ctl.tchk else if o.b.isAg ∧ b.bits ≠ 0 then some (0x0004, b.addr) else none)
             <|> planeTrap o desc
           results := loads ++ rows ++ [result (enter 127 + 128) [] none] }
  match i with
  | .mstep o tl => step o tl false
  | .mstepz o tl => step o tl true
  | _ => none

end Sys2Proof.Claims

open Sys2Proof Sys2Proof.Machine

/-- R155 to R157, R180: every operation of the vector engine on elements at equal places but the shifts. Logs 16 and 79
name the model's choices here. -/
def Obligations.LaneOperationsComplete : Prop := Claims.RecordsComplete fun s i => Claims.laneRow (Claims.laneValue i) s i

/-- R162, R163: the shifts and the funnel shifts act on each element. -/
def Obligations.ShiftsComplete : Prop := Claims.RecordsComplete fun s i => Claims.laneRow (Claims.shiftValue i) s i

/-- R160, R164, R165, R176: logic, select, moves and permutations. -/
def Obligations.VectorMovesComplete : Prop := Claims.RecordsComplete Claims.wholeRow

/-- R159, R174, R175: compares, selection of the greatest, and masks. -/
def Obligations.MaskOperationsComplete : Prop := Claims.RecordsComplete Claims.predicateRow

/-- R167 to R170: widening, dot product, conversion, packing. Logs 36, 79 and 80 name the model's choices here. -/
def Obligations.WideningComplete : Prop := Claims.RecordsComplete Claims.wideRow

/-- R171 to R173: reductions and scans. Logs 36 and 87 name the model's choices here. -/
def Obligations.ReductionsComplete : Prop := Claims.RecordsComplete Claims.reduceRow

/-- R177 to R179: loads and stores of the vector engine. -/
def Obligations.VectorAccessesComplete : Prop := Claims.RecordsComplete Claims.blockRow

/-- R196 to R204: the matrix engine's operations beside its steps. Logs 36 and 79 name the model's choices here. -/
def Obligations.MatrixOperationsComplete : Prop := Claims.RecordsComplete Claims.matrixRow

/-- R189 to R195: array steps. Logs 36 and 37 name the model's choices here. -/
def Obligations.ArrayStepsComplete : Prop := Claims.RecordsComplete Claims.stepRow

namespace Sys2Proof.Claims

open Sys2Proof.Machine

/-! ### Requests of the control core -/

/-- What a request of a control-core operation is: fields, whether the checks of its rule hold, whether it is system-only
(R71), and what it asks for. -/
structure RequestRow where
  o      : Op
  good   : Bool := true
  system : Bool := false
  ask    : Ask

/-- The request as it leaves the tile: its due cycle is T + A, where A is LIT[15:0], at least 1 (R269), and its post goes with
it (R70). -/
def ccRequest (s : State) (r : RequestRow) : Req :=
  let arrival := max 1 (r.o.lit.toNat % 2 ^ 16)
  let fault : Option (BitVec 16 × Word) := match r.ask.kind with
    | .delay f => f
    | _ => none
  let stays : Bool := match r.ask.kind with
    | .delay _ => true
    | _ => false
  { id := s.nextReq, die := s.die, tile := s.tile, agent := .cc, level := s.here.cc.level, ctxid := s.here.cc.ctxid
    asid := s.here.cc.asid, issued := s.here.now, due := s.here.now + arrival, offs := BitVec.ofNat 16 arrival, kind := r.ask.kind
    d := r.ask.d, post := r.o.sp.map fun k => { k }, fpc := s.here.cc.pc, release := r.ask.release, acquire := r.ask.acquire
    seg := s.here.seg, pieces := r.ask.pieces, sampling := r.ask.sampling, operand := r.ask.operand, target := s.die
    stage := if stays then .landed else .issued, resp := { fault } }

/-- Global accesses, atomics beyond the tile, lists, pointer chasing and keys (R272 to R295). -/
def accessRow (s : State) (i : Instr) : Option RequestRow :=
  let x (p : Operand) : Word := xreg s (xix p)
  let group (p : Operand) (n : Nat) : List (Fin 32) := (List.range n).map fun k => Fin.ofNat 32 ((xix p).val + k)
  let aligned (a : Word) (n : Nat) : Bool := decide (a.toNat % n = 0)
  let piece (va : Word) (n : Nat) (write read : Bool) : Piece := { va, n, write, read }
  let load (o : Op) (acquire : Bool) : Option RequestRow :=
    let va := x o.a + x o.b
    some { o, good := aligned va o.et.memBytes
           ask := { kind := .load o.et va, arrival := 0, pieces := [piece va o.et.memBytes false true], d := [xix o.d], acquire } }
  let store (o : Op) (release : Option (BitVec 2)) : Option RequestRow :=
    let va := x o.a + x o.b
    some { o, good := aligned va o.et.memBytes
           ask := { kind := .store va (bytesOf o.et.memBytes (x o.c).toNat), arrival := 0
                    pieces := [piece va o.et.memBytes true false], release, closes := decide (release ≠ none) && decide (release ≠ some 0) } }
  let ordered (o : Op) (a : Ask) : Ask :=
    { a with acquire := o.sub.getLsbD 2, release := if o.sub.getLsbD 3 then some (o.sub.extractLsb' 4 2) else none
             closes := o.sub.getLsbD 3 && decide (o.sub.extractLsb' 4 2 ≠ 0) }
  let atom (o : Op) (d : List (Fin 32)) (k : AtomKind) : Option RequestRow :=
    if o.sub.getLsbD 0 then
      some { o, good := aligned (x o.a) k.size
             ask := ordered o { kind := .atom (x o.a) k, arrival := 0, pieces := [piece (x o.a) k.size true true], d } }
    else none
  let rmw (o : Op) (op : AtomOp) := atom o [xix o.d] (.rmw op (if o.et = .n32 then 32 else 64) (x o.b))
  let list (o : Op) (kind : ReqKind) (d : List (Fin 32)) : Option RequestRow :=
    some { o, good := aligned (x o.a) 32
           ask := ordered o { kind, arrival := 0, pieces := [piece (x o.a) (0x10000 - (x o.a).toNat % 0x10000) true true], d } }
  match i with
  | .ldg o => load o false
  | .ldacq o => load o true
  | .stg o => store o none
  | .strel o => store o (some (o.sub.extractLsb' 0 2))
  | .atomAdd o => rmw o .add
  | .atomMin o => rmw o .min
  | .atomMax o => rmw o .max
  | .atomMinn o => rmw o .minn
  | .atomMaxn o => rmw o .maxn
  | .atomAnd o => rmw o .and
  | .atomOr o => rmw o .or
  | .atomXor o => rmw o .xor
  | .atomSwap o => rmw o .swap
  | .cas o => atom o [xix o.d] (.cas (if o.et = .n32 then 32 else 64) (x o.b) (x o.c))
  | .cas2 o => atom o (group o.d 2) (.casN ((group o.b 2).map (xreg s)) ((group o.c 2).map (xreg s)))
  | .cas4 o => atom o (group o.d 4) (.casN ((group o.b 4).map (xreg s)) ((group o.c 4).map (xreg s)))
  | .lenq o => list o (.lenq (x o.a) (x o.b)) [xix o.d]
  | .ldeq o => list o (.ldeq (x o.a)) (group o.d 2)
  | .nchase o =>
    let control := (x o.b).toNat
    let link := !(x o.b).getLsbD 40
    let malformed : Bool := decide (2 ^ 41 ≤ control) || decide (control % 256 = 0) || decide (control / 2 ^ 24 % 2 ^ 16 % 8 ≠ 0)
      || decide (control / 2 ^ 8 % 2 ^ 16 % 8 ≠ 0)
    let first := x o.a + BitVec.ofNat 64 ((if link then control / 2 ^ 8 else control / 2 ^ 24) % 2 ^ 16)
    some { o, good := aligned (x o.a) 8
           ask := { kind := .nchase (x o.a) (x o.b) (x o.c) 0 link, arrival := 0, d := group o.d 2, acquire := o.sub.getLsbD 2
                    pieces := if malformed then [] else [piece first 8 true true] } }
  | .kcrust o =>
    some { o, good := aligned (x o.a) 256, ask := { kind := .kcrust (x o.a) (x o.b), arrival := 0, d := [xix o.d] } }
  | .ksel o =>
    let a := (x o.a).toNat
    some { o, good := aligned (x o.a) 64 && decide (a + 64 ≤ 0x200000)
           ask := { kind := .ksel o.et a, arrival := 0, d := [xix o.d], sampling := [(a, 64)] } }
  | _ => none

/-- Fences beyond the tile, barrier objects, supersteps and trigger counters (R275, R400 to R410). -/
def orderRow (s : State) (i : Instr) : Option RequestRow :=
  let x (p : Operand) : Word := xreg s (xix p)
  let barrier (o : Op) (kind : ReqKind) (d : List (Fin 32)) (acquire : Bool) : Option RequestRow :=
    some { o, good := decide ((x o.a).toNat % 16 = 0)
           ask := { kind, arrival := 0, pieces := [{ va := x o.a, n := 16, write := true, read := true }], d, acquire } }
  let counter (o : Op) (set : Bool) : Option RequestRow :=
    some { o, ask := { kind := .tcadd (x o.a) (x o.b) set, arrival := 0, d := [xix o.d], release := some 2, closes := true } }
  match i with
  | .fence o =>
    if o.sub.extractLsb' 0 2 = 0 then none
    else some { o, ask := { kind := .fence (o.sub.extractLsb' 0 2), arrival := 0, closes := true } }
  | .barinit o => barrier o (.barinit (x o.a) (x o.b)) [] false
  | .barexp o => barrier o (.barexp (x o.a) (x o.b)) [xix o.d] false
  | .barwait o => barrier o (.barwait (x o.a) (x o.b)) [xix o.d] true
  | .sstatBar o => some { o, ask := { kind := .sstatBar, arrival := 0, d := [xix o.d] } }
  | .sstatStg o => some { o, ask := { kind := .sstatStg, arrival := 0, d := [xix o.d] } }
  | .tcaddAdd o => counter o false
  | .tcaddSet o => counter o true
  | .tcrd o => some { o, ask := { kind := .tcrd (x o.a), arrival := 0, d := [xix o.d], acquire := true } }
  | _ => none

/-- Operations on tables, kill and context swap (R234, R351, R360 to R392). -/
def tableRow (s : State) (i : Instr) : Option RequestRow :=
  let x (p : Operand) : Word := xreg s (xix p)
  let plain (o : Op) (kind : ReqKind) : Option RequestRow := some { o, ask := { kind, arrival := 0, d := [xix o.d] } }
  let system (o : Op) (kind : ReqKind) : Option RequestRow := some { o, system := true, ask := { kind, arrival := 0, d := [xix o.d] } }
  let usable (a : Word) : Bool := decide (a.toNat % 64 = 0) && decide (a.toNat + 64 ≤ 0x200000)
  let records (o : Op) (kind : ReqKind) (recs : List Word) : Option RequestRow :=
    some { o, ask := { kind, arrival := 0, d := [xix o.d], sampling := (recs.filter usable).map fun a => (a.toNat, 64) } }
  let invalidate (o : Op) (what : BitVec 8) : Option RequestRow :=
    some { o, system := true
           ask := { kind := .tlbinv (x o.a) (x o.b) what, arrival := 0, d := [xix o.d], release := some 2, closes := true } }
  match i with
  | .lyc o => records o (.lyc (x o.a)) [x o.a]
  | .lyqBox o => records o (.lyq (x o.a) (x o.b) 0) [x o.a]
  | .lyqShard o => records o (.lyq (x o.a) (x o.b) 1) [x o.a]
  | .lyqNup o => records o (.lyq (x o.a) (x o.b) 2) [x o.a]
  | .lyqNdn o => records o (.lyq (x o.a) (x o.b) 3) [x o.a]
  | .tsldSlots o => plain o (.tsld (x o.a) false)
  | .tsldRed o => plain o (.tsld (x o.a) true)
  | .rtld o => system o (.rtld (x o.a) (x o.b))
  | .tlbinvPage o => invalidate o 0
  | .tlbinvAsid o => invalidate o 1
  | .tlbinvAll o => invalidate o 2
  | .atw o => system o (.atw (x o.a) (x o.b) (x o.c))
  | .ditwFill o => system o (.ditw (x o.a) (x o.b) false)
  | .ditwLoad o => system o (.ditw (x o.a) (x o.b) true)
  | .fcolLoad o => plain o (.fcolLoad (x o.a) (x o.b))
  | .fcolRun o => plain o (.fcolRun (x o.a) (x o.b))
  | .ftrigArm o =>
    let adds := decide (s.triggerAct (x o.b) = some 2)
    some { o, ask := { kind := .ftrigArm (x o.a) (x o.b), arrival := 0, d := [xix o.d], closes := adds
                       release := if adds then some 2 else none } }
  | .ftrigDisarm o => plain o (.ftrigDisarm (x o.a))
  | .ftrigQuery o => plain o (.ftrigQuery (x o.a))
  | .rshd o => records o (.rshd (x o.a) (x o.b) (x o.c)) [x o.a, x o.b]
  | .rshqTotal o => records o (.rshq (x o.a) (x o.b) false) [x o.a, x o.b]
  | .rshqPairs o => records o (.rshq (x o.a) (x o.b) true) [x o.a, x o.b]
  | .kill o => system o (.kill (x o.a))
  | .ctxswOut o => system o (.ctxsw (x o.a) (x o.b) 0)
  | .ctxswIn o => system o (.ctxsw (x o.a) (x o.b) 1)
  | .ctxswXchg o => system o (.ctxsw (x o.a) (x o.b) 2)
  | .ctxswSpill o => system o (.ctxsw (x o.a) (x o.b) 3)
  | _ => none

/-- The segment that a close leads to. -/
def segAfter (s : State) (closes : Bool) : BitVec 32 := if closes then s.here.seg + 1 else s.here.seg

/-- Every operation of a table makes its request, appended to those in flight, when its wait is granted, its checks hold, it
is at a level that may issue it, and a segment that it closes may be closed (R312). -/
def RequestsComplete (row : State → Instr → Option RequestRow) : Prop :=
  ∀ i r s, row s i = some r → r.good = true → Granted r.o s → (r.system = true → s.here.cc.level = .system) →
    (r.ask.closes = true → (s.here.seg - s.here.sfloor).toNat < 1023) →
    ∃ t, exec i s = .next t ∧ CcIssued r.o s t (nextWord s) ∧ t.here.flight = s.here.flight ∧
      t.reqs = s.reqs ++ [ccRequest s r] ∧ t.nextReq = s.nextReq + 1 ∧ t.here.seg = segAfter s r.ask.closes

/-! ### Copy records -/

/-- The records of the copy engines: fields, pair, and whether only the store engine decodes it (R340 to R345). -/
def copyRow (i : Instr) : Option (Op × Tail × Cmd) :=
  match i with
  | .cpy o tl => some (o, tl, ⟨0xA0, 0⟩)
  | .cpyt o tl => some (o, tl, ⟨0xA0, 1⟩)
  | .cpyg o tl => some (o, tl, ⟨0xA0, 2⟩)
  | .cpys o tl => some (o, tl, ⟨0xA0, 3⟩)
  | .cpyx o tl => some (o, tl, ⟨0xA0, 4⟩)
  | .cpyw o tl => some (o, tl, ⟨0xA0, 5⟩)
  | .putsig o tl => some (o, tl, ⟨0xA8, 0⟩)
  | .cred o tl => some (o, tl, ⟨0xA8, 1⟩)
  | .strm o tl => some (o, tl, ⟨0xAC, 0⟩)
  | .strmq o tl => some (o, tl, ⟨0xAC, 1⟩)
  | .halo o tl => some (o, tl, ⟨0xB0, 0⟩)
  | .kgath o tl => some (o, tl, ⟨0xB0, 1⟩)
  | _ => none

/-- The iteration with what the record's first iteration fixes (R335). -/
def copyIteration (s : State) (i : Instr) (o : Op) (tl : Tail) (c : Cmd) : Running :=
  let r := iteration s i tl
  if r.began then r
  else { r with copy := if c.isKgath then s.fixKgath o tl r (s.here.fixCopy c o s.nextReq) else s.here.fixCopy c o s.nextReq }

/-- The streams of the iteration: SE pops field A's, LE pushes field D's (R333). -/
def copyPops (s : State) (o : Op) : List (Fin 8) := if s.agent = .se then streamsOf [o.a] else []
def copyPush (s : State) (o : Op) : Option (Fin 8) := if s.agent = .le then o.d.stream else none

/-- The item of the iteration, with the bytes that it takes from the tile in its issue cycle (R315, R335). -/
def itemOf (s : State) (i : Instr) (o : Op) (tl : Tail) (c : Cmd) : CopyItem :=
  let x := s.copyItem c o tl (copyIteration s i o tl c) (match copyPush s o with
    | some k => (nth s.here.streams k).tail
    | none => 0)
  match o.a with
  | .s k => { x with data := bytesOf 512 (nth s.here.streams k).front.toNat }
  | _ =>
    if x.fromSp = false then x
    else if x.indexVa.isSome then { x with rows := some s.here.active.bytes }
    else { x with data := x.sourceCells s.here.active.bytes (x.index.getD 0) }

/-- The due cycle of what an iteration issues: T + A, with the slot's cycle for T where the iteration has one (R346, R369). -/
def itemDue (s : State) (o : Op) : Nat :=
  max (s.here.now + 1) ((s.slotCycle s.agent).getD s.here.now + max 1 (o.lit.toNat % 2 ^ 16))

/-- An active iteration that makes an item: nothing holds it back. -/
structure CopyMay (s : State) (i : Instr) (o : Op) (tl : Tail) (c : Cmd) : Prop where
  agent  : s.agent = .le ∨ s.agent = .se
  free   : (sequencer s).held = false
  active : (copyIteration s i o tl c).idle tl = false
  alive  : (copyIteration s i o tl c).copy.dead = false
  check  : s.copyCheck (s.copyItem c o tl (copyIteration s i o tl c) 0) (copyIteration s i o tl c) tl = none
  room   : s.subQueue s.die s.tile s.agent o.cls < 32
  wait   : ∀ k, dueWait o tl (sequencer s) (copyIteration s i o tl c) = some k → 1 ≤ (nth s.here.sems k).count.toNat
  pops   : ∀ k ∈ copyPops s o, (nth s.here.streams k).readable = true
  push   : ∀ k, copyPush s o = some k → (nth s.here.streams k).writable = true
  close  : c.isPutsig = true → (copyIteration s i o tl c).last tl = true → (s.here.seg - s.here.sfloor).toNat < 1023

/-- The request of an item. -/
def itemRequest (s : State) (i : Instr) (o : Op) (tl : Tail) (c : Cmd) : Req :=
  let r := copyIteration s i o tl c
  let x := itemOf s i o tl c
  let arrival := max 1 (o.lit.toNat % 2 ^ 16)
  { id := s.nextReq, die := s.die, tile := s.tile, agent := s.agent, level := s.here.cc.level, ctxid := s.here.cc.ctxid
    asid := s.here.cc.asid, issued := s.here.now, due := itemDue s o, offs := BitVec.ofNat 16 arrival, kind := .copy x
    post := duePost o tl (sequencer s) r, fpc := BitVec.ofNat 64 r.off, fidx := r.fidx, seg := s.here.seg, target := s.die
    pieces := if x.indexVa.isSome then [] else x.pieces (x.index.getD 0) }

/-- The flag update that follows the last item of putsig (R344), as request n: a release at scope part of the segment that it closes. -/
def signalRequest (s : State) (i : Instr) (o : Op) (tl : Tail) (c : Cmd) (n : Nat) : List Req :=
  let r := copyIteration s i o tl c
  let arrival := max 1 (o.lit.toNat % 2 ^ 16)
  match (if c.isPutsig && r.last tl then r.copy.block else none) with
  | none => []
  | some b =>
    let va := BitVec.ofNat 64 (field b 32 8)
    [{ id := n, die := s.die, tile := s.tile, agent := s.agent, level := s.here.cc.level, ctxid := s.here.cc.ctxid
       asid := s.here.cc.asid, issued := s.here.now, due := itemDue s o, offs := BitVec.ofNat 16 arrival
       kind := .signal (r.copy.run.getD 0) r.off r.copy.off (r.linear tl) va (BitVec.ofNat 64 (field b 40 8)) (field b 24 4 == 1)
       release := some 2, seg := s.here.seg, pieces := [{ va, n := 8, write := true, read := false }], target := s.die }]

/-- The STATUS of the command block becomes zero in the cycle of the record's first iteration (R337). -/
def statusZero (s : State) (i : Instr) (o : Op) (tl : Tail) (c : Cmd) : List Result :=
  let r := copyIteration s i o tl c
  if (iteration s i tl).began = false ∧ r.copy.block.isSome then
    [{ agent := s.agent, left := 1, issued := s.here.now, effects := [.sp r.copy.off (List.replicate 16 0)] }]
  else []

end Sys2Proof.Claims

open Sys2Proof Sys2Proof.Machine

/-- R272 to R295: operations on memory beyond the tile make their request. Log 19 names the model's choices here. -/
def Obligations.AccessRequestsComplete : Prop := Claims.RequestsComplete Claims.accessRow

/-- R275, R400 to R410: fences, barrier objects, stage counts and trigger counters make their request. -/
def Obligations.OrderRequestsComplete : Prop := Claims.RequestsComplete Claims.orderRow

/-- R234, R351, R360 to R392: operations on tables, kill and context swap make their request. Logs 19, 23 and
52 name the model's choices here. -/
def Obligations.TableRequestsComplete : Prop := Claims.RequestsComplete Claims.tableRow

/-- R335 to R345: an active iteration of a copy record makes its item, with the flag update after the last item of putsig. Logs 13, 19 and 27 name the model's choices here. -/
def Obligations.CopyItemsComplete : Prop :=
  ∀ i o tl c s, Claims.copyRow i = some (o, tl, c) → Claims.CopyMay s i o tl c →
    ∃ t, exec i s = .next t ∧ Claims.OnlyHere s t ∧ Claims.SameMemory s t ∧
      t.reqs = s.reqs ++ Claims.itemRequest s i o tl c :: Claims.signalRequest s i o tl c (s.nextReq + 1) ∧
      t.nextReq = s.nextReq + 1 + (Claims.signalRequest s i o tl c (s.nextReq + 1)).length ∧
      t.here = { s.here with
        sems := (match dueWait o tl (Claims.sequencer s) (Claims.copyIteration s i o tl c) with
          | some k => upd s.here.sems k { nth s.here.sems k with count := (nth s.here.sems k).count - 1 }
          | none => s.here.sems)
        streams := Claims.streamsAfter { o, tail := tl, pops := Claims.copyPops s o, push := Claims.copyPush s o, results := [] } s
        seqs := upd s.here.seqs s.agent.seqIx ((Claims.sequencer s).issued (Claims.copyIteration s i o tl c) tl
          (max 1 (((Claims.itemOf s i o tl c).bytes + 511) / 512)))
        flight := s.here.flight ++ Claims.statusZero s i o tl c
        seg := Claims.segAfter s (!(Claims.signalRequest s i o tl c (s.nextReq + 1)).isEmpty)
        phase := t.here.phase, activity := t.here.activity }

/-- R346: csched answers 3 on a tile that is no participant, 2 for a segment that it does not accept, 1 while another one
stands, and else 0, and only then the engine holds the segment from the next cycle on. Log 22 names the model's choices here. -/
def Sys2Proof.Claims.ScheduleCompletes : Prop :=
  ∀ o s, Claims.Granted o s →
    let off := Claims.xreg s (Claims.xix o.a)
    let count := Claims.xreg s (Claims.xix o.b)
    let q := nth s.here.seqs (engineOf o).seqIx
    let status : Word :=
      if (s.here.task.map (·.ssp)).getD false = false then 3
      else if s.here.schedulable (engineOf o) off count = false then 2
      else if q.sched.isSome then 1
      else 0
    ∃ t, exec (.csched o) s = .next t ∧ Claims.OnlyHere s t ∧ Claims.SameMemory s t ∧
      t.reqs = s.reqs ++ [Claims.ccRequest s { o, ask := { kind := .csched status, arrival := 0, d := [Claims.xix o.d] } }] ∧
      t.nextReq = s.nextReq + 1 ∧
      t.here = { s.here with
        cc := { s.here.cc with pc := Claims.nextWord s, wfeBack := none }, sems := Claims.waited o s, stalled := none
        seqs := if status = 0 then upd s.here.seqs (engineOf o).seqIx { q with sched := some { off := off.toNat, count := count.toNat } }
          else s.here.seqs
        fetch := t.here.fetch, phase := t.here.phase, activity := t.here.activity }

/-- R404, R405: ssync of a participant begins its communication phase at T + A unless one is open, when it asks for the
due-cycle trap; on another tile it is a delay. It closes the segment. -/
def Sys2Proof.Claims.SuperstepCompletes : Prop :=
  ∀ o s, Claims.Granted o s → (s.here.seg - s.here.sfloor).toNat < 1023 →
    let part := (s.here.task.map (·.ssp)).getD false
    let arrives := part && s.here.super.isNone
    let kind : ReqKind := if arrives then .ssync else .delay (if part then some (0x0014, 0x10000) else none)
    ∃ t, exec (.ssync o) s = .next t ∧ Claims.OnlyHere s t ∧ Claims.SameMemory s t ∧
      t.reqs = s.reqs ++ [Claims.ccRequest s
        { o, ask := { kind, arrival := 0, release := if arrives then some 2 else none, closes := true } }] ∧
      t.nextReq = s.nextReq + 1 ∧
      t.here = { s.here with
        cc := { s.here.cc with pc := Claims.nextWord s, wfeBack := none }, sems := Claims.waited o s, stalled := none
        super := if arrives then some { s := s.here.now + max 1 (o.lit.toNat % 2 ^ 16) } else s.here.super
        seg := s.here.seg + 1, fetch := t.here.fetch, phase := t.here.phase, activity := t.here.activity }

/-- The operations of scheduled segments and of supersteps complete. -/
def Obligations.SchedulesComplete : Prop :=
  Claims.ScheduleCompletes ∧ Claims.SuperstepCompletes

namespace Sys2Proof.Claims

open Sys2Proof.Machine

/-! ### Semaphores, loops and stages in the sequencers -/

/-- kwait, kpost, loop, endloop and cstep as records (R79, R347, R397, R407): their SW and SP are zero but for cstep. -/
def controlRow (s : State) (i : Instr) : Option RecordRow :=
  let q := sequencer s
  let nothing (tl : Tail) : List Result := [recordResult s i tl 1 []]
  match i with
  | .kwait o (some tl) => if o.sw = none ∧ o.sp = none then
      some { o, tail := tl, agent := s.agent, results := nothing tl, takes := some (Operand.kIx o.a, o.sub.toNat)
             handshake := true } else none
  | .kpost o (some tl) => if o.sw = none ∧ o.sp = none then
      some { o, tail := tl, agent := s.agent, results := nothing tl, posts := some { k := Operand.kIx o.a, n := o.sub }
             handshake := true } else none
  | .loop o tl =>
    some { o, tail := { tl with t0 := 0 }, agent := s.agent, results := nothing tl
           seq := fun q1 => { q1 with loops := { first := q.idx + 1, trips := tl.t0.toNat, index := 0 } :: q1.loops } }
  | .endloop o tl =>
    some { o, tail := tl, agent := s.agent, results := nothing tl
           seq := fun q1 =>
             match q.loops with
             | [] => q1
             | l :: more =>
               if l.index + 1 < l.trips then
                 { q with gap := 1, stalled := none, cur := none, idx := l.first, loops := { l with index := l.index + 1 } :: more }
               else { q1 with loops := if q1.loops.isEmpty then [] else more } }
  | .cstep o tl =>
    if q.stg = 255 then none else some { o, tail := tl, agent := s.agent, results := [recordResult s i tl 1 [.stage s.agent]] }
  | _ => none

/-! ### Idle iterations -/

/-- The tables of the vector and matrix engines, and the semaphore and stage records, together (loops have no idle iterations:
their tails enable no valid count, R79). -/
def engineRow (s : State) (i : Instr) : Option RecordRow :=
  laneRow (laneValue i) s i <|> laneRow (shiftValue i) s i <|> wholeRow s i <|> predicateRow s i <|> wideRow s i <|> reduceRow s i
    <|> blockRow s i <|> matrixRow s i <|> stepRow s i <|> match i with
      | .cstep .. => controlRow s i
      | _ => none

/-- The iteration is idle and its wait is granted: its checks and streams do not count (R58). -/
structure IdleMay (row : RecordRow) (i : Instr) (s : State) : Prop where
  agent : s.agent = row.agent
  idle  : (iteration s i row.tail).idle row.tail = true
  wait  : ∀ k, dueWait row.o row.tail (sequencer s) (iteration s i row.tail) = some k → 1 ≤ (nth s.here.sems k).count.toNat

/-- The idle iteration has issued: its wait is made, its post is made when the last result of an active one would be written, its
sequencer has gone on as after an active one; nothing else changes, energy drawn included (R58). -/
structure IdleIssued (row : RecordRow) (i : Instr) (s t : State) : Prop where
  here    : OnlyHere s t
  memory  : SameMemory s t
  reqs    : t.reqs = s.reqs
  nextReq : t.nextReq = s.nextReq
  tile    : t.here = { s.here with
    sems := semsAfter row i s
    seqs := upd s.here.seqs s.agent.seqIx ((sequencer s).issued (iteration s i row.tail) row.tail row.occ)
    flight := s.here.flight ++ ((duePost row.o row.tail (sequencer s) (iteration s i row.tail)).map fun p =>
      { recordResult s i row.tail ((row.results.map (·.left)).foldl max 1) [] with post := some p }).toList
    phase := t.here.phase }

/-- An idle iteration of a copy record whose wait is granted. -/
structure CopyIdle (s : State) (i : Instr) (o : Op) (tl : Tail) (c : Cmd) : Prop where
  agent : s.agent = .le ∨ s.agent = .se
  free  : (sequencer s).held = false
  idle  : (copyIteration s i o tl c).idle tl = true
  alive : (copyIteration s i o tl c).copy.dead = false
  wait  : ∀ k, dueWait o tl (sequencer s) (copyIteration s i o tl c) = some k → 1 ≤ (nth s.here.sems k).count.toNat
  close : c.isPutsig = true → (copyIteration s i o tl c).last tl = true → (s.here.seg - s.here.sfloor).toNat < 1023

/-- The post of an idle iteration of a copy record, which is made in the due cycle that its item would have. -/
def idlePosting (s : State) (i : Instr) (o : Op) (tl : Tail) (c : Cmd) : List Req :=
  let r := copyIteration s i o tl c
  ((duePost o tl (sequencer s) r).map fun p =>
    { id := s.nextReq, die := s.die, tile := s.tile, agent := s.agent, level := s.here.cc.level, ctxid := s.here.cc.ctxid
      asid := s.here.cc.asid, issued := s.here.now, due := itemDue s o, offs := BitVec.ofNat 16 (itemDue s o - s.here.now)
      kind := .delay none, post := some p, fpc := BitVec.ofNat 64 r.off, fidx := r.fidx, seg := s.here.seg, target := s.die
      stage := .landed }).toList

/-! ### Precise traps -/

/-- The failure of reading the stop record of the moving tile back, if a sector of it is poisoned (R250). -/
def poisonOf (s : State) : Option Failed :=
  (s.hereDie.findCtx s.here.cc.ctxid).bind fun q => s.recordPoison s.die s.tile (s.ctxAt s.die q).entry

/-- The fields of an operation of the control core. -/
def coreOp : Instr → Option Op
  | .add o | .sub o | .and o | .or o | .xor o | .andn o | .sll o | .srl o | .sra o | .rotl o | .min o | .max o | .minn o | .maxn o
  | .mul o | .mulh o | .mulhn o | .div o | .divn o | .rem o | .remn o | .clz o | .ctz o | .popc o | .sel o | .cmp o | .li o | .lih o
  | .lea o | .fadd o | .fsub o | .fmul o | .fdiv o | .fsqrt o | .ffma o | .fmin o | .fmax o | .fcmp o | .fcvt o | .pbr o | .pbrReg o
  | .bcc o | .jal o | .jalr o | .ld o | .st o | .ldl o | .enq o | .wrg o | .wrn o | .nst o | .mgo o | .rdsr o | .wrsr o | .trapEnd o
  | .trapSys o | .trapBrk o | .eret o | .wfe o | .csched o | .fcolLoad o | .fcolRun o | .ftrigArm o | .ftrigDisarm o | .ftrigQuery o
  | .rshd o | .rshqTotal o | .rshqPairs o | .kill o | .ldg o | .stg o | .ldacq o | .strel o | .atomAdd o | .atomMin o | .atomMax o
  | .atomMinn o | .atomMaxn o | .atomAnd o | .atomOr o | .atomXor o | .atomSwap o | .cas o | .cas2 o | .cas4 o | .lenq o | .ldeq o
  | .nchase o | .tlk o | .tins o | .tinvOne o | .tinvAll o | .tinvTag o | .ksel o | .kcrust o | .fence o | .kset o | .ksetReg o
  | .kwait o none | .kpost o none | .barinit o | .barexp o | .barwait o | .ssync o | .sstatBar o | .sstatStg o | .tcaddAdd o
  | .tcaddSet o | .tcrd o | .lyc o | .lyqBox o | .lyqShard o | .lyqNup o | .lyqNdn o | .tsldSlots o | .tsldRed o | .rtld o
  | .tlbinvPage o | .tlbinvAsid o | .tlbinvAll o | .atw o | .ditwFill o | .ditwLoad o | .ctxswOut o | .ctxswIn o | .ctxswXchg o
  | .ctxswSpill o => some o
  | _ => none

/-- Operations that only the system level may issue (R71). -/
def systemOp : Instr → Bool
  | .eret _ | .kill _ | .rtld _ | .tlbinvPage _ | .tlbinvAsid _ | .tlbinvAll _ | .atw _ | .ditwFill _ | .ditwLoad _
  | .ctxswOut _ | .ctxswIn _ | .ctxswXchg _ | .ctxswSpill _ => true
  | _ => false

/-- Operations of the control core that take a precise trap: fields, cause and value (R72, R117, R125, R129, R130, R133, R271,
R278, R397). -/
def trapRow (s : State) (i : Instr) : Option (Op × BitVec 16 × Word) :=
  let x (p : Operand) : Word := xreg s (xix p)
  let task := decide (s.here.cc.level = .task)
  let privilege (o : Op) (maj fn : Nat) : Option (Op × BitVec 16 × Word) :=
    if task then some (o, 0x0003, BitVec.ofNat 64 (fn * 256 + maj)) else none
  let scratch (o : Op) (fn : Nat) : Option (Op × BitVec 16 × Word) :=
    let a := x o.a + BitVec.ofInt 64 o.lit.toInt
    if 0x400000 ≤ a.toNat then some (o, 0x0005, a)
    else if 0x200000 ≤ a.toNat && task then some (o, 0x0003, BitVec.ofNat 64 (fn * 256 + 0x28))
    else if a.toNat % o.et.memBytes ≠ 0 then some (o, 0x0004, a)
    else none
  let aligned (o : Op) (a : Word) (n : Nat) : Option (Op × BitVec 16 × Word) := if a.toNat % n ≠ 0 then some (o, 0x0004, a) else none
  let branch (o : Op) (t : Word) : Option (Op × BitVec 16 × Word) :=
    if t.toNat % 16 = 0 ∧ t.toNat < 2 ^ 56 then none else some (o, 0x0006, t)
  let entry (o : Op) (e : Word) : Option (Op × BitVec 16 × Word) := if 1024 ≤ e.toNat then some (o, 0x0005, e) else none
  let atom (o : Op) (n : Nat) : Option (Op × BitVec 16 × Word) :=
    if o.sub.getLsbD 0 = false ∧ 0x200000 < (x o.a).toNat + n then some (o, 0x0005, x o.a) else aligned o (x o.a) n
  let semaphore (o : Op) (v : Nat) : Option (Op × BitVec 16 × Word) :=
    let k := (Operand.kIx o.d).val
    if v / 2 ^ 8 % 2 ^ 8 < v % 2 ^ 8 then some (o, 0x000B, BitVec.ofNat 64 (k + 2 ^ 16 * 2 ^ k)) else none
  match i with
  | .ld o => scratch o 0
  | .st o => scratch o 1
  | .ldl o =>
    let a := x o.a + BitVec.ofInt 64 o.lit.toInt
    if s.here.slotSize (slotIx o) < a.toNat + o.et.memBytes then
      some (o, 0x000A, BitVec.ofNat 64 ((slotIx o).val * 2 ^ 60 + a.toNat % 2 ^ 60))
    else aligned o a o.et.memBytes
  | .ldg o => aligned o (x o.a + x o.b) o.et.memBytes
  | .stg o => aligned o (x o.a + x o.b) o.et.memBytes
  | .ldacq o => aligned o (x o.a + x o.b) o.et.memBytes
  | .strel o => aligned o (x o.a + x o.b) o.et.memBytes
  | .atomAdd o => atom o (if o.et = .n32 then 4 else 8)
  | .atomMin o => atom o (if o.et = .n32 then 4 else 8)
  | .atomMax o => atom o (if o.et = .n32 then 4 else 8)
  | .atomMinn o => atom o (if o.et = .n32 then 4 else 8)
  | .atomMaxn o => atom o (if o.et = .n32 then 4 else 8)
  | .atomAnd o => atom o (if o.et = .n32 then 4 else 8)
  | .atomOr o => atom o (if o.et = .n32 then 4 else 8)
  | .atomXor o => atom o (if o.et = .n32 then 4 else 8)
  | .atomSwap o => atom o (if o.et = .n32 then 4 else 8)
  | .cas o => atom o (if o.et = .n32 then 4 else 8)
  | .cas2 o => atom o 16
  | .cas4 o => atom o 32
  | .lenq o => aligned o (x o.a) 32
  | .ldeq o => aligned o (x o.a) 32
  | .ksel o => if (x o.a).toNat % 64 = 0 ∧ 0x200000 < (x o.a).toNat + 64 then some (o, 0x0005, x o.a) else aligned o (x o.a) 64
  | .nchase o => aligned o (x o.a) 8
  | .kcrust o => aligned o (x o.a) 256
  | .barinit o => aligned o (x o.a) 16
  | .barexp o => aligned o (x o.a) 16
  | .barwait o => aligned o (x o.a) 16
  | .bcc o => if o.sub = 15 ∨ condition o.sub.toNat (xreg s (xix o.b)) 0 then branch o (nth s.here.cc.b (bIx o.a)) else none
  | .jal o => branch o (s.here.cc.pc + BitVec.ofInt 64 o.lit.toInt)
  | .jalr o => branch o (nth s.here.cc.b (bIx o.a))
  | .tins o =>
    let v := x o.c
    if (operand o s .a o.a).toNat < 1024 ∧ ¬(v.toNat % 2 ^ 16 < 2 ^ 15 ∧ v.toNat / 2 ^ 16 ≤ 32768) then some (o, 0x0005, v)
    else entry o (operand o s .a o.a)
  | .tinvOne o => entry o (operand o s .a o.a)
  | .kset o => semaphore o o.lit.toNat
  | .ksetReg o => semaphore o (x o.a).toNat
  | .rdsr o => if 8 ≤ o.sub.toNat then privilege o 0x38 0 else none
  | .wrsr o => if 2 ≤ o.sub.toNat then privilege o 0x38 1 else none
  | .eret o =>
    let resumes := decide (s.here.cc.trap.tstat.toNat / 8 % 2 = 1) && decide (s.here.cc.trap.tstat.toNat / 16 % 4 ≤ 1)
    privilege o 0x38 3 <|> if resumes then (poisonOf s).map fun f => (o, f.1, f.2) else none
  | .kill o => privilege o 0xBC 0
  | .rtld o => privilege o 0xE2 1
  | .tlbinvPage o => privilege o 0xE4 0
  | .tlbinvAsid o => privilege o 0xE4 0
  | .tlbinvAll o => privilege o 0xE4 0
  | .atw o => privilege o 0xE4 1
  | .ditwFill o => privilege o 0xE4 2
  | .ditwLoad o => privilege o 0xE4 2
  | .ctxswOut o => privilege o 0xE4 3
  | .ctxswIn o => privilege o 0xE4 3
  | .ctxswXchg o => privilege o 0xE4 3
  | .ctxswSpill o => privilege o 0xE4 3
  | .enq o =>
    let off := operand o s .a o.a
    let count := operand o s .b o.b
    let major (k : Nat) : Nat := (s.here.active.bytes.read (off.toNat + 64 * k)).toNat
    if 32 ≤ (nth s.here.seqs (engineOf o).seqIx).entries.length then none
    else if count = 0 ∨ 256 < count.toNat ∨ off.toNat % 64 ≠ 0 ∨ 0x200000 < off.toNat + 64 * count.toNat then
      some (o, 0x0007, BitVec.ofNat 64 (off.toNat % 2 ^ 48 * 2 ^ 16 + count.toNat % 2 ^ 16))
    else
      ((List.range count.toNat).find? fun k => !(majorsOf (engineOf o)).contains (major k)).map fun k =>
        (o, 0x0002, BitVec.ofNat 64 (major k * 2 ^ 16 + k))
  | _ => none

/-- A trap of the control core, as it waits for the entry of its handler. -/
def ccTrap (s : State) (code : BitVec 16) (value : Word) : Trap :=
  { code, value, kind := .precise, agent := some .cc, fpc := s.here.cc.pc }

/-- The stop of an interrupt or a die loss, if one stands, is withdrawn, and the request is held again (R223). -/
def withdrawn (t : Tile) : Tile :=
  match t.stop with
  | some (_, .handler y) =>
    if y.kind ≠ .asynchronous then t
    else if y.code = 0x0040 then { t with stop := none, irq := if t.irq.isSome then t.irq else some y.value }
    else { t with stop := none, dieLost := y.value.setWidth 12 :: t.dieLost, lossHeld := true }
  | _ => t

/-- A handler can be entered: it is nested less than two deep and TVEC.ADDR is not 0 (R213, R214). -/
def Handled (s : State) : Prop := s.here.cc.trap.tstat.toNat / 16 % 4 ≠ 2 ∧ s.here.cc.trap.tvec.toNat / 16 % 2 ^ 52 ≠ 0

end Sys2Proof.Claims

open Sys2Proof Sys2Proof.Machine

/-- R79, R347, R397, R407: the records of semaphores, loops and stages. -/
def Obligations.ControlRecordsComplete : Prop := Claims.RecordsComplete Claims.controlRow

/-- R57, R58, R335, R337, R344: an idle iteration of a record takes the time of an active one, makes its wait and its post, and does
nothing else; of a copy record it makes no item, while the STATUS of the record's command block is still zeroed in its first
iteration and the flag update of putsig still follows its last. Logs 13 and 75 name the model's choices here. -/
def Obligations.IdleIterationsIssue : Prop :=
  (∀ i r s, Claims.engineRow s i = some r → Claims.IdleMay r i s → ∃ t, exec i s = .next t ∧ Claims.IdleIssued r i s t) ∧
  ∀ i o tl c s, Claims.copyRow i = some (o, tl, c) → Claims.CopyIdle s i o tl c →
    let posting := Claims.idlePosting s i o tl c
    let signal := Claims.signalRequest s i o tl c (s.nextReq + posting.length)
    ∃ t, exec i s = .next t ∧ Claims.OnlyHere s t ∧ Claims.SameMemory s t ∧
      t.reqs = s.reqs ++ posting ++ signal ∧ t.nextReq = s.nextReq + posting.length + signal.length ∧
      t.here = { s.here with
        sems := (match dueWait o tl (Claims.sequencer s) (Claims.copyIteration s i o tl c) with
          | some k => upd s.here.sems k { nth s.here.sems k with count := (nth s.here.sems k).count - 1 }
          | none => s.here.sems)
        seqs := upd s.here.seqs s.agent.seqIx ((Claims.sequencer s).issued (Claims.copyIteration s i o tl c) tl
          (max 1 (((Claims.itemOf s i o tl c).bytes + 511) / 512)))
        flight := s.here.flight ++ Claims.statusZero s i o tl c
        seg := Claims.segAfter s (!signal.isEmpty)
        phase := t.here.phase }

/-- R137, R140, R275, R397: trap end, wfe, fence at scope tile, and kwait and kpost of the control core. Logs 10 and 34 name the model's choices here. -/
def Obligations.CoreControlCompletes : Prop :=
  ∀ (o : Op) (s : State), Claims.Granted o s →
    let issued : CcState := { s.here.cc with pc := Claims.nextWord s, wfeBack := none }
    let after (t : Tile) : Tile := { t with
      cc := issued, sems := Claims.waited o s, stalled := none, fetch := t.fetch, phase := t.phase, activity := t.activity }
    let same (t : State) : Prop := Claims.OnlyHere s t ∧ Claims.SameMemory s t ∧ t.reqs = s.reqs ∧ t.nextReq = s.nextReq
    let free (t : Tile) : Tile := { s.here with fetch := t.fetch, phase := t.phase, activity := t.activity }
    (∃ t, exec (.trapEnd o) s = .next t ∧ same t ∧
      let halted := s.here.cc.trap.tstat.toNat / 8 % 2 = 1
      t.here = { after (Claims.withdrawn (free t.here)) with
        cc := { issued with mode := .ended }, mode := .ending, flight := s.here.flight ++ Claims.left o s 1 []
        stop := (Claims.withdrawn s.here).stop.filter fun p =>
          match p.2 with
          | .discard _ => true
          | _ => false
        bank1 := if halted then [] else s.here.bank1, bank2 := if halted then [] else s.here.bank2
        engLatches := if halted then [] else s.here.engLatches, inject := if halted then [] else s.here.inject
        seqs := s.here.seqs.map fun q =>
          if halted then { q with queue := [], idx := 0, cur := none, gap := 0, loops := [], stalled := none, held := false, aside := none, phase := none }
          else { q with held := false } }) ∧
    (∃ t, exec (.wfe o) s = .next t ∧ same t ∧
      let rest := s.here.cc.wfeBack.getD o.lit.toNat
      t.here = { after (free t.here) with
        sems := if s.here.cc.wfeBack.isSome then s.here.sems else Claims.waited o s
        cc := { s.here.cc with
          pc := Claims.wordPc s, wfeBack := none
          mode := .wfe { d := Claims.xix o.d, mask := o.sub.setWidth 4, limit := if rest = 0 then none else some rest
                         post := o.sp.map fun k => { k } } } }) ∧
    (o.sub.toNat % 4 = 0 →
      ∃ t, exec (.fence o) s = .next t ∧ same t ∧
        t.here = { after (free t.here) with
          flight := s.here.flight ++ Claims.left o s 1 []
          tileFence := (s.here.tileFence.filter fun c => s.here.pipeWrites (c + 1)) ++ [s.here.now] }) ∧
    (o.sw = none → o.sub.toNat ≤ (nth s.here.sems (Operand.kIx o.a)).count.toNat →
      ∃ t, exec (.kwait o none) s = .next t ∧ same t ∧
        t.here = { after (free t.here) with
          sems := upd s.here.sems (Operand.kIx o.a)
            { nth s.here.sems (Operand.kIx o.a) with count := (nth s.here.sems (Operand.kIx o.a)).count - o.sub } }) ∧
    (∃ t, exec (.kpost o none) s = .next t ∧ same t ∧
      t.here = { after (free t.here) with
        flight := s.here.flight ++ [{ agent := .cc, left := 1, issued := s.here.now, fpc := Claims.wordPc s
                                      post := some { k := Operand.kIx o.a, n := o.sub } }] })

/-- R137: the trapping forms of trap make their wait and their post and then enter the handler, with the next word as the resume
address and LIT as the value. -/
def Obligations.SystemCallTraps : Prop :=
  ∀ (o : Op) (s : State), Claims.Granted o s → Claims.Handled s → s.here.stop = none →
    ∀ p : Instr × BitVec 16, p = (.trapSys o, 0x0008) ∨ p = (.trapBrk o, 0x0009) →
      ∃ t, exec p.1 s = .next t ∧ Claims.OnlyHere s t ∧ Claims.SameMemory s t ∧ t.reqs = s.reqs ∧ t.nextReq = s.nextReq ∧
        t.here = { s.here with
          cc := { s.here.cc with mode := .entering 6 (Claims.ccTrap s p.2 (BitVec.ofNat 64 o.lit.toNat)) (s.here.cc.pc + 16) }
          sems := Claims.waited o s, stalled := none, fetch := t.here.fetch
          flight := s.here.flight ++ (Claims.left o s 1 []).map fun r => { r with fpc := s.here.cc.pc }
          phase := t.here.phase, activity := t.here.activity }

/-- R72, R73, R137, R138: an operation of which a check fails takes the precise trap with the cause and the value of its rule;
it makes no wait and no post and changes nothing else. -/
def Obligations.PreciseTrapsTaken : Prop :=
  ∀ i o c v s, Claims.trapRow s i = some (o, c, v) → Claims.Granted o s → Claims.Handled s → s.here.stop = none →
    ∃ t, exec i s = .next t ∧ Claims.OnlyHere s t ∧ Claims.SameMemory s t ∧ t.reqs = s.reqs ∧ t.nextReq = s.nextReq ∧
      t.here = { s.here with
        cc := { s.here.cc with mode := .entering 6 (Claims.ccTrap s c v) s.here.cc.pc }, stalled := none, phase := t.here.phase }

/-- R70, R397: an operation of the control core whose wait is not granted stalls on its semaphore and changes nothing else: neither
its checks nor a full queue count before the wait. A wfe that goes on after a handler has made its wait already; an operation
of the system level waits there only. -/
def Obligations.UngrantedWaitStalls : Prop :=
  ∀ i o s, Claims.coreOp i = some o → (Claims.systemOp i = true → s.here.cc.level = .system) →
    ((∃ p, i = .wfe p) → s.here.cc.wfeBack = none) →
    let stalls (w : Stall) : Prop :=
      ∃ t, exec i s = .next t ∧ Claims.OnlyHere s t ∧ Claims.SameMemory s t ∧ t.reqs = s.reqs ∧ t.nextReq = s.nextReq ∧
        t.here = { s.here with stalled := some w, phase := t.here.phase }
    (∀ k, o.sw = some k → (nth s.here.sems k).count = 0 → (∀ p, i ≠ .kwait p none) → stalls (.sem k)) ∧
    (i = .kwait o none → (nth s.here.sems (Operand.kIx o.a)).count.toNat < o.sub.toNat → stalls (.sem (Operand.kIx o.a) o.sub.toNat))

/-- R139, R215, R220: eret at system level returns to TEPC at the level that PLV holds with one handler less; what the control core
had in flight is discarded, and the latch bank of the handler that it leaves waits for the first operation after the return. The
return with HALT set to what a stop interrupted reads the stop record back, unless a sector of it is poisoned, and clears HALT, and
what the engines had in flight waits for that operation too. Logs 31 and 84 name the model's choices here. -/
def Obligations.HandlerReturns : Prop :=
  ∀ (o : Op) (s : State), Claims.Granted o s → s.here.cc.level = .system →
    let depth := s.here.cc.trap.tstat.toNat / 16 % 4
    let resumes := s.here.cc.trap.tstat.toNat / 8 % 2 = 1 ∧ depth ≤ 1
    (resumes → Claims.poisonOf s = none) →
    ∃ t, exec (.eret o) s = .next t ∧ Claims.SameMemory s t ∧
      (t.die = s.die ∧ t.tile = s.tile ∧ t.host = s.host ∧ ∀ e k, e ≠ s.die ∨ k ≠ s.tile → t.tileAt e k = s.tileAt e k) ∧
      t.here.cc.pc = s.here.cc.trap.tepc ∧
      t.here.cc.level = (if s.here.cc.trap.tstat.toNat % 2 = 1 then .system else .task) ∧
      t.here.cc.trap.tstat.toNat =
        s.here.cc.trap.tstat.toNat - depth * 16 + (depth - 1) * 16 - (if resumes then 8 else 0) ∧
      t.here.cc.trap.tcause = s.here.cc.trap.tcause ∧ t.here.cc.trap.tval = s.here.cc.trap.tval ∧
      t.here.cc.trap.tepc = s.here.cc.trap.tepc ∧ t.here.cc.trap.tvec = s.here.cc.trap.tvec ∧
      t.here.sems = Claims.waited o s ∧ t.here.flight = s.here.flight.filter (fun r => r.agent ≠ .cc ∨ r.timed = true) ∧
      (t.here.cc.x, t.here.cc.b, t.here.cc.g, t.here.cc.n, t.here.cc.fpctl, t.here.cc.srseed, t.here.cc.tcyc) =
        (s.here.cc.x, s.here.cc.b, s.here.cc.g, s.here.cc.n, s.here.cc.fpctl, s.here.cc.srseed, s.here.cc.tcyc) ∧
      (t.here.ve, t.here.me, t.here.streams) = (s.here.ve, s.here.me, s.here.streams) ∧
      (¬ resumes → Claims.OnlyHere s t ∧ t.reqs = s.reqs ∧ t.nextReq = s.nextReq ∧ t.here.seqs = s.here.seqs ∧ t.here.cc.mode = .wait 6 ∧
        t.here.inject = s.here.inject ++ (if depth ≤ 1 then s.here.bank1 else s.here.bank2) ∧
        (if depth ≤ 1 then t.here.bank1 = [] else t.here.bank2 = []) ∧
        t.here.cc.wfeBack = (if depth = 2 then s.here.innerWfe else none)) ∧
      (resumes → t.here.cc.mode = .resume 6 ∧ t.here.bank1 = [] ∧ t.here.engLatches = [] ∧
        ((∀ q, s.hereDie.findCtx s.here.cc.ctxid = some q → (s.ctxAt s.die q).entry.frameOk = false) →
          Claims.OnlyHere s t ∧ t.reqs = s.reqs ∧ t.nextReq = s.nextReq ∧ t.here.seqs = s.here.seqs ∧
            t.here.inject = s.here.inject ++ s.here.bank1 ++ s.here.engLatches))

namespace Sys2Proof.Claims

open Sys2Proof.Machine

/-! ### Events of a tile's cycle -/

/-- A trap that arrives from outside the core: no source agent (R210, R227, R229). -/
def outside (code : BitVec 16) (value : Word) : Trap := { code, value, kind := .asynchronous, agent := none }

/-- The tile may accept a request: its cycle begins, it runs, no stop stands, and no wfe waits for the request itself (R140,
R222, R225). -/
def Accepting (t : Tile) : Prop :=
  t.phase = .start ∧ t.mode = .running ∧ t.stop = none ∧ t.cc.mode ≠ .ended ∧ ∀ w, t.cc.mode = .wfe w → w.mask.getLsbD 2 = false

/-- TVAL of a ceiling trap: the lowest of the semaphores, and a bit for each (R395). -/
def ceilingValue (ks : List (Fin 16)) : Word :=
  BitVec.ofNat 64 (((List.finRange 16).find? fun k => ks.contains k).elim 15 (·.val)
    + 2 ^ 16 * (((List.finRange 16).filter fun k => ks.contains k).map fun k => 2 ^ k.val).sum)

/-- Events of the moving tile's cycle that change nothing but the tile: whether they come about, and the tile after them. -/
def cycleRow (s : State) (i : Instr) : Option (Prop × Tile) :=
  let t := s.here
  let ended (w : Wfe) (v : Word) : Tile :=
    let u : Tile := { t with cc := { t.cc.writeX w.d v with pc := nextWord s, mode := .ready }
                             stalled := none, wroteX := t.wroteX ++ [(w.d, t.now)] }
    match w.post with
    | none => u
    | some p =>
      let k := nth t.sems p.k
      if k.count.toNat + p.n.toNat ≤ k.ceil.toNat then { u with sems := upd t.sems p.k { k with count := k.count + p.n }, posted := true }
      else { u with refused := t.refused ++ [(.cc, p.k, t.cc.pc, 0)] }
  let stopped (k : StopKind) (u : Tile) : Tile := { u with stop := some (t.now, k) }
  match i with
  | .stallResume ag =>
    match (if ag = .cc then t.stalled else (nth t.seqs ag.seqIx).stalled) with
    | some w =>
      let excess : Prop := match w with
        | .sem k n => n ≤ (nth t.sems k).count.toNat
        | .streamEmpty i => (nth t.streams i).readable = true
        | .streamFull i => (nth t.streams i).writable = true
        | .queueFull e => (nth t.seqs e.seqIx).entries.length < 32
        | .subQueueFull c => s.subQueue s.die s.tile ag c < 32
        | .event => False
      some (t.phase = .start ∧ excess, if ag = .cc then { t with stalled := none }
        else { t with seqs := upd t.seqs ag.seqIx { nth t.seqs ag.seqIx with stalled := none } })
    | none => none
  | .commPhaseEnd =>
    match t.super with
    | some p => some (t.phase = .start ∧ t.cc.trap.tstat.toNat / 8 % 2 = 0 ∧ p.inComm = true ∧ p.s + p.clen ≤ t.now
      , { t with super := none, seqs := t.seqs.map Seq.endPhase })
    | none => none
  | .preemptAccept =>
    match t.preempt with
    | some sus => some (Accepting t, stopped (.preempt none sus) { t with preempt := none })
    | none => none
  | .interruptAccept =>
    match t.irq with
    | some v => some (Accepting t ∧ Handled s ∧ t.cc.level = .task ∧ (t.cc.mode = .ready ∨ ∃ w, t.cc.mode = .wfe w) ∧ t.preempt = none
        ∧ t.dieLost = [], stopped (.handler (outside 0x0040 v)) { t with irq := none })
    | none => none
  | .budgetOverrun =>
    match t.task with
    | some k =>
      let free : Prop := match t.stop with
        | none => True
        | some (_, .handler y) => y.kind = .asynchronous
        | some (_, .preempt none sus) => sus = false
        | _ => False
      some (t.phase = .start ∧ t.mode ≠ .halted ∧ free ∧ k.budget.toNat ≤ (t.cc.tcyc - k.base).toNat
        , { withdrawn t with stop := some ((t.stop.map (·.1)).getD t.now, if k.ovp then .preempt none true
              else .handler { code := 0x000C, value := k.budget.setWidth 64, kind := .taskEnding, agent := none
                              level := some t.cc.level }) })
    | none => none
  | .wfeWake =>
    match t.cc.mode with
    | .wfe w => some (t.phase = .close ∧ w.mask &&& s.eventsNow ≠ 0, ended w ((w.mask &&& s.eventsNow).setWidth 64))
    | _ => none
  | .wfeTimeout =>
    match t.cc.mode with
    | .wfe w => some (t.phase = .close ∧ w.mask &&& s.eventsNow = 0 ∧ w.limit = some 0, ended w 0)
    | _ => none
  | .semaphoreCeilingTrap =>
    let value := ceilingValue (t.refused.map fun p => p.2.1)
    match t.refused.find? fun p => decide (p.1 ≠ .cc), t.refused with
    | some (ag, _, fpc, fidx), _ => some (t.phase = .start ∧ t.stop = none ∧ Handled s
      , stopped (.handler { code := 0x000B, value, kind := .iteration, agent := some ag, fpc, fidx })
          { t with refused := [], faultAt := some t.now, seqs := upd t.seqs ag.seqIx { nth t.seqs ag.seqIx with held := true, stalled := none } })
    | none, (_, _, fpc, _) :: _ => some (t.phase = .start ∧ t.stop = none ∧ Handled s
      , { t with refused := [], stalled := none, phase := .ve
                 cc := { t.cc with mode := .entering 6 { code := 0x000B, value, kind := .precise, agent := some .cc, fpc } t.cc.pc } })
    | none, [] => none
  | _ => none

/-! ### The end of a cycle -/

/-- A cycle ends with these results in flight: their agents do not stall, nothing else is under way on the tile. -/
structure CycleOf (s : State) (rs : List Result) : Prop where
  phase  : s.here.phase = .finish
  flight : s.here.flight = rs
  free   : s.here.stalled = none ∧ ∀ k : Fin 4, (nth s.here.seqs k).stalled = none
  mode   : s.here.cc.mode = .ready
  remote : s.here.remote = []
  reqs   : ∀ q ∈ s.reqs, q.of s.die s.tile = false

/-- The tile in its next cycle, `u` being the tile with what this cycle has written: TCYC counts it, popped stream entries are free
(R116, R153). Sequencers count their occupancy, and what the model notes of the cycle is `v`'s. -/
def cycleOver (u v : Tile) : Tile :=
  { u with cc := { u.cc with tcyc := u.cc.tcyc + 1 }, now := u.now + 1, phase := .close, streams := u.streams.map Stream.endCycle
           seqs := v.seqs, undo := v.undo, undoNext := [], wroteX := v.wroteX, posted := v.posted, refused := v.refused
           closing := false }

/-- The bits of `mask` of new data in old. -/
def blend {n : Nat} (old data mask : BitVec n) : BitVec n := (old &&& ~~~mask) ||| (data &&& mask)

/-- What an effect makes of a tile, entries of the sequencers apart; none for effects that only responses have. -/
def landed (u : Tile) (e : Effect) : Option Tile :=
  let cc (c : CcState) : Option Tile := some { u with cc := c }
  let me (m : MatrixState) : Option Tile := some { u with me := m }
  let acc (q : Fin 4) (a : Vector Vec 128) : Option Tile := me { u.me with acc := upd u.me.acc q a }
  let plane (p : Fin 2) (x : Plane) : Option Tile := me { u.me with planes := upd u.me.planes p x }
  match e with
  | .x i v => cc { u.cc with x := if i = 0 then u.cc.x else upd u.cc.x i v }
  | .seed v => cc { u.cc with srseed := v }
  | .b i v => cc { u.cc with b := upd u.cc.b i v }
  | .g i v => cc { u.cc with g := upd u.cc.g i v }
  | .n i v => cc { u.cc with n := upd u.cc.n i v }
  | .sreg num v => cc (u.cc.writeStatus num.toNat v)
  | .sp off bs => some (u.spWrite off bs)
  | .spBits off data mask => some (u.spWrite off (bytesOf 512 (blend (vecOf (u.active.bytes.bytes off 512)) data mask).toNat))
  | .slot off bs => some { u with silo := u.silo.write off bs }
  | .tagIns k tag sbase slen => some (u.setActive (u.active.setTag k { valid := true, tag, sbase, slen }))
  | .tagInv k => some (u.setActive (u.active.setTag k { u.active.tag k with valid := false }))
  | .tagInvAll => some (u.setActive { u.active with
      tags := u.active.tags.filterMap fun p =>
        if ({ p.2 with valid := false } : TagEntry) = {} then none else some (p.1, { p.2 with valid := false }) })
  | .tagInvTag tag => some (u.setActive ((u.active.tags.filter fun p => p.2.valid && decide (p.2.tag = tag)).foldl
      (fun b p => b.setTag p.1 { p.2 with valid := false }) u.active))
  | .vreg d data mask => some { u with ve := { u.ve with v := upd u.ve.v d (blend (nth u.ve.v d) data mask) } }
  | .qreg d data mask => some { u with ve := { u.ve with q := upd u.ve.q d (blend (nth u.ve.q d) data mask) } }
  | .stream k slot data => some { u with
      streams := upd u.streams k { nth u.streams k with entries := upd (nth u.streams k).entries slot { st := .written, data } } }
  | .nest j v => me { u.me with pending := upd u.me.pending j v }
  | .nestGo => me { u.me with active := u.me.pending }
  | .accRow q r data mask => acc q (upd (nth u.me.acc q) r (blend (nth (nth u.me.acc q) r) data mask))
  | .accStep q r groups totals info =>
    let old := nth (nth u.me.acc q) r
    let row := Machine.stepRow info groups totals old
    acc q (upd (nth u.me.acc q) r (blend old row.1 row.2))
  | .accClear q => acc q (Vector.replicate 128 0)
  | .accMul q rows => acc q (Vector.ofFn fun i => rows.getD i.val (nth (nth u.me.acc q) i))
  | .planeRow p r data => plane p { nth u.me.planes p with rows := upd (nth u.me.planes p).rows r data }
  | .planeScales p data => plane p { nth u.me.planes p with scales := data }
  | .planeDesc p desc => plane p { nth u.me.planes p with desc }
  | .planeClear p => plane p { nth u.me.planes p with rows := Vector.replicate 128 0, scales := 0 }
  | .actFlip => me { u.me with act := 1 - u.me.act }
  | .kset k count ceil => some { u with sems := upd u.sems k { count, ceil } }
  | .enq .. => some u
  | .stage _ => some u
  | .half .. => none
  | .status .. => none

/-- What a sample yields: the effects that the result writes later, and the bytes that an atomic operation writes at once (R131,
R178, R192, R196, R277, R282, R284). -/
def sampled (u : Tile) : Sample → List Effect × Option (Nat × List Byte)
  | .ld d off et => ([.x d (et.extend (u.spBytes off et.memBytes))], none)
  | .ldl d off et => ([.x d (et.extend (u.silo.bytes off et.memBytes))], none)
  | .vld d slot off keep mask =>
    let v := vecOf (u.active.bytes.bytes off 512) &&& keep
    ([match d with
      | .s i => .stream i slot (v &&& mask)
      | _ => .vreg d.vIx v mask], none)
  | .tlk d tag =>
    ([.x d (match u.active.tags.find? fun p => p.2.valid && decide (p.2.tag = tag) with
      | some p => BitVec.ofNat 64 (p.1 + p.2.sbase.toNat * 2 ^ 16 + p.2.slen.toNat * 2 ^ 32)
      | none => 0xFFFF)], none)
  | .atom d off kind =>
    let r := kind.perform (u.active.bytes.bytes off kind.size)
    (List.zipWith Effect.x d r.1, r.2.map fun bs => (off, bs))
  | .stepRow q r off scales info =>
    ([stepEffect info (nth u.me.planes info.plane) q r (u.active.bytes.bytes off (16 * info.et.width)) scales], none)
  | .planeRow p r off n => ([.planeRow p r (BitVec.ofNat 2048 (valueOf (u.active.bytes.bytes off n)))], none)
  | .planeScales p off => ([.planeScales p (vecOf (u.active.bytes.bytes off 512))], none)

end Sys2Proof.Claims

open Sys2Proof Sys2Proof.Machine

/-- R51, R54, R62, R140, R225, R227, R228, R346, R395: the events of a tile's cycle that change the tile alone come about when
their conditions hold. Logs 34 and 47 name the model's choices here. -/
def Obligations.CycleEventsComplete : Prop :=
  ∀ i p u s, Claims.cycleRow s i = some (p, u) → p →
    ∃ t, exec i s = .next t ∧ Claims.OnlyHere s t ∧ Claims.SameMemory s t ∧ t.reqs = s.reqs ∧ t.nextReq = s.nextReq ∧ t.here = u

/-- R30, R55, R116: a cycle of the tile ends unless bytes that are to land with its end are still on their way: the next cycle follows,
TCYC counts it, remote writes have been made, and nothing but the tile and its requests has changed. -/
def Sys2Proof.Claims.CyclesEnd : Prop :=
  ∀ s : State, s.here.phase = .finish →
    (∀ r ∈ s.reqs, r.of s.die s.tile = true → r.captured = none → r.due = s.here.now + 1 → r.kind.lands = true → r.stage = .landed) →
    ∃ t, exec .resultWriteback s = .next t ∧ Claims.OnlyHere s t ∧ t.nextReq = s.nextReq ∧
      t.here.now = s.here.now + 1 ∧ t.here.phase = .close ∧ t.here.cc.tcyc = s.here.cc.tcyc + 1 ∧ t.here.remote = [] ∧
      (t.here.task, t.here.mode, t.here.stop, t.here.seg, t.here.slots) = (s.here.task, s.here.mode, s.here.stop, s.here.seg, s.here.slots) ∧
      (∀ e k, (e ≠ s.die ∨ k ≠ s.tile) → t.tileAt e k = s.tileAt e k)

/-- R55, R56, R30: at the end of the last active cycle of a result everything that it writes is written: registers of every engine,
bytes of the scratchpad and the silo, tag entries, semaphores, queue entries and stage counts; the tile is else as its next cycle
finds it. -/
def Sys2Proof.Claims.EffectsLand : Prop :=
  ∀ (e : Effect) (r : Result) (u : Tile) (s : State),
    Claims.CycleOf s [r] → r.left = 1 → r.effects = [e] → r.sample = none → r.post = none → Claims.landed s.here e = some u →
    ∃ t, exec .resultWriteback s = .next t ∧ Claims.OnlyHere s t ∧ t.reqs = s.reqs ∧ t.nextReq = s.nextReq ∧
      t.here = Claims.cycleOver { u with flight := [] } t.here ∧ t.here.posted = false ∧ t.here.refused = [] ∧
      t.here.wroteX = (match e with
        | .x i _ => [(i, r.issued)]
        | _ => []) ∧
      (∀ off bs a, e = .sp off bs → off + bs.length ≤ 0x200000 → a < 0x200000 →
        t.here.winByte a = if off ≤ a ∧ a < off + bs.length then bs.getD (a - off) 0 else s.here.winByte a) ∧
      ∀ k : Fin 4, let q := nth s.here.seqs k; let q1 := nth t.here.seqs k
        q1.cur = q.cur ∧ q1.gap = q.gap - 1 ∧
        q1.entries.map (fun g => (g.off, g.count)) = q.entries.map (fun g => (g.off, g.count)) ++ (match e with
          | .enq g off n => if g.seqIx = k then [(off, n)] else []
          | _ => []) ∧
        q1.stg = q.stg + (match e with
          | .stage g => if g.seqIx = k then 1 else 0
          | _ => 0)

/-- R56: of two results of the control core that are written to one register at the end of the same cycle that of the later
operation is kept. -/
def Sys2Proof.Claims.LaterResultKept : Prop :=
  ∀ (d : Fin 32) (a b : Result) (v w : Word) (s : State),
    Claims.CycleOf s [a, b] → d ≠ 0 →
    a.agent = .cc → a.left = 1 → a.effects = [.x d v] → a.sample = none → a.post = none →
    b.agent = .cc → b.left = 1 → b.effects = [.x d w] → b.sample = none → b.post = none → a.issued ≠ b.issued →
    ∃ t, exec .resultWriteback s = .next t ∧ nth t.here.cc.x d = (if a.issued < b.issued then w else v)

/-- R131, R178, R192, R196, R277, R282: in its sample cycle a result takes what it is to write from the tile's memories as the cycle
finds them; an atomic operation writes its bytes in that cycle. -/
def Sys2Proof.Claims.SamplesTaken : Prop :=
  ∀ (smp : Sample) (r : Result) (n : Nat) (s : State),
    Claims.CycleOf s [r] → r.left = n + 2 → r.effects = [] → r.sample = some (0, smp) → r.post = none →
    ∃ t, exec .resultWriteback s = .next t ∧ Claims.OnlyHere s t ∧ t.reqs = s.reqs ∧ t.nextReq = s.nextReq ∧
      t.here = Claims.cycleOver { (match (Claims.sampled s.here smp).2 with
        | some (off, bs) => s.here.spWrite off bs
        | none => s.here) with flight := [{ r with left := n + 1, sample := none, effects := (Claims.sampled s.here smp).1 }] } t.here

/-- R70, R394: at the end of the last active cycle of a result its post is made: the count rises, or the post is refused when that
would pass CEIL. -/
def Sys2Proof.Claims.PostsMade : Prop :=
  ∀ (p : Post) (r : Result) (s : State),
    Claims.CycleOf s [r] → r.left = 1 → r.effects = [] → r.sample = none → r.post = some p →
    let k := nth s.here.sems p.k
    let fits : Prop := k.count.toNat + p.n.toNat ≤ k.ceil.toNat
    ∃ t, exec .resultWriteback s = .next t ∧ Claims.OnlyHere s t ∧ Claims.SameMemory s t ∧ t.reqs = s.reqs ∧ t.nextReq = s.nextReq ∧
      t.here = Claims.cycleOver { s.here with
        flight := [], sems := if fits then upd s.here.sems p.k { k with count := k.count + p.n } else s.here.sems } t.here ∧
      (t.here.posted = true ↔ fits) ∧ t.here.refused = (if fits then [] else [(r.agent, p.k, r.fpc, r.fidx)])

/-- R54: while an agent stalls on a semaphore its results in flight stay where they are, and nothing of them is written. -/
def Sys2Proof.Claims.StallHoldsResults : Prop :=
  ∀ (r : Result) (k : Fin 16) (n : Nat) (s : State),
    s.here.phase = .finish → s.here.flight = [r] → r.timed = false → s.here.cc.mode = .ready → s.here.remote = [] →
    (∀ q ∈ s.reqs, q.of s.die s.tile = false) →
    (if r.agent = .cc then s.here.stalled else (nth s.here.seqs r.agent.seqIx).stalled) = some (.sem k n) →
    ∃ t, exec .resultWriteback s = .next t ∧ Claims.OnlyHere s t ∧ Claims.SameMemory s t ∧ t.reqs = s.reqs ∧ t.nextReq = s.nextReq ∧
      t.here = Claims.cycleOver s.here t.here

/-- R213: at the end of the cycle before the handler's first operation the trap registers take the trap, the level becomes
system, and PC is TVEC. -/
def Obligations.HandlerEntered : Prop :=
  ∀ (x : Trap) (tepc : Word) (s : State),
    s.here.phase = .finish → s.here.flight = [] → s.here.remote = [] → (∀ q ∈ s.reqs, q.of s.die s.tile = false) →
    s.here.cc.mode = .entering 1 x tepc → x.level = none → s.here.cc.trap.tstat.toNat / 16 % 4 < 2 → x.kind = .precise →
    ∃ t, exec .resultWriteback s = .next t ∧ Claims.SameMemory s t ∧
      t.here.cc.trap.tcause.toNat = x.code.toNat ∧ t.here.cc.trap.tval = x.value ∧
      t.here.cc.trap.tepc.toNat = tepc.toNat % 2 ^ 56 / 16 * 16 ∧ t.here.cc.trap.tvec = s.here.cc.trap.tvec ∧
      t.here.cc.trap.tstat.toNat % 2 = (if s.here.cc.level = .system then 1 else 0) ∧
      t.here.cc.trap.tstat.toNat / 8 % 2 = s.here.cc.trap.tstat.toNat / 8 % 2 ∧
      t.here.cc.trap.tstat.toNat / 16 % 4 = s.here.cc.trap.tstat.toNat / 16 % 4 + 1 ∧
      t.here.cc.trap.tstat.toNat / 2 ^ 16 % 16 = 1 ∧
      t.here.cc.level = .system ∧ t.here.cc.pc = s.here.cc.trap.tvec ∧ t.here.cc.mode = .ready ∧
      (t.here.cc.x, t.here.cc.b, t.here.cc.g, t.here.cc.n) = (s.here.cc.x, s.here.cc.b, s.here.cc.g, s.here.cc.n)

/-- R213, R217, R219: at its cut a stop that a trap has triggered captures what is in flight, sets HALT and enters the handler,
whose first operation issues six cycles later. Logs 32 and 35 name the model's choices here. -/
def Sys2Proof.Claims.CutEntersHandler : Prop :=
  ∀ (t0 : Nat) (x : Trap) (s : State),
    s.here.stop = some (t0, .handler x) → t0 ≤ s.here.now → s.here.phase = .start → (nth s.here.seqs 1).gap = 0 →
    s.awaits = false → Claims.Handled s → s.here.cc.mode ≠ .ended → (∀ n y a, s.here.cc.mode ≠ .entering n y a) → x.kind ≠ .taskEnding → x.level = none → s.here.cc.trap.tstat.toNat / 16 % 4 < 2 →
    ∃ t, exec .stopCut s = .next t ∧
      t.here.stop = none ∧ t.here.flight = [] ∧ t.here.inject = [] ∧ t.here.cc.mode = .wait 6 ∧
      t.here.cc.pc = s.here.cc.trap.tvec ∧ t.here.cc.level = .system ∧
      t.here.cc.trap.tcause.toNat = x.code.toNat ∧ t.here.cc.trap.tval = x.value ∧
      t.here.cc.trap.tepc.toNat = s.here.cc.pc.toNat % 2 ^ 56 / 16 * 16 ∧
      t.here.cc.trap.tstat.toNat % 2 = (if s.here.cc.level = .system then 1 else 0) ∧
      t.here.cc.trap.tstat.toNat / 8 % 2 = 1 ∧
      t.here.cc.trap.tstat.toNat / 16 % 4 = s.here.cc.trap.tstat.toNat / 16 % 4 + 1 ∧
      (t.here.cc.x, t.here.cc.b, t.here.cc.g, t.here.cc.n) = (s.here.cc.x, s.here.cc.b, s.here.cc.g, s.here.cc.n) ∧
      (t.here.ve, t.here.me, t.here.streams, t.here.sems) = (s.here.ve, s.here.me, s.here.streams, s.here.sems) ∧
      (let wait := match s.here.cc.mode with
        | .wait n => n
        | .resume n => n
        | _ => 0
      let later := s.here.inject.map fun l => { l with r := l.r + wait }
      let core := sortBy Latch.r (later.filter (fun l => decide (l.agent = .cc))
        ++ (s.here.flight.filter fun f => decide (f.agent = .cc)).flatMap s.here.ccLatch)
      let bank (ls : List Latch) : List Latch := (ls ++ core).map fun l => { l with below := false }
      t.here.engLatches = s.here.engLatches ++ sortBy Latch.r (later.filter (fun l => !decide (l.agent = .cc))
        ++ (s.here.flight.filter fun f => !decide (f.agent = .cc)).map fun f =>
          { r := f.left - 1, agent := f.agent, issued := f.issued, effects := f.effects, post := f.post, sample := f.sample
            fpc := f.fpc, fidx := f.fidx, ew := f.ew }) ∧
      (s.here.cc.trap.tstat.toNat / 16 % 4 = 0 → t.here.bank1 = bank s.here.bank1 ∧ t.here.bank2 = s.here.bank2) ∧
      (s.here.cc.trap.tstat.toNat / 16 % 4 = 1 → t.here.bank2 = bank s.here.bank2 ∧ t.here.bank1 = s.here.bank1)) ∧
      ∀ r ∈ s.reqs, r.of s.die s.tile = true → r.captured = none → r.stage ≠ .retired →
        ∃ r1 ∈ t.reqs, r1.id = r.id ∧ r1.kind = r.kind ∧ r1.captured = some (r.due - s.here.now)

/-- R217, R219, R223, R225, R352: the cut of a stop comes about in the first cycle from its trigger on in which the matrix engine stands
at a boundary, and in which nothing that it reads waits for its way. A pre-empted task is parked and its tile halted; one that is
suspended is parked and leaves its tile, as does one that a kill has stopped and one that a trap has ended; nothing of these stays in
flight in the tile. -/
def Sys2Proof.Claims.CutsComplete : Prop :=
  ∀ (t0 : Nat) (k : StopKind) (s : State),
    s.here.stop = some (t0, k) → t0 ≤ s.here.now → (nth s.here.seqs 1).gap = 0 →
    (s.here.phase = .start ∨ (s.here.phase = .ve ∧ ∃ c a b, k = .ending c a b)) → (s.cut s.die s.tile k).awaits = false →
    let gone (t : State) : Prop := t.here.mode = .idle ∧ t.here.task = none ∧ t.here.stop = none ∧ t.here.flight = []
    ∃ t, exec .stopCut s = .next t ∧
      (∀ task q, k = .preempt none false → s.here.task = some task → s.hereDie.findCtx s.here.cc.ctxid = some q →
        t.here.mode = .halted ∧ t.here.task = some task ∧ t.here.stop = none ∧ t.here.flight = [] ∧
          ((t.ctxAt s.die q).parkedAt s.tile).isSome = true ∧
          (t.here.cc.b, t.here.cc.g, t.here.cc.n, t.here.me) = (s.here.cc.b, s.here.cc.g, s.here.cc.n, s.here.me)) ∧
      (∀ task q, k = .preempt none true → s.here.task = some task → s.hereDie.findCtx s.here.cc.ctxid = some q →
        gone t ∧ ((t.ctxAt s.die q).parkedAt s.tile).isSome = true) ∧
      (k = .discard none → gone t) ∧
      (∀ task c a b, k = .ending c a b → s.here.task = some task → gone t)

/-- Every stop ends with its cut, and the cut of a trap enters the handler. -/
def Obligations.CutsTaken : Prop :=
  Claims.CutEntersHandler ∧ Claims.CutsComplete

/-- R220: in the cycle of the first operation after a return what the latch banks held is on its way again, each with its offset;
with HALT clear, captured requests are as well. Log 32 names the model's choices here. -/
def Obligations.LatchesReenter : Prop :=
  ∀ s : State, s.here.phase = .start → s.here.cc.mode = .ready → s.here.stop = none → s.here.mode = .running →
    (s.here.inject ≠ [] ∨ s.here.cc.trap.tstat.toNat / 8 % 2 = 0 ∧
      (s.here.cutLeft ≠ {} ∨ ∃ r ∈ s.reqs, s.isCaptured s.die s.tile r = true)) →
    ∃ t, exec .latchReinject s = .next t ∧ Claims.OnlyHere s t ∧ Claims.SameMemory s t ∧ t.nextReq = s.nextReq ∧
      t.here.inject = [] ∧ t.here.cc = s.here.cc ∧ t.here.sems = s.here.sems ∧
      t.here.flight = s.here.flight ++ s.here.inject.map (fun l =>
        { agent := l.agent, left := l.r + 1, issued := l.issued, effects := l.effects, post := l.post, sample := l.sample
          fpc := l.fpc, fidx := l.fidx, ew := l.ew }) ∧
      (s.here.cc.trap.tstat.toNat / 8 % 2 = 1 → t.reqs = s.reqs) ∧
      (s.here.cc.trap.tstat.toNat / 8 % 2 = 0 → ∀ r ∈ t.reqs, s.isCaptured s.die s.tile r = false)

/-- R30, R222: what is due in a cycle comes about at its start: without a fault every request that is due is retired and no memory
changes; a fault stops a tile that has no stop. -/
def Sys2Proof.Claims.DueCyclesComplete : Prop :=
  ∀ s : State,
    let due (r : Req) : Prop := r.of s.die s.tile = true ∧ r.captured = none ∧ r.due = s.here.now ∧ r.stage = .landed
    s.here.phase = .start → (∃ r ∈ s.reqs, due r) →
    ∃ t, exec .dueCycle s = .next t ∧
      ((∀ r ∈ s.reqs, due r → r.resp.fault = none) →
        Claims.OnlyHere s t ∧ Claims.SameMemory s t ∧ t.nextReq = s.nextReq ∧ ∀ r ∈ t.reqs, ¬ due r) ∧
      ((∃ r ∈ s.reqs, due r ∧ r.resp.fault.isSome = true) → s.here.stop = none → t.here.stop.isSome = true)

/-- R30, R56: in its due cycle the result of a request without fault is in its register, unless an operation issued later has
written the register, and the request is retired. Log 32 names the model's choices here. -/
def Sys2Proof.Claims.DueResultsArrive : Prop :=
  ∀ (r : Req) (d : Fin 32) (v : Word) (s : State),
    s.here.phase = .start → s.reqs = [r] → r.of s.die s.tile = true → r.captured = none → r.due = s.here.now → r.stage = .landed →
    r.resp = { x := [(d, v)] } → r.post = none → r.kind ≠ .ssync → r.kind ≠ .sstatStg →
    ∃ t, exec .dueCycle s = .next t ∧ Claims.OnlyHere s t ∧ Claims.SameMemory s t ∧ t.nextReq = s.nextReq ∧
      t.reqs = [{ r with stage := .retired }] ∧
      t.here = { s.here with cc := { s.here.cc with
        x := if d = 0 ∨ (∃ w ∈ s.here.wroteX, w.1 = d ∧ r.issued < w.2) then s.here.cc.x else upd s.here.cc.x d v } }

/-- Results are written when their time has come, with everything that they write: those of operations in flight at the end of a cycle, those of requests at their due cycles. -/
def Obligations.ResultsAreWritten : Prop :=
  Claims.EffectsLand ∧ Claims.LaterResultKept ∧ Claims.SamplesTaken ∧ Claims.PostsMade ∧ Claims.StallHoldsResults ∧ Claims.DueResultsArrive ∧ Claims.CyclesEnd ∧ Claims.DueCyclesComplete

namespace Sys2Proof.Claims

open Sys2Proof.Machine

/-! ### Links -/

/-- Beside the ports of its dies the package is as before, what it reports apart. -/
def OnlyPorts (s t : State) : Prop :=
  (∀ e, t.dieAt e = { s.dieAt e with ports := (t.dieAt e).ports }) ∧
  t = { s with dies := t.dies, reqs := t.reqs, io := { s.io with reports := t.io.reports } }

/-- Port p of die d and the port at the other end of its link have become these; every other port is as before. -/
structure LinkBecomes (s t : State) (d : DieIx) (p : Fin 8) (near : Port) (far : Port → Port) : Prop where
  near : t.portAt d p = near
  far : ∀ e k, s.partner d p = some (e, k) → t.portAt e k = far (s.portAt e k)
  others : ∀ e k, (e ≠ d ∨ k ≠ p) → s.partner d p ≠ some (e, k) → t.portAt e k = s.portAt e k
  rest : OnlyPorts s t

/-- A command of LCTL: its port, the word, and whether the word has the code that the name stands for (R429). -/
def linkCommand (i : Instr) : Option (DieIx × Fin 8 × Word × Prop) :=
  let code (w : Word) : Nat := w.toNat % 16
  match i with
  | .linkNone d p w => some (d, p, w, code w = 0)
  | .linkPause d p w => some (d, p, w, code w = 1)
  | .linkResume d p w => some (d, p, w, code w = 2)
  | .linkRemap d p w => some (d, p, w, code w = 3)
  | .linkRetrain d p w => some (d, p, w, code w = 4)
  | .linkDegrade d p w => some (d, p, w, code w = 5)
  | .linkRestore d p w => some (d, p, w, code w = 6)
  | .lctlUnassignedCommand d p w => some (d, p, w, 7 ≤ code w)
  | _ => none

/-- A command is accepted: no other is in progress, and what it requires holds (R429). -/
def CommandAccepted (d : DieIx) (p : Fin 8) (x : Port) (code : Nat) : Prop :=
  x.busy = false ∧ (code = 1 ∨ (x.paused = true ∧ (code = 2 ∨ (code = 3 ∧ (p = 7 ∨ portModules d p = 4)) ∨ code = 4 ∨ code = 5 ∨ code = 6)))

/-- The two ends after a write of LCTL. -/
def commandEnds (d : DieIx) (p : Fin 8) (x : Port) (w : Word) (near : Port) (far : Port → Port) : Prop :=
  let code := w.toNat % 16
  (x.busy = false ∧ code = 0 → near = x ∧ ∀ y, far y = y) ∧
  (CommandAccepted d p x code →
    near = { x with busy := true, paused := x.paused || decide (code = 1), command := some w, last := BitVec.ofNat 4 code } ∧
    ∀ y, far y = { y with busy := true, paused := y.paused || decide (code = 1) }) ∧
  (¬ CommandAccepted d p x code ∧ ¬ (x.busy = false ∧ code = 0) → near = { x with err := true } ∧ ∀ y, far y = y)

/-- Module m of LMAP is x, and every other module reads in the new value as in the old. -/
def ModuleBecomes (old new : BitVec 64) (m : Nat) (x : Module) : Prop :=
  ∀ k, k < 4 → lmapModule new k = if k = m then x else lmapModule old k

/-- The widths in LMAP after a training that began from v: a module that did not train is disabled, and so are those that the
port does not have. -/
def WidthsTrained (d : DieIx) (p : Fin 8) (v new : BitVec 64) (r : Training) : Prop :=
  ∀ k : Fin 4, lmapModule new k.val =
    if portModules d p ≤ k.val then { width := 3, low := 0, high := 0 }
    else if nth r.widths k = 3 then { lmapModule v k.val with width := 3 } else lmapModule v k.val

end Sys2Proof.Claims

open Sys2Proof Sys2Proof.Machine

/-- R429, R430: a write of LCTL whose command is accepted sets BUSY at both ends, a Pause PAUSED as well, and LAST where it was
written; one that is not accepted, and a code from 7 to 15, sets ERR and changes nothing else; code 0 changes nothing. -/
def Sys2Proof.Claims.LinkCommandsStart : Prop :=
  ∀ i d p w named s, Claims.linkCommand i = some (d, p, w, named) → named → p ≠ 0 → s.lost d = false → s.awaits = false →
    ∃ t near far, exec i s = .next t ∧ Claims.commandEnds d p (s.portAt d p) w near far ∧ Claims.LinkBecomes s t d p near far ∧
      t.reqs = s.reqs ∧ t.io = s.io

/-- R415, R428 to R430, R461: a command ends with BUSY clear at both ends and DONE or ERR where it was written; Resume clears PAUSED;
Remap uses one more redundant lane of the half that holds LANE, or fails; Retrain, Degrade and Restore train the module widths
of their rule, and a Degrade fails on a module at half width. A die whose I/O port comes out of a training with no lane is declared
lost. Logs 4 and 49 name the model's choices here. -/
def Sys2Proof.Claims.LinkCommandsEnd : Prop :=
  ∀ (d : DieIx) (p : Fin 8) (r : Training) (w : Word) (s : State), (s.portAt d p).command = some w →
    let x := s.portAt d p
    let m := (w.extractLsb' 8 2).toNat
    let low := (w.extractLsb' 12 6).toNat < 32
    let old := lmapModule x.lmap m
    let code := w.toNat % 16
    let agrees := p = 7 ∨ r.partner = s.expectedId d p
    let running := s.dstate d = 1 ∨ s.dstate d = 2
    let dead (v : BitVec 64) : Prop := p = 7 ∧ running ∧ (nth r.widths 0 = 3 ∨ (lmapModule v 0).width = 3)
    let failed (t : State) : Prop :=
      t.reqs = s.reqs ∧ Claims.LinkBecomes s t d p { x with busy := false, command := none, err := true } (fun y => { y with busy := false }) ∧ t.io = s.io
    let trainedFrom (t : State) (v : BitVec 64) : Prop := (dead v → t.dstate d = 3) ∧ (¬ dead v →
      t.reqs = s.reqs ∧ ∃ v', Claims.WidthsTrained d p v v' r ∧ t.io = s.io ∧
        Claims.LinkBecomes s t d p { x with busy := false, command := none, doneBit := true, lmap := v', run := 0, down := false }
          (fun y => { y with busy := false, lmap := v', run := 0, down := false }))
    let again (g : Egress) : Egress := { g with lost := false }
    let degrades := code = 5 ∧ old.width ≠ 1 ∧ old.width ≠ 2
    ∃ t, exec (.linkCommandComplete d p r) s = .next t ∧
      (code < 4 ∨ 7 ≤ code → t.reqs = s.reqs) ∧
      (code = 2 → Claims.LinkBecomes s t d p
        { x with busy := false, command := none, doneBit := true, paused := false, egress := x.egress.map again }
        (fun y => { y with busy := false, paused := false, egress := y.egress.map again }) ∧ t.io = s.io) ∧
      (code = 3 ∧ m < portModules d p ∧ (if low then old.low else old.high) < 2 →
        ∃ v, Claims.ModuleBecomes x.lmap v m (if low then { old with low := old.low + 1 } else { old with high := old.high + 1 }) ∧
          Claims.LinkBecomes s t d p { x with busy := false, command := none, doneBit := true, lmap := v }
            (fun y => { y with busy := false, lmap := v }) ∧ t.io = s.io) ∧
      (code = 3 ∧ (portModules d p ≤ m ∨ 2 ≤ (if low then old.low else old.high)) → failed t) ∧
      (code = 4 ∧ agrees ∧ r.success = true → trainedFrom t x.lmap) ∧
      (degrades ∧ agrees ∧ r.success = true →
        ∃ v, Claims.ModuleBecomes x.lmap v m (if low then { old with width := 2, low := 0 } else { old with width := 1, high := 0 }) ∧
          trainedFrom t v) ∧
      (code = 5 ∧ (old.width = 1 ∨ old.width = 2) → failed t) ∧
      (code = 6 ∧ agrees ∧ r.success = true →
        ∃ v, Claims.ModuleBecomes x.lmap v m { width := 0, low := 0, high := 0 } ∧ trainedFrom t v) ∧
      (code < 2 ∨ 7 ≤ code → Claims.LinkBecomes s t d p { x with busy := false, command := none, doneBit := true }
        (fun y => { y with busy := false }) ∧ t.io = s.io) ∧
      ((code = 4 ∨ degrades ∨ code = 6) ∧ agrees ∧ r.success = false →
        (p = 7 ∧ running → t.dstate d = 3) ∧ (¬ (p = 7 ∧ running) → failed t)) ∧
      ((code = 4 ∨ degrades ∨ code = 6) ∧ ¬ agrees → t.reqs = s.reqs ∧
        Claims.LinkBecomes s t d p { x with busy := false, command := none, err := true, down := true }
          (fun y => { y with busy := false, down := true }) ∧ t.io.reports = s.io.reports ++ [.linkDown d p])

/-- Link commands start where they are written and end as their rules say. -/
def Obligations.LinkCommandsComplete : Prop :=
  Claims.LinkCommandsStart ∧ Claims.LinkCommandsEnd

/-- R348 to R350, R429: the next packet of an open link, of which at most 2,048 stand without acknowledgement, is accepted when its check
code is good and its number is the one expected; with the last packet of an entry its request stands one hop further: at the router
beyond, or past the I/O port at host memory. One accepted before is dropped, and after any other nothing is taken until the replay. An
acknowledgement removes the entries whose last packets it covers. A replay sends again what was
dropped and is counted; the 256th in a row holds the link down and reports it, and a counter that reaches its threshold is reported
once. Logs 70 and 102 name the model's choices here. -/
def Sys2Proof.Claims.LinkPacketsMove : Prop :=
  ∀ (d : DieIx) (p : Fin 8) (s : State),
    (∀ e k n g, p ≠ 0 → (s.partner d p = some (e, k) ∨ (s.partner d p = none ∧ e = d ∧ k = p)) →
      (s.portAt e k).nextEntry = some (n, g) → (s.portAt e k).paused = false → (s.portAt e k).down = false → g.lost = false →
      let y := s.portAt e k
      let wanted := (s.portAt d p).seqIn
      let number := match g.sent with
        | some a => a + BitVec.ofNat 12 g.got
        | none => y.seqOut
      (number ≠ y.seqOut ∨ (y.egress.map fun h => h.got + if h.lost then 1 else 0).sum < 2048) → ∀ good,
      let accepted := good = true ∧ number = wanted
      let known := accepted ∨ (good = true ∧ (wanted - number).toNat ≤ 2048)
      ∃ t, exec (.linkPacketReceive d p good) s = .next t ∧ t.io = s.io ∧ Claims.OnlyPorts s t ∧
        (∀ e' k',
          let a := if e' = e ∧ k' = k then { y with
              egress := y.egress.set n { g with
                sent := some (number - BitVec.ofNat 12 g.got), got := if known then g.got + 1 else g.got
                received := decide (known ∧ g.packets ≤ g.got + 1), lost := decide (¬ known) }
              seqOut := if number = y.seqOut then y.seqOut + 1 else y.seqOut, run := if accepted then 0 else y.run }
            else s.portAt e' k'
          t.portAt e' k' = if accepted ∧ e' = d ∧ k' = p then { a with seqIn := number + 1 } else a) ∧
        (¬ (accepted ∧ g.packets ≤ g.got + 1) → t.reqs = s.reqs) ∧
        (accepted ∧ g.packets ≤ g.got + 1 → (∀ q, q ≠ g.req → t.findReq q = s.findReq q) ∧
          ∀ r e' k' h, s.findReq g.req = some r → r.stage = .egress e' k' h →
            t.findReq g.req = some (
              if p = 7 then { r with stage := .home, crossed := true }
              else if (s.partner d p).isSome then { r with stage := .fabric d (h + 1) }
              else { r with stage := if r.away.isSome then .home else if r.back then .done else .ingress r.target }))) ∧
    (∀ upto g rest,
      let covered (h : Egress) : Bool := h.received &&
        h.sent.any (fun n => decide ((upto - (n + BitVec.ofNat 12 (h.packets - 1))).toNat < 2048))
      (s.portAt d p).egress = g :: rest → covered g = true →
      ∃ t, exec (.linkAck d p upto) s = .next t ∧ t.reqs = s.reqs ∧ t.io = s.io ∧
        Claims.LinkBecomes s t d p { s.portAt d p with egress := rest.dropWhile covered } id) ∧
    ((∃ g ∈ (s.portAt d p).egress, g.lost = true) → (s.portAt d p).paused = false → (s.portAt d p).down = false →
      let x := s.portAt d p
      let count := if x.replays = 0xFFFFFFFF then x.replays else x.replays + 1
      let excess := x.armed = true ∧ x.threshold ≤ count
      ∃ t, exec (.linkReplay d p) s = .next t ∧ t.reqs = s.reqs ∧
        Claims.LinkBecomes s t d p { x with
          egress := x.egress.map (fun g => { g with lost := false }), replays := count, run := min 256 (x.run + 1)
          down := decide (255 ≤ x.run), armed := x.armed && decide (¬ excess) } id ∧
        t.io.reports = s.io.reports ++ (if 255 ≤ x.run then [.linkDown d p] else []) ++ (if excess then [.linkEvent d p] else []))

/-- R20, R21, R415, R428: a link that is not held down and trains takes the widths that it reached at both ends and is up; when the
training fails or the ID exchange does not find the expected neighbour, the link is held down and reported. A die whose I/O port comes
out of its training with no lane is declared lost. -/
def Sys2Proof.Claims.LinksTrain : Prop :=
  ∀ (d : DieIx) (p : Fin 8) (r : Training) (s : State), p ≠ 0 → (s.portAt d p).busy = false → (s.portAt d p).down = false →
    let x := s.portAt d p
    let good := r.success = true ∧ (p = 7 ∨ r.partner = s.expectedId d p)
    let dead := p = 7 ∧ (s.dstate d = 1 ∨ s.dstate d = 2) ∧ (r.success = false ∨ nth r.widths 0 = 3)
    ∃ t, exec (.linkTraining d p r) s = .next t ∧ (dead → t.dstate d = 3) ∧ (¬ dead → t.reqs = s.reqs) ∧
      (good ∧ ¬ dead → t.io = s.io ∧ ∃ v, Claims.LinkBecomes s t d p { x with lmap := v, run := 0, down := false }
          (fun y => { y with lmap := v, run := 0, down := false }) ∧
        ∀ k : Fin 4, lmapModule v k.val = if portModules d p ≤ k.val then { width := 3, low := 0, high := 0 } else
          let w := nth r.widths k
          { width := w.toNat, low := if w = 2 then 0 else (lmapModule x.lmap k.val).low
            high := if w = 1 then 0 else (lmapModule x.lmap k.val).high }) ∧
      (¬ good ∧ ¬ dead → Claims.LinkBecomes s t d p { x with down := true } (fun y => { y with down := true }) ∧
        t.io.reports = s.io.reports ++ [.linkDown d p])

/-- Links train, and carry packets in order, with acknowledgements and replays. -/
def Obligations.LinksCarryPackets : Prop :=
  Claims.LinkPacketsMove ∧ Claims.LinksTrain

namespace Sys2Proof.Claims

open Sys2Proof.Machine

/-! ### Die control registers -/

/-- The package with die d replaced. -/
def withDie (s : State) (d : DieIx) (x : Die) : State := { s with dies := upd s.dies d x }

/-- Some context table entry of the die is present. -/
abbrev Occupied (x : Die) : Prop := ∃ i : Fin 16, (nth x.ctxs i).entry.state ≠ 0

/-- CTXSTAT after a write of entry i that was discarded: the entry's index, and one more bit (R418). -/
def refusedAt (x : Die) (i bit : Nat) : Die :=
  { x with ctxstat := (x.ctxstat &&& 0xF) ||| BitVec.ofNat 64 (i * 256 + 2 ^ bit) }

/-- A context with new values of its entry: while a task of it lives, the lottery goes on with the ticket count and the seed of
before (R34). -/
def renewed (c : CtxDie) (e : CtxEntry) (lives : Bool) : CtxDie :=
  { c with
    entry := e
    oldTickets := if lives = true ∧ e.tickets ≠ c.entry.tickets then some (c.oldTickets.getD c.entry.tickets) else c.oldTickets
    oldSeed := if lives = true ∧ e.lotseed ≠ c.entry.lotseed then some (c.oldSeed.getD c.entry.lotseed) else c.oldSeed }

/-- Die d with entry i of its context table replaced. -/
def withEntry (s : State) (d : DieIx) (i : Fin 16) (e : CtxEntry) : Die :=
  let x := s.dieAt d
  let c := nth x.ctxs i
  { x with ctxs := upd x.ctxs i (renewed c e (s.taskLives c.entry.ctxid)) }

/-- A submitted entry enters the queue of its context, or sets ERR (R320, R321, R40). -/
def submitted (x : Die) (q : Fin 16) (c : CtxDie) (v : BitVec 128) : Die :=
  let count := (v.extractLsb' 64 21).toNat
  let good := v &&& 0xFFFFFFFFFFE00000FF0000000000003F = 0 ∧ 0 < count ∧ count ≤ 2 ^ 20 ∧ c.queue.length < 16
  let c' : CtxDie := if good then { c with queue := c.queue ++ [v] } else { c with gq := { c.gq with err := true } }
  { x with ctxs := upd x.ctxs q c' }

/-- Writes of the die control registers that change one die: when, and the die after them. -/
def registerRow (s : State) (i : Instr) : Option (DieIx × Prop × Die) :=
  match i with
  | .irqcmd d w =>
    let x := s.dieAt d
    let t : TileIx := ⟨w.toNat % 64, Nat.mod_lt _ (by decide)⟩
    let y := nth x.tiles t
    some (d, True
      , if y.irq ≠ none ∨ (match y.stop with
            | some (_, .handler z) => decide (z.code = 0x0040)
            | _ => false) = true then { x with ibusy := true }
        else if y.task ≠ none ∧ y.cc.ctxid = w.extractLsb' 16 16 then
          { x with tiles := upd x.tiles t { y with irq := some x.irqval } }
        else { x with notask := true })
  | .atmodeWrite d w => some (d, True, { s.dieAt d with atmode := w.getLsbD 0 })
  | .sliceWriteback d w =>
    let x := s.dieAt d
    some (d, True, { x with wbbusy := x.wbbusy || w.getLsbD 0, wbdone := x.wbdone && !w.getLsbD 2 })
  | .writebackComplete d =>
    let x := s.dieAt d
    some (d, x.wbbusy = true
      , { x with slices := x.slices.map fun c => { sector := c.sector }, wbbusy := false, wbdone := true })
  | .accessTableWrite d p e upper w =>
    let x := s.dieAt d
    some (d, True
      , if upper then
          let bits : BitVec 128 := (w ++ nth (nth x.accessLo p) e) &&& 0x00FFFFFF00FFFFFF0000FFFFFF000007
          { x with access := upd x.access p (upd (nth x.access p) e bits) }
        else { x with accessLo := upd x.accessLo p (upd (nth x.accessLo p) e w) })
  | .routeTableWrite d e w =>
    let x := s.dieAt d
    some (d, True, if e.val < 768 then { x with routes := upd x.routes e (w &&& 0x3FFFFFFF) } else x)
  | .ditWrite d n k w =>
    let x := s.dieAt d
    let selected := ∃ i : Fin 16, (nth x.ctxs i).entry.state ≠ 0 ∧ (nth x.ctxs i).entry.ditsel.toNat = n.val
    let entry (j : Fin 4096) : BitVec 12 :=
      if j.val / 4 = k.val then w.extractLsb' (16 * (j.val % 4)) 12 else nth (nth x.dits n) j
    some (d, ¬ selected, { x with dits := upd x.dits n (Vector.ofFn entry) })
  | .partitionWrite d reg w =>
    let x := s.dieAt d
    some (d, reg.val = 64, if Occupied x then refusedAt x 0 0 else { x with partid := w.setWidth 8 })
  | .contextEntryWrite d i dw w =>
    let x := s.dieAt d
    let e := (nth x.ctxs i).entry
    let held := e.state = 1 ∨ e.state = 3
    match dw.val with
    | 1 => some (d, True, withEntry s d i { e with
        lotseed := if w.extractLsb' 0 32 = 0 then 1 else w.extractLsb' 0 32
        ssnum := if held then e.ssnum else w.extractLsb' 32 32 })
    | 2 => some (d, True
        , if held ∧ w.extractLsb' 0 18 ≠ e.sspart then refusedAt x i.val 0
          else withEntry s d i { e with sspart := w.extractLsb' 0 18, fpctl := fpctlWritten (w >>> 32) })
    | 3 => some (d, True, withEntry s d i { e with srseed := w })
    | 4 =>
      let root := w &&& 0x000000FFFFFF0001
      some (d, True, if held ∧ root ≠ e.ptroot then refusedAt x i.val 0 else withEntry s d i { e with ptroot := root })
    | 5 => some (d, True, withEntry s d i { e with tvec := w &&& 0x00FFFFFFFFFFFFF0 })
    | 6 => some (d, True, withEntry s d i { e with fbase := w.extractLsb' 0 12 })
    | 7 => some (d, True, x)
    | _ => none
  | .gqstatWrite d q w =>
    let x := s.dieAt d
    let c := nth x.ctxs q
    some (d, True, { x with ctxs := upd x.ctxs q { c with gq := { c.gq with
      frz := c.gq.frz && !w.getLsbD 1, err := c.gq.err && !w.getLsbD 2, wlost := c.gq.wlost && !w.getLsbD 3 } } })
  | .submitGraph d q hi =>
    let x := s.dieAt d
    let c := nth x.ctxs q
    some (d, True, if c.entry.state ≠ 0 ∧ s.live d = true then submitted x q c (hi ++ c.sublo) else x)
  | .tccmdOtherOp d w =>
    let x := s.dieAt d
    some (d, w.toNat % 16 ≠ 1 ∧ w.toNat % 16 ≠ 2, if x.tbusy = true then x else { x with tcode := 1 })
  | .dieRegisterWrite d o w =>
    let x := s.dieAt d
    if o = 0x110 then some (d, True, { x with dramce := w.setWidth 32 })
    else if o = 0x1400 then some (d, True, { x with ctxstat := x.ctxstat &&& ~~~(w &&& 0xF) })
    else if o = 0x3000 then some (d, True, { x with irqval := w })
    else if o = 0x3018 then
      some (d, True, { x with
        ibusy := x.ibusy && !w.getLsbD 0, idrop := x.idrop && !w.getLsbD 1, notask := x.notask && !w.getLsbD 2
        pbad := x.pbad && !w.getLsbD 3, pdone := x.pdone && !w.getLsbD 5 })
    else if o = 0x3100 then some (d, True, { x with tcrec := w &&& 0x00FFFFFFFFFFFFC0 })
    else if o = 0x40000 then some (d, True, { x with dcap := w.setWidth 8 })
    else if o = 0 ∨ o = 0x3020 ∨ o = 0x3110 then some (d, True, x)
    else none
  | _ => none

/-- The rows among them that a lost die discards (R415): all but the end of a write-back. -/
def discarded (i : Instr) : Option DieIx :=
  match i with
  | .irqcmd d _ | .atmodeWrite d _ | .sliceWriteback d _ | .accessTableWrite d _ _ _ _ | .routeTableWrite d _ _ | .ditWrite d _ _ _
  | .partitionWrite d _ _ | .contextEntryWrite d _ _ _ | .gqstatWrite d _ _ | .submitGraph d _ _ | .thresholdWrite d _ _ => some d
  | .tccmdOtherOp d w => if w.toNat % 16 ≠ 1 ∧ w.toNat % 16 ≠ 2 then some d else none
  | .precmdStop d w => if w.getLsbD 16 then none else some d
  | .precmdResume d w => if w.getLsbD 16 then some d else none
  | .taskResume d w => if w.toNat % 16 = 1 then some d else none
  | .taskRerun d w => if w.toNat % 16 = 2 then some d else none
  | _ => none

/-- A write of double word 0 of a context table entry: the codes of CTXID, ASID, TICKETS, DITSEL, STATE and PARTID (R207). -/
def entryOf (e : CtxEntry) (w : Word) : CtxEntry :=
  { e with
    ctxid := w.extractLsb' 0 16, asid := w.extractLsb' 16 16, tickets := w.extractLsb' 32 8, ditsel := w.extractLsb' 40 2
    state := w.extractLsb' 48 2, partid := w.extractLsb' 56 8 }

end Sys2Proof.Claims

open Sys2Proof Sys2Proof.Machine

/-- R251, R265, R266, R321, R388, R413, R417 to R424, R433: writes of the die control registers have the effect of their rules on
their die and change nothing else; those of a lost die are discarded (R415). A doorbell's write reaches its die through its I/O port,
as one packet from the host. Logs 51, 77, 86, 102 and 106 name the model's choices here. -/
def Sys2Proof.Claims.RegisterWritesComplete : Prop :=
  (∀ i d p x s, Claims.registerRow s i = some (d, p, x) → p → s.lost d = false → s.awaits = false →
    ∃ t, exec i s = .next t ∧ t = Claims.withDie s d x) ∧
  (∀ i d s, Claims.discarded i = some d → s.lost d = true → exec i s = .next s) ∧
  ∀ d q v s,
    let x := s.dieAt d
    let c := nth x.ctxs q
    let port := nth x.ports 7
    port.down = false ∧ port.paused = false →
    let y := if (c.entry.state = 1 ∨ c.entry.state = 3) ∧ s.live d = true then Claims.submitted x q c v else x
    exec (.doorbellSubmit d q v) s = .next { Claims.withDie s d { y with ports := upd y.ports 7 { port with hostIn := port.hostIn + 1 } } with
      io := { s.io with oshelIn := s.io.oshelIn + 1 } }

/-- R207, R418, R34: a write of double word 0 of entry i of the context table is checked as a whole; accepted, a free entry becomes
present with empty queue and tables, disarmed triggers and zero counters, a present one takes the new fields, or is free again. Logs 51 and 106 name the model's choices here. -/
def Sys2Proof.Claims.ContextEntriesChecked : Prop :=
  ∀ (d : DieIx) (i : Fin 16) (w : Word) (s : State), s.lost d = false → s.awaits = false →
    let x := s.dieAt d
    let c := nth x.ctxs i
    let e := Claims.entryOf c.entry w
    let from_ := c.entry.state
    let move := from_ = e.state ∧ from_ ≠ 0 ∨ from_ = e.state ∧ e.state = 0 ∨ from_ = 0 ∧ (e.state = 1 ∨ e.state = 2) ∧ e.ctxid ≠ 0
      ∨ from_ = 2 ∧ e.state = 0
    let twice := e.state ≠ 0 ∧ ∃ j : Fin 16, j ≠ i ∧ (nth x.ctxs j).entry.state ≠ 0 ∧ (nth x.ctxs j).entry.ctxid = e.ctxid
    let foreign := e.state ≠ 0 ∧ e.partid ≠ x.partid
    let held := (from_ = 1 ∨ from_ = 3) ∧ (e.ctxid ≠ c.entry.ctxid ∨ e.asid ≠ c.entry.asid ∨ e.partid ≠ c.entry.partid)
    ∃ t, exec (.contextEntryWrite d i 0 w) s = .next t ∧ t = Claims.withDie s d (t.dieAt d) ∧
      (e.tickets = 0 → t.dieAt d = Claims.refusedAt x i.val 0) ∧
      (e.tickets ≠ 0 ∧ ¬ move → t.dieAt d = Claims.refusedAt x i.val 1) ∧
      (e.tickets ≠ 0 ∧ move ∧ twice → t.dieAt d = Claims.refusedAt x i.val 2) ∧
      (e.tickets ≠ 0 ∧ move ∧ ¬ twice ∧ foreign → t.dieAt d = Claims.refusedAt x i.val 3) ∧
      (e.tickets ≠ 0 ∧ move ∧ ¬ twice ∧ ¬ foreign ∧ held → t.dieAt d = Claims.refusedAt x i.val 0) ∧
      (e.tickets ≠ 0 ∧ move ∧ ¬ twice ∧ ¬ foreign ∧ ¬ held →
        (∀ j, j ≠ i → nth (t.dieAt d).ctxs j = nth x.ctxs j) ∧ t.dieAt d = { x with ctxs := (t.dieAt d).ctxs } ∧
        let c' := nth (t.dieAt d).ctxs i
        c'.entry = e ∧
        (from_ = 0 ∧ e.state ≠ 0 → c'.queue = [] ∧ c'.live = none ∧ c'.slots = {} ∧ c'.red = [] ∧
          (∀ k, (nth c'.triggers k).armed = false ∧ (nth c'.triggers k).fired = false) ∧ (∀ k, nth c'.counters k = 0) ∧
          (∀ k, (nth c'.chunks k).loaded = false) ∧
          ∀ b : Nat, c'.touched.getLsbD b = true ↔
            (match x.homeId with
              | some id => b = id.toNat
              | none => x.plist.getLsbD b = true ∧ ∀ k, k < b → x.plist.getLsbD k = false)) ∧
        (e.state = 0 → c'.queue = [] ∧ c'.touched = 0) ∧
        (from_ ≠ 0 ∧ e.state ≠ 0 → c' = Claims.renewed c e (s.taskLives c.entry.ctxid)))

/-- R403, R418, R419: a double word of the partition die list is written while every entry of the context table is free, and otherwise
when it only clears bits of dies whose DSTATE is 3; any other write is discarded and sets CTXSTAT.BUSY. When the barrier home is
among the dies that are cleared, the live die of lowest ID in the list becomes the home and arrivals are counted afresh. Log 106 names the model's choices here. -/
def Sys2Proof.Claims.PartitionListWritten : Prop :=
  ∀ (d : DieIx) (reg : Fin 65) (w : Word) (s : State), reg.val < 64 → s.lost d = false → s.awaits = false →
    let x := s.dieAt d
    let old (b : Nat) : Bool := x.plist.getLsbD (64 * reg.val + b)
    let onlyLost := ∀ b, b < 64 → (w.getLsbD b = true → old b = true) ∧
      (old b = true ∧ w.getLsbD b = false → ∃ h, s.findDie (BitVec.ofNat 12 (64 * reg.val + b)) = some h ∧ s.dstate h = 3)
    ∃ t, exec (.partitionWrite d reg w) s = .next t ∧ t = Claims.withDie s d (t.dieAt d) ∧
      (Claims.Occupied x ∧ ¬ onlyLost → t.dieAt d = Claims.refusedAt x 0 0) ∧
      (¬ Claims.Occupied x ∨ onlyLost →
        let y := t.dieAt d
        let listed := ∀ id, x.barrierId = some id → y.plist.getLsbD id.toNat = true
        (∀ b, b < 4096 → y.plist.getLsbD b = if b / 64 = reg.val then w.getLsbD (b % 64) else x.plist.getLsbD b) ∧
        y = { x with plist := y.plist, homeId := y.homeId, ctxs := y.ctxs } ∧
        (¬ Claims.Occupied x → y.homeId = none ∧ y.ctxs = x.ctxs) ∧
        (Claims.Occupied x ∧ listed ∧ x.barrierId ≠ none → y.homeId = x.homeId ∧ y.ctxs = x.ctxs) ∧
        (Claims.Occupied x ∧ ¬ listed →
          (∀ id, y.homeId = some id → y.plist.getLsbD id.toNat = true ∧ (s.isLive id = true ∨ s.isAway id = true)) ∧
          (∀ id : BitVec 12, y.plist.getLsbD id.toNat = true → s.isLive id = true →
            ∃ h, y.homeId = some h ∧ h.toNat ≤ id.toNat) ∧
          ∀ q, (nth x.ctxs q).entry.state ≠ 0 → ∀ g, (nth y.ctxs q).live = some g → ∀ r ∈ g.records, r.arrived = false ∧ r.counted = false))

/-- Context table entries and the partition list are checked and written. -/
def Obligations.ContextTablesWritten : Prop :=
  Claims.ContextEntriesChecked ∧ Claims.PartitionListWritten

/-- R412, R350: a written threshold is armed; when REPLAYS has reached it, the link event is reported, once for the write. The
retry register's REPLAYS is written likewise. -/
def Sys2Proof.Claims.RetryRegistersWritten : Prop :=
  ∀ (d : DieIx) (p : Fin 8) (w : Word) (s : State), s.lost d = false → s.awaits = false →
    let x := s.portAt d p
    (∃ t, exec (.thresholdWrite d p w) s = .next t ∧ t.reqs = s.reqs ∧
      let excess := (w.setWidth 32 : BitVec 32) ≤ x.replays
      Claims.LinkBecomes s t d p { x with threshold := w.setWidth 32, armed := decide (¬ excess) } id ∧
      t.io.reports = s.io.reports ++ (if excess then [.linkEvent d p] else [])) ∧
    (p ≠ 0 → ∃ t, exec (.dieRegisterWrite d (0x20000 + 0x40 * p.val) w) s = .next t ∧ t.reqs = s.reqs ∧
      let excess := x.armed = true ∧ x.threshold ≤ (w.setWidth 32 : BitVec 32)
      Claims.LinkBecomes s t d p { x with replays := w.setWidth 32, armed := x.armed && decide (¬ excess) } id ∧
      t.io.reports = s.io.reports ++ (if excess then [.linkEvent d p] else []))

/-- Writes of die control registers take effect as their rules say. -/
def Obligations.DieRegistersWritten : Prop :=
  Claims.RegisterWritesComplete ∧ Claims.RetryRegistersWritten

open Sys2Proof Sys2Proof.Machine

/-- R225, R421: a write of PRECMD that is refused sets PBAD and does nothing else. An accepted stop asks every tile of the die that
runs a task of the context to stop, and PBUSY stands until none is waited for; an accepted resume, once what it reads is there,
sets PDONE. Log 44 names the model's choices here. -/
def Obligations.PreemptionCommanded : Prop :=
  ∀ (d : DieIx) (w : Word) (s : State), s.lost d = false → s.awaits = false →
    let x := s.dieAt d
    let ctxid : BitVec 16 := w.extractLsb' 0 16
    let resume := w.getLsbD 16
    let i : Instr := if resume then .precmdResume d w else .precmdStop d w
    let resident (q : Fin 16) := x.findCtx ctxid = some q ∧ (nth x.ctxs q).entry.state = 1
    ((¬ ∃ q, resident q) ∨ x.pbusy = true ∨ (resume = true ∧ ∃ q, resident q ∧ (nth x.ctxs q).precmd = false) →
      ∃ t, exec i s = .next t ∧ t = Claims.withDie s d { x with pbad := true }) ∧
    (∀ q, resident q → x.pbusy = false → resume = false →
      ∃ t, exec i s = .next t ∧ t = Claims.withDie s d (t.dieAt d) ∧
        (nth (t.dieAt d).ctxs q).precmd = true ∧ (t.dieAt d).pbad = x.pbad ∧
        (∀ k, t.tileAt d k =
          if (nth x.tiles k).task.isSome = true ∧ (nth x.tiles k).cc.ctxid = (nth x.ctxs q).entry.ctxid ∧ (nth x.tiles k).mode ≠ .halted then
            { nth x.tiles k with preempt := some ((nth x.tiles k).preempt.getD false) }
          else nth x.tiles k) ∧
        ((∃ k, (nth x.tiles k).task.isSome = true ∧ (nth x.tiles k).cc.ctxid = ctxid ∧
          ((nth x.tiles k).mode = .running ∨ (nth x.tiles k).mode = .ending)) → (t.dieAt d).pbusy = true ∧ (t.dieAt d).pdone = x.pdone) ∧
        ((∀ k, (nth x.tiles k).mode ≠ .running ∧ (nth x.tiles k).mode ≠ .ending) →
          (t.dieAt d).pbusy = false ∧ (t.dieAt d).pdone = true)) ∧
    (∀ q, resident q → x.pbusy = false → resume = true → (nth x.ctxs q).precmd = true →
      (s.resumeTiles d q).awaits = false →
      ∃ t, exec i s = .next t ∧ (t.dieAt d).pdone = true ∧ (nth (t.dieAt d).ctxs q).precmd = false)

namespace Sys2Proof.Claims

open Sys2Proof.Machine

/-- A command in TCCMD names the record i of the live graph of queue hq on die h, no command is in progress, and the record can be read
there: the package with what the read has left of itself is `s1` (R249, R422). -/
structure Named (s s1 : State) (d : DieIx) (w : Word) (h : DieIx) (hq : Fin 16) (i : Nat) (r : Record) : Prop where
  idle : (s.dieAt d).tbusy = false
  resident : ∃ q, (s.dieAt d).findCtx (w.extractLsb' 16 16) = some q ∧ (s.ctxAt d q).entry.state = 1 ∧
    ∃ bs, s.deviceRead d q .read ((s.dieAt d).tcrec &&& 0x00FFFFFFFFFFFFC0) 64 = (s1, .ok bs)
  open_ : s1.awaits = false
  record : s1.recordAt (w.extractLsb' 16 16) ((s.dieAt d).tcrec &&& 0x00FFFFFFFFFFFFC0) = some (h, hq, i)
  here : (s1.ctxAt h hq).record i = some r

end Sys2Proof.Claims

/-- R422, R423: a command of TCCMD reports a bad operand, a record in a state that it does not accept, a graph that is not live, and a
record that last ran on another die, and does nothing else; while BUSY it is discarded. A resume of a SUSPENDED record with a nonzero
BUDGET makes the record the next of its context on its tile, with the new BUDGET. A rerun of a FAULTED or SUSPENDED record makes it
PLACED on its tile, ahead of every other of its context; that of a RUNNING one stops its tile, and BUSY stands until the stop. Log 50 names the model's choices here. -/
def Obligations.TaskCommandsComplete : Prop :=
  ∀ (d : DieIx) (w : Word) (s : State), s.lost d = false → s.awaits = false →
    let x := s.dieAt d
    let ctxid : BitVec 16 := w.extractLsb' 16 16
    let budget : BitVec 32 := w.extractLsb' 32 32
    let va := x.tcrec &&& 0x00FFFFFFFFFFFFC0
    let resumes := w.toNat % 16 = 1
    let i : Instr := if resumes then .taskResume d w else .taskRerun d w
    let result (s1 : State) (code : BitVec 4) :=
      ∃ t, exec i s = .next t ∧ t = Claims.withDie s1 d { s1.dieAt d with tbusy := false, tcode := code }
    resumes ∨ w.toNat % 16 = 2 →
    (x.tbusy = true → ∃ t, exec i s = .next t ∧ t = s) ∧
    (x.tbusy = false → (∀ q, x.findCtx ctxid = some q → (nth x.ctxs q).entry.state ≠ 1) → result s 1) ∧
    (∀ q, x.tbusy = false → x.findCtx ctxid = some q → (nth x.ctxs q).entry.state = 1 →
      (∀ s1 c, s.deviceRead d q .read va 64 = (s1, .error c) → s1.awaits = false → result s1 1) ∧
      ∀ s1 bs, s.deviceRead d q .read va 64 = (s1, .ok bs) → s1.awaits = false → s1.recordAt ctxid va = none → result s1 3) ∧
    (∀ s1 h hq k r, Claims.Named s s1 d w h hq k r →
      (r.ranDie ≠ x.id → result s1 4) ∧
      (∀ task, r.ranDie = x.id → r.task = some task → resumes → budget = 0 → result s1 1) ∧
      (∀ task, r.ranDie = x.id → r.task = some task → resumes → budget ≠ 0 → r.state ≠ .suspended → result s1 2) ∧
      (∀ task, r.ranDie = x.id → r.task = some task → resumes → budget ≠ 0 → r.state = .suspended →
        let tile : TileIx := ⟨r.ranTile.toNat, r.ranTile.isLt⟩
        (∀ p ∈ (s1.tileAt d tile).preload.toList ++ (s1.tileAt d tile).placed, p.task.home ≠ h ∨ p.task.q ≠ hq ∨ p.task.index ≠ k) →
        ∃ t, exec i s = .next t ∧ (t.dieAt d).tcode = 0 ∧ (t.dieAt d).tbusy = false ∧
          ((t.ctxAt h hq).record k).bind (·.task) = some { task with budget } ∧
          ∃ a b, (t.tileAt d tile).placed = a ++ { task := { task with budget }, resume := true } :: b ∧
            ∀ p ∈ a, p.task.ctxid ≠ task.ctxid) ∧
      (∀ task, r.ranDie = x.id → r.task = some task → w.toNat % 16 = 2 → r.state = .faulted ∨ r.state = .suspended →
        task.home = h → task.q = hq → task.index = k →
        let tile : TileIx := ⟨r.ranTile.toNat, r.ranTile.isLt⟩
        let task' := if budget = 0 then task else { task with budget }
        ∃ t, exec i s = .next t ∧ ((t.ctxAt h hq).record k).map (·.state) = some .placed ∧
          ∃ a b, (t.tileAt d tile).placed = a ++ { task := task' } :: b ∧ ∀ p ∈ a, p.task.ctxid ≠ task.ctxid) ∧
      (∀ task, r.ranDie = x.id → r.task = some task → w.toNat % 16 = 2 → r.state = .waiting ∨ r.state = .ready ∨ r.state = .placed
        ∨ r.state = .done ∨ r.state = .cancelled → result s1 2) ∧
      (∀ task, r.ranDie = x.id → r.task = some task → w.toNat % 16 = 2 → r.state = .running →
        let tile : TileIx := ⟨r.ranTile.toNat, r.ranTile.isLt⟩
        let y := s1.tileAt d tile
        let task' := if budget = 0 then task else { task with budget }
        y.mode ≠ .halted → (∃ z, y.task = some z ∧ z.home = h ∧ z.q = hq ∧ z.index = k) →
        ∃ t, exec i s = .next t ∧ (t.dieAt d).tbusy = true ∧ (t.tileAt d tile).stop = some (y.now, .discard (some { task := task' })) ∧
          (t.tileAt d tile).task = y.task))

namespace Sys2Proof.Claims

open Sys2Proof.Machine

/-- The package at its Reset values; what stands outside it, and the nonvolatile store, is as before (R440, R441). -/
def Restarted (s t : State) : Prop :=
  t = { State.reset with
    io := { leaf := s.io.leaf, reports := s.io.reports }, host := s.host, agenda := s.agenda, nextReq := s.nextReq }

/-- The I/O die with another boot status. -/
def withBoot (s : State) (b : BootStatus) : State := { s with io := { s.io with boot := b } }

/-- The ROM waits for an image (R439). -/
def AwaitsImage (s : State) : Prop :=
  s.io.boot = .waiting ∨ s.io.boot = .tooLarge ∨ s.io.boot = .badKey ∨ s.io.boot = .badSignature ∨ s.io.boot = .oldVersion

/-- The checks of an image, in the order of R439. -/
def Trusted (i : FirmwareImage) : Prop :=
  i.bytes.length ≤ 32 * 2 ^ 20 ∧ Config.shake256 i.publicKey Config.keyDigest.length = Config.keyDigest ∧
    Config.xmssVerify i.publicKey i.bytes i.signature = true ∧ ¬ i.version < Config.minVersion

/-- A host access to n bytes of DRAM at a local address that some entry of the host filter allows (R432). -/
structure HostAllowed (s : State) (a : HostAccess) (d : DieIx) (l n : Nat) : Prop where
  memory : a.register = false
  port : (s.portAt d 7).down = false ∧ (s.portAt d 7).paused = false
  die : s.findDie (a.addr.extractLsb' 40 12) = some d
  live : s.live d = true
  addr : a.addr.toNat % 2 ^ 40 = l
  dram : 0 < n ∧ l + n ≤ 0x0BE0000000
  granule : l / 65536 = (l + n - 1) / 65536
  entry : ∃ e ∈ s.io.filter.toList, e.getLsbD 0 = true ∧ (e.extractLsb' 24 24).toNat ≤ l / 65536 ∧
    l / 65536 ≤ (e.extractLsb' 64 24).toNat ∧ (if a.write then e.getLsbD 2 else e.getLsbD 1) = true
  wf : (s.dieAt d).dram.wf = true
  clean : ∀ k ∈ (s.dieAt d).poison, ¬ (l / 32 ≤ k ∧ k ≤ (l + n - 1) / 32)
  room : (s.dieAt d).races = [] ∨ (s.dieAt d).slices.length + n / 32 + 8 < 32768

/-- Race records but for whether they stand in the spill area. -/
def bareRecords (x : Die) : List (Nat × RaceRec) := x.races.map fun p => (p.1, { p.2 with spilled := false })

end Sys2Proof.Claims

open Sys2Proof Sys2Proof.Machine

/-- R439 to R441: at power-good the ROM awaits an image; an image that fails a check leaves its reason in the boot status, one that
passes them all leaves every die live, in ATMODE 1, with its ID, POSN and interleave tables. A cold reset brings every item of state
but the nonvolatile store to its Reset value. An attestation commits its leaf index, and reports what the package signs, with the index
at bytes 128 to 131 and 2,820 bytes of signature; the 2^20th signature exhausts the key, and every later request is refused. Logs 1, 3,
7, 67 and 100 name the model's choices here. -/
def Obligations.BootEventsComplete : Prop :=
  ∀ s : State,
    (s.io.boot = .off → ∃ t, exec .powerGood s = .next t ∧ t = Claims.withBoot s .waiting) ∧
    (∃ t, exec .packageColdReset s = .next t ∧ Claims.Restarted s t) ∧
    (∀ i, Claims.AwaitsImage s → ¬ Claims.Trusted i → ∃ t b, exec (.firmwareImageLoad i) s = .next t ∧ t = Claims.withBoot s b ∧
      Claims.AwaitsImage t ∧ b ≠ .waiting ∧ (b = .tooLarge ↔ 32 * 2 ^ 20 < i.bytes.length)) ∧
    (∀ i, Claims.AwaitsImage s → Claims.Trusted i → ∃ t, exec (.firmwareImageLoad i) s = .next t ∧
      t.io.boot = (if 2 ^ 20 ≤ s.io.leaf then .keyExhausted else .running) ∧ t.io.leaf = s.io.leaf ∧ t.host = s.host ∧ ∀ d : DieIx,
        let x := 2 * i.boot.px.val + d.val % 2
        let y := 2 * i.boot.py.val + d.val / 2 % 2
        let z := 2 * i.boot.pz.val + d.val / 4
        (∀ p : Fin 8, (d, p) ∈ i.boot.miscabled → p ≠ 0 → p ≠ 7 → (t.portAt d p).down = true) ∧
        nth t.io.dstate d = 2 ∧ (t.dieAt d).atmode = true ∧ (t.dieAt d).id.toNat = x * 256 + y * 16 + z ∧
        (∀ k, (nth (t.dieAt d).ctxs k).entry.state = 0) ∧
        (∀ k : TileIx, (t.tileAt d k).posn.toNat % 2 ^ 12 = x * 256 + y * 16 + z ∧ (t.tileAt d k).posn.toNat / 2 ^ 24 = k.val ∧
          (t.tileAt d k).mode = .idle) ∧
        ∀ n (j : Fin 4096), nth (nth (t.dieAt d).dits n) j = (i.boot.dit[j.val % i.boot.dit.length]?).getD 0) ∧
    (∀ nonce, s.io.boot = .running → s.io.leaf < 2 ^ 20 → ∃ t, exec (.attestationRequest nonce) s = .next t ∧
      let m := bytesOf 32 nonce.toNat ++ Config.shake256 s.io.image 64 ++ Config.serial.toList ++ bytesOf 4 s.io.version.toNat
        ++ bytesOf 2 (((List.finRange 8).map fun d => (nth s.io.dstate d).toNat * 4 ^ d.val).sum) ++ List.replicate 10 0
      let report := m ++ (bytesOf 4 s.io.leaf).reverse ++ (Config.xmssSign s.io.leaf m).toList
      report.length = 2948 ∧ (∀ i < 4, report[128 + i]? = some (BitVec.ofNat 8 (s.io.leaf / 256 ^ (3 - i)))) ∧
      t = { s with io := { s.io with
        leaf := s.io.leaf + 1, boot := if s.io.leaf + 1 = 2 ^ 20 then .keyExhausted else .running
        reports := s.io.reports ++ [.attestation report], oshelOut := s.io.oshelOut + 1 } }) ∧
    (∀ nonce, Claims.AwaitsImage s ∨ (s.io.boot = .running ∨ s.io.boot = .keyExhausted) ∧ 2 ^ 20 ≤ s.io.leaf →
      ∃ t, exec (.attestationRequest nonce) s = .next t ∧
        t = { s with io := { s.io with reports := s.io.reports ++ [.attestationRefused], oshelOut := s.io.oshelOut + 1 } })

/-- R441: when the module is powered off no item of state stays but fuses, which are constants, and the nonvolatile store of R440; what
stands outside the package (host memory, what it has been told, and the model's own agenda and count of requests) is as before. Logs 1, 3
and 6 name the model's choices here. -/
def Sys2Proof.Claims.PowerOffResets : Prop := ∀ s : State, ∃ t, exec .modulePowerOff s = .next t ∧ Claims.Restarted s t

/-- R17, R437: every live die whose I/O port carries traffic is allotted 111 tokens and its share of the pool of 67, at most its DCAP, and its STEP follows MEAS and HOT; a
die that is not reached keeps what it has. With activity the shares are all of the pool: what the quotients leave goes, one token each,
to dies in decreasing order of the remainder, ties to the lower die ID; without any activity there are none. Logs 66, 86 and 102 name the model's choices here. -/
def Sys2Proof.Claims.PowerAllotted : Prop :=
  ∀ (m : Vector PowerMeasure 8) (s : State),
    let act (d : DieIx) := ((s.dieAt d).tiles.toList.map fun t => ((List.finRange 5).map fun a =>
      (nth t.activity a - nth t.counted a).toNat).sum).sum
    let reached (d : DieIx) : Bool := s.live d && !(s.portAt d 7).down && !(s.portAt d 7).paused
    let live := (List.finRange 8).filter reached
    let total := (live.map act).sum
    ∃ t share, exec (.powerInterval m) s = .next t ∧ t = { s with dies := t.dies } ∧
      (∀ d, reached d = false → t.dieAt d = s.dieAt d) ∧
      (total = 0 → ∀ d, share d = 0) ∧
      (total ≠ 0 → (live.map share).sum = 67 ∧
        (∀ d, reached d = true → 67 * act d / total ≤ share d ∧ share d ≤ 67 * act d / total + 1) ∧
        ∀ d e, reached d = true → reached e = true → share d = 67 * act d / total + 1 → share e = 67 * act e / total →
          67 * act e % total < 67 * act d % total ∨
          67 * act e % total = 67 * act d % total ∧ (s.dieAt d).id.toNat ≤ (s.dieAt e).id.toNat) ∧
      ∀ d, reached d = true →
        let x := s.dieAt d
        let tokens := min (111 + share d) x.dcap.toNat
        let y := t.dieAt d
        let meas := (nth m d).meas.toNat
        y.tokens.toNat = tokens ∧ y.meas = (nth m d).meas ∧ y.hot = (nth m d).hot ∧
        ((nth m d).hot = true → y.step = 3) ∧
        ((nth m d).hot = false ∧ 16 * tokens < meas → y.step.toNat = max (x.step.toNat - 1) 3) ∧
        ((nth m d).hot = false ∧ meas * (x.step.toNat + 2) ≤ 16 * tokens * (x.step.toNat + 1) ∧ x.step ≠ 15 → y.step = x.step + 1) ∧
        ((nth m d).hot = false ∧ meas ≤ 16 * tokens ∧
          (16 * tokens * (x.step.toNat + 1) < meas * (x.step.toNat + 2) ∨ x.step = 15) → y.step = x.step) ∧
        y = { x with
          tokens := y.tokens, meas := y.meas, hot := y.hot, step := y.step
          ports := upd x.ports 7 { nth x.ports 7 with hostIn := (nth x.ports 7).hostIn + 1 }
          tiles := x.tiles.map fun (k : Tile) => { k with counted := k.activity } }

/-- A power interval allots the pool, and switching the module off resets all but what R441 keeps. -/
def Obligations.PowerSwitches : Prop :=
  Claims.PowerAllotted ∧ Claims.PowerOffResets

/-- R229, R415: a present die that is declared lost has DSTATE 3, and so has one that system software orders lost; another write of
DSTATE stands as written. Log 64 names the model's choices here. -/
def Obligations.DieStatesChange : Prop :=
  ∀ (d : DieIx) (s : State),
    (nth s.io.dstate d ≠ 0 → nth s.io.dstate d ≠ 3 →
      (∃ t, exec (.dieLossDeclare d) s = .next t ∧ t.io.dstate = upd s.io.dstate d 3) ∧
      ∃ t, exec (.dstateWrite d 3) s = .next t ∧ t.io.dstate = upd s.io.dstate d 3) ∧
    ∀ v, v ≠ 3 → ∃ t, exec (.dstateWrite d v) s = .next t ∧ t = { s with io := { s.io with dstate := upd s.io.dstate d v } }

/-- R416: a die reset is refused, with no effect, unless DSTATE is 3 or no context is resident on the die. Otherwise every tile is at its
Reset value (POSN is what boot firmware has given it, and the records placed on a tile, a preloaded one with them, are the dispatcher's),
with the die's segment table in its tiles; slices, TLBs, router tables and retry counters are at theirs; ATMODE and DSTATE are 1; DRAM
and its poison marks are as they were, but for dirty sectors, whose bytes and marks DRAM holds as they stood before; and no other die
changes at all: the die's ends of its links take up the numbers of the far ends. Logs 65, 83 and 99 name the model's choices here. -/
def Obligations.DieResetActsAlone : Prop :=
  ∀ (d : DieIx) (s : State),
    let resident := ∃ q : Fin 16, (nth (s.dieAt d).ctxs q).entry.state = 1 ∨ (nth (s.dieAt d).ctxs q).entry.state = 3
    (nth s.io.dstate d ≠ 3 ∧ resident → ∃ t, exec (.dieReset d) s = .next t ∧ t = s) ∧
    (nth s.io.dstate d = 3 ∨ ¬ resident →
      ∃ t, exec (.dieReset d) s = .next t ∧ t.io = { s.io with dstate := upd s.io.dstate d 1 } ∧
        (∀ e, e ≠ d → t.dieAt e = s.dieAt e) ∧ t.host = s.host ∧
        let x := s.dieAt d
        let y := t.dieAt d
        (∀ k, nth y.tiles k = { posn := (nth x.tiles k).posn, placed := (nth y.tiles k).placed } ∧
          ∀ r, r ∈ (nth y.tiles k).placed ↔ r ∈ (nth x.tiles k).placed ∨ (nth x.tiles k).preload = some r ∧ r.chain = false) ∧
        y.slices = [] ∧ y.tlb2 = [] ∧ y.itlb = [] ∧ y.atmode = true ∧ y.ctxs = x.ctxs ∧ y.id = x.id ∧
        (∀ p e, nth (nth y.access p) e = 0) ∧ (∀ e, nth y.routes e = 0) ∧
        (∀ p, nth y.ports p = { threshold := (nth x.ports p).threshold, armed := (nth x.ports p).armed, lmap := (nth x.ports p).lmap
                                seqIn := (nth y.ports p).seqIn, seqOut := (nth y.ports p).seqOut } ∧
          match s.partner d p with
          | none => (nth y.ports p).seqIn = 0 ∧ (nth y.ports p).seqOut = 0
          | some (e, k) => (nth y.ports p).seqOut = (s.portAt e k).seqIn) ∧
        y.tcode = (if x.tbusy then 3 else x.tcode) ∧ y.tbusy = false ∧
        (∀ n, n ∈ y.poison ↔ n ∈ x.poison ∨ ∃ c ∈ x.slices, c.sector = n ∧ c.bad = true) ∧
        (∀ n, n ∈ y.flaws ↔ n ∈ x.flaws ∨ ∃ c ∈ x.slices, c.sector = n ∧ c.flaw = true) ∧
        (∀ a, (∀ c ∈ x.slices, c.sector = a / 32 → c.old = none) → y.dram.read a = x.dram.read a) ∧
        ∀ sec v, (∃ c ∈ x.slices, c.sector = sec) → (∀ c ∈ x.slices, c.sector = sec → c.old = some v) →
          ∀ k < 32, y.dram.read (sec * 32 + k) = BitVec.ofNat 8 (v.toNat / 256 ^ k))

/-- R17, R432: a host access to DRAM that the filter allows, while the I/O port of the die carries traffic, reads the bytes there or writes its own, with no effect on race records; one
that no entry allows is refused with no effect. Every request is one packet, and so is its answer. Logs 63, 86, 101 and 102 name the
model's choices here. -/
def Obligations.HostAccessesComplete : Prop :=
  ∀ (a : HostAccess) (s : State),
    (∀ d l, Claims.HostAllowed s a d l a.data.length →
      s.awaits = false → ∃ t, exec (.hostAccess a) s = .next t ∧ t.reqs = s.reqs ∧ t.host = s.host ∧
        (∀ e, Claims.bareRecords (t.dieAt e) = Claims.bareRecords (s.dieAt e)) ∧
        (∀ e, (t.dieAt e).tiles = (s.dieAt e).tiles) ∧ (∀ e, e ≠ d → t.dieAt e = s.dieAt e) ∧
        (a.write = false → (∀ b, (t.dieAt d).dram.read b = (s.dieAt d).dram.read b) ∧
          t.io = { s.io with
            oshelIn := s.io.oshelIn + 1, oshelOut := s.io.oshelOut + 1
            reports := s.io.reports ++ [.hostRead ((List.range a.data.length).map fun k => (s.dieAt d).dram.read (l + k))] }) ∧
        (a.write = true → t.io = { s.io with oshelIn := s.io.oshelIn + 1 } ∧ ∀ b, (t.dieAt d).dram.read b =
          if l ≤ b ∧ b < l + a.data.length then a.data.getD (b - l) 0 else (s.dieAt d).dram.read b)) ∧
    ((∀ d, s.hostPort a = some d → (s.portAt d 7).down = false ∧ (s.portAt d 7).paused = false) → s.meetsHeldEnd a = false →
      s.awaits = false → (a.write = false →
        ∃ t x, exec (.hostAccess a) s = .next t ∧ t.io.reports = s.io.reports ++ [x] ∧ (x = .hostRefused ∨ ∃ bs, x = .hostRead bs) ∧
          t.host = s.host) ∧
      (a.write = true → a.register = true → a.data ≠ [] →
        ((s.hostArrives a).hostRegister a = none → ∃ t, exec (.hostAccess a) s = .next t ∧
          t = (s.hostArrives a).report .hostRefused) ∧
        ∀ s1 bs, (s.hostArrives a).hostRegister a = some (s1, bs) → s1.awaits = false →
          ∃ t, exec (.hostAccess a) s = .next t ∧ t = s1)) ∧
    (a.register = false → (∀ e ∈ s.io.filter.toList, e.getLsbD 0 = false ∨ (if a.write then e.getLsbD 2 else e.getLsbD 1) = false) →
      a.data ≠ [] → s.awaits = false → ∃ t, exec (.hostAccess a) s = .next t ∧ t = { s with io := { s.io with
        oshelIn := s.io.oshelIn + 1, oshelOut := s.io.oshelOut + 1, reports := s.io.reports ++ [.hostRefused] } })

/-- R312: a sweep of the slices of a live die empties the race records whose writer and readers are all closed, and the published
ones whose barrier has flipped, and keeps every other; no byte of memory changes, and no tile's SEG. Logs 15 and 62 name the model's choices here. -/
def Sys2Proof.Claims.SweepEmptiesRecords : Prop :=
  ∀ (d : DieIx) (s : State), s.live d = true →
    ∃ t, exec (.segmentSweep d) s = .next t ∧ Claims.SameMemory s t ∧ t.reqs = s.reqs ∧ t.io = s.io ∧
      (∀ p, p ∈ (t.dieAt d).races ↔ p ∈ (s.dieAt d).races ∧ ¬
        (match p.2.published with
          | some (_, bar, phase) => s.phaseAt bar ≠ phase
          | none => (∀ w, p.2.writer = some w → s.openSegment w.1 w.2 = false) ∧ ∀ r ∈ p.2.readers, s.openSegment r.1 r.2 = false)) ∧
      (∀ e k, (t.tileAt e k).seg = (s.tileAt e k).seg) ∧ ∀ e, e ≠ d → (t.dieAt e).races = (s.dieAt e).races

namespace Sys2Proof.Claims

open Sys2Proof.Machine

/-! ### Requests on their way -/

/-- The request with this number has become r; every other stands as before. -/
def ReqBecomes (s t : State) (req : Nat) (r : Req) : Prop := t.findReq req = some r ∧ ∀ q, q ≠ req → t.findReq q = s.findReq q

/-- A request answered at die h: the response is there, or begins its way back (R269). -/
def answer (r : Req) (h : DieIx) (resp : Response) : Req :=
  { r with resp, back := true, stage := if h = r.die then .done else .fabric h 0 }

/-- A request of one access stands at its target in the package, in its turn (R270), and waits for no link (R348, R429). -/
structure AtTarget (s : State) (req : Nat) (r : Req) (p : Piece) (x : Place) (d : DieIx) : Prop where
  found : s.findReq req = some r
  stage : r.stage = .home
  away : r.away = none
  links : s.pastPort r = true
  turn : s.inTurn r = true
  pieces : r.pieces = [p]
  place : p.place = some x
  die : s.findDie x.die = some d
  calm : s.awaits = false

/-- n bytes of DRAM from a local address on, none in a poisoned sector. -/
structure DramRange (s : State) (d : DieIx) (l n : Nat) : Prop where
  some : 0 < n
  inside : l + n ≤ 0x0BE0000000
  clean : ∀ k ∈ (s.dieAt d).poison, ¬ (l / 32 ≤ k ∧ k ≤ (l + n - 1) / 32)
  wf : (s.dieAt d).dram.wf = true

/-- The slices of a die have room for a line: none of them is full, or any of their lines can leave (R249, R311). -/
def Room (s : State) (d : DieIx) : Prop := (s.dieAt d).races = [] ∨ (s.dieAt d).slices.length + 8 < 32768

/-- No race record stands against an access to the place, nor against a line that leaves its slice for it: the die holds no
record, or the place's page is not tracked and the slices have room (R306, R308, R311). -/
def NoRecords (s : State) (d : DieIx) (x : Place) : Prop :=
  (s.dieAt d).races = [] ∨ s.tracks d x = false ∧ (s.dieAt d).slices.length + 8 < 32768

/-- The bytes of a die's DRAM from l on. -/
def dramBytes (s : State) (d : DieIx) (l n : Nat) : List Byte := (List.range n).map fun i => (s.dieAt d).dram.read (l + i)

/-- DRAM of die d holds these bytes from l on; every other byte of memory is as before, and so are the tiles. -/
def DramBecomes (s t : State) (d : DieIx) (l : Nat) (bs : List Byte) : Prop :=
  (∀ e a, (t.dieAt e).dram.read a = if e = d ∧ l ≤ a ∧ a < l + bs.length then bs.getD (a - l) 0 else (s.dieAt e).dram.read a) ∧
  (∀ e k, t.tileAt e k = s.tileAt e k) ∧ t.host = s.host

/-- The bytes of a tile's windows from a on. -/
def winBytes (s : State) (d : DieIx) (k : TileIx) (a n : Nat) : List Byte := (List.range n).map fun i => (s.tileAt d k).winByte (a + i)

/-- The windows of tile k of die d hold these bytes from a on, at once when the tile is between cycles and otherwise at the end of its
cycle, where they rank fifth (R299); every other byte of memory is as before. -/
def WindowBecomes (s t : State) (d : DieIx) (k : TileIx) (a : Nat) (bs : List Byte) : Prop :=
  (∀ e b, (t.dieAt e).dram.read b = (s.dieAt e).dram.read b) ∧ t.host = s.host ∧
  (∀ e j, (e ≠ d ∨ j ≠ k) → t.tileAt e j = s.tileAt e j) ∧
  (s.inCycle d k = true → t.tileAt d k =
    { s.tileAt d k with remote := (s.tileAt d k).remote ++ bs.zipIdx.map fun b => (a + b.2, b.1) }) ∧
  (s.inCycle d k = false → ∀ b, (t.tileAt d k).winByte b =
    if a ≤ b ∧ b < a + bs.length then bs.getD (b - a) 0 else (s.tileAt d k).winByte b)

/-- An access to a tile window that the tile admits (R242): bank sets A or B, at the window address by role a. -/
structure WindowRange (s : State) (r : Req) (p : Piece) (x : Place) (d : DieIx) (k : TileIx) (a : Nat) : Prop where
  window : ∃ off, region x.local_ = .window k off ∧ (s.tileAt d k).byRole (pteRole x.leaf) off = a
  some : 0 < p.n
  inside : a + p.n ≤ 0x400000
  admits : r.level = .system ∨ (if a < 0x200000 then (s.tileAt d k).active else (s.tileAt d k).shadow).owner = r.ctxid
  free : s.windowBusy p = false

end Sys2Proof.Claims

open Sys2Proof Sys2Proof.Machine

/-- R258, R262, R264, R265, R348, R371: a request whose walks succeed is placed; one that nothing holds back leaves its tile, for its
home on the own die or for the fabric; a packet at its destination has arrived, any other takes the egress queue of its
flow's port, with the generation of its translation, and is dropped with cause 0x0023 after 64 hops or when the destination is not live; a
packet that sets out with no packet of its flow in flight takes the port that the route table gives then (R372); at the target the
checks place its accesses there; a request for host memory takes the egress queue of port 7. Logs 29, 60, 70 and 102 name the model's
choices here. -/
def Sys2Proof.Claims.RequestsTravel : Prop :=
  ∀ (req : Nat) (r : Req) (s : State), s.findReq req = some r →
    (∀ s1 ps, r.stage = .issued → s.needsWalk r = true → s.translateAll r r.pieces true = (s1, .ok ps) →
      ∃ t, exec (.pageWalk req) s = .next t ∧ Claims.ReqBecomes s t req { r with pieces := ps, gen := (s.dieAt r.die).gen } ∧
        Claims.SameMemory s t) ∧
    (∀ s1 ps, r.stage = .issued → r.sampling = [] → s.needsWalk r = false → (∀ c, r.kind ≠ .fence c) →
      s.translateAll r r.pieces true = (s1, .ok ps) → s1.heldBack (r.placedNow s ps) = false →
      s.targetOf { r with pieces := ps } ≠ r.die →
      ∃ t r', exec (.routerForward req) s = .next t ∧ Claims.ReqBecomes s t req r' ∧ Claims.SameMemory s t ∧
        r' = { r with pieces := ps, stage := .fabric r.die 0, target := r'.target, away := r'.away, phys := r'.phys,
                         gen := r'.gen } ∧ r'.target = s.targetOf { r with pieces := ps } ∧
        (∀ p ∈ ps, ∀ x, p.place = some x → x.die ≠ (s.dieAt r.die).id → ∀ q, (s.dieAt r.die).findCtx r.ctxid = some q →
          (t.ctxAt r.die q).touched.getLsbD x.die.toNat = true)) ∧
    (∀ d h, r.stage = .fabric d h → (if r.back then r.die else r.target) = d → r.back = true ∨ r.away = none →
      ∃ t, exec (.routerForward req) s = .next t ∧
        t = { s with reqs := t.reqs, flows := t.flows } ∧ Claims.ReqBecomes s t req { r with stage := if r.back then .done else .ingress d }) ∧
    (∀ d h p, r.stage = .fabric d h → r.back = false → r.away = none → r.target ≠ d → h < 64 → s.live r.target = true →
      (s.flowOf r).portAt d = some p → (s.partner d p).isSome = true ∨ s.leaves d p = true → (s.portAt d p).egress.length < 512 →
      ∃ t, exec (.routerForward req) s = .next t ∧ Claims.ReqBecomes s t req { r with stage := .egress d p h } ∧
        (t.portAt d p).egress = (s.portAt d p).egress ++ [{ req := r.id, gen := r.gen, packets := r.packets d p }] ∧ Claims.SameMemory s t) ∧
    (s.flows = [] → r.back = false → r.away = none → r.via = none → (s.dieAt r.die).id ≠ (s.dieAt r.target).id →
      (s.flowOf r).portAt r.die = s.nextPort r.die (s.dieAt r.die).id (s.dieAt r.target).id) ∧
    (∀ d h va et, r.stage = .fabric d h → r.back = false → r.away = none → r.target ≠ d → 64 ≤ h ∨ s.live r.target = false →
      r.kind = .load et va →
      ∃ t value, exec (.routerForward req) s = .next t ∧
        Claims.ReqBecomes s t req (Claims.answer r r.die { fault := some (0x0023, value) }) ∧ Claims.SameMemory s t) ∧
    (∀ d s1 ps, r.stage = .ingress d → s.targetAll r r.pieces true = (s1, .ok ps) →
      ∃ t, exec (.ingressRequest req) s = .next t ∧ Claims.ReqBecomes s t req { r with pieces := ps, stage := .home } ∧
        Claims.SameMemory s t) ∧
    (r.stage = .home → r.crossed = false → (s.hostVa r).isSome = true → (s.portAt r.target 7).egress.length < 512 →
      ∃ t, exec (.routerForward req) s = .next t ∧ Claims.ReqBecomes s t req { r with stage := .egress r.target 7 0 } ∧
        (t.portAt r.target 7).egress = (s.portAt r.target 7).egress ++ [{ req := r.id, gen := r.gen, packets := r.packets r.target 7 }] ∧ Claims.SameMemory s t)

/-- R30, R226, R267, R269, R290, R338, R339: the response of a request whose work is done, with no widening left of it, lands at its tile, where the
end of a cycle that awaits it stays open; that of a task that has ended is discarded. A page that the host cannot make resident fails a load with cause 0x0021 and the access of an item of class H
with 0x0022, which its response reports; such an item is performed once the host has made the page resident. Log 61 names the model's choices here. -/
def Sys2Proof.Claims.ResponsesLand : Prop :=
  ∀ (req : Nat) (r : Req) (s : State), s.findReq req = some r →
    (r.stage = .done → (∀ c, r.kind ≠ .fence c) → (∀ w ∈ s.widen, w.req ≠ some r.id) → r.orphan = false → r.captured = none →
      ∃ t, exec (.responseLand req) s = .next t ∧ Claims.ReqBecomes s t req { r with stage := .landed } ∧
        (let x := s.tileAt r.die r.tile
         let opens := x.phase = .finish ∧ r.kind.lands = true ∧ r.landsNow r.die r.tile x.now = true
         (¬ opens → t = { s with reqs := t.reqs }) ∧
         (opens → t = { s.setTile r.die r.tile { x with heldOpen := true } with reqs := t.reqs }))) ∧
    (r.stage = .done → (∀ c, r.kind ≠ .fence c) → (∀ w ∈ s.widen, w.req ≠ some r.id) → r.orphan = true →
      ∃ t, exec (.responseLand req) s = .next t ∧ t = { s with reqs := t.reqs } ∧ t.findReq req = none ∧
        ∀ q, q ≠ req → t.findReq q = s.findReq q) ∧
    (∀ et va p x, r.kind = .load et va → r.stage = .home → s.inTurn r = true → r.pieces = [p] → p.place = some x →
      0xC000000000 ≤ x.local_ → r.away = none → s.pastPort r = true →
      ∃ t, exec (.hostPageResolved req false) s = .next t ∧ t = { s with reqs := t.reqs } ∧
        Claims.ReqBecomes s t req (Claims.answer r r.target { fault := some (0x0021, p.va) })) ∧
    (∀ i p x, r.kind = .copy i → i.op.cls = 2 → r.stage = .home → r.unit = .home → s.inTurn r = true → r.pieces = [p] →
      p.place = some x → 0xC000000000 ≤ x.local_ → r.away = none → s.pastPort r = true → s.windowBusy p = false →
      (s.performHome r).awaits = false →
      ∃ t, exec (.hostPageResolved req true) s = .next t ∧ exec (.homeAccess req []) s = .next t) ∧
    (∀ i p x, r.kind = .copy i → i.op.cls = 2 → r.stage = .home → r.unit = .home → s.inTurn r = true → r.pieces = [p] →
      p.place = some x → 0xC000000000 ≤ x.local_ → r.away = none → s.pastPort r = true → s.awaits = false →
      i.engine = .se → i.indexVa = none → i.keyFail = 0 → i.cmd.isKgath = false → i.blk 16 8 = 0 → i.moves (i.index.getD 0) ≠ [] →
      ∃ t, exec (.hostPageResolved req false) s = .next t ∧ Claims.SameMemory s t ∧
        Claims.ReqBecomes s t req (Claims.answer r r.target (i.response (i.flags (i.index.getD 0)) [] (some (0x0022, p.va)))))

/-- R242, R250, R270, R273, R299: a load at its home reads the bytes of its place, in DRAM or in a tile window, extended as its type
says; a store writes its bytes there and nowhere else. -/
def Sys2Proof.Claims.PlainAccessesPerformed : Prop :=
  ∀ (req : Nat) (r : Req) (p : Piece) (x : Place) (d : DieIx) (s : State), Claims.AtTarget s req r p x d →
    (∀ et va, r.kind = .load et va → Claims.DramRange s d x.local_ p.n → Claims.NoRecords s d x →
      ∃ t, exec (.homeAccess req []) s = .next t ∧ Claims.DramBecomes s t d x.local_ [] ∧
        Claims.ReqBecomes s t req (Claims.answer r r.target
          { x := r.d.map fun i => (i, et.extend (Claims.dramBytes s d x.local_ p.n)) })) ∧
    (∀ va bs, r.kind = .store va bs → bs.length = p.n → Claims.DramRange s d x.local_ p.n → Claims.NoRecords s d x → x.isKey = false →
      ∃ t, exec (.homeAccess req []) s = .next t ∧ Claims.DramBecomes s t d x.local_ bs ∧
        Claims.ReqBecomes s t req (Claims.answer r r.target {})) ∧
    (∀ et va k a, r.kind = .load et va → Claims.WindowRange s r p x d k a →
      ∃ t, exec (.remoteAccess req) s = .next t ∧ t = { s with reqs := t.reqs } ∧
        Claims.ReqBecomes s t req (Claims.answer r r.target { x := r.d.map fun i => (i, et.extend (Claims.winBytes s d k a p.n)) })) ∧
    (∀ va bs k a, r.kind = .store va bs → bs.length = p.n → Claims.WindowRange s r p x d k a →
      ∃ t, exec (.remoteAccess req) s = .next t ∧ Claims.WindowBecomes s t d k a bs ∧
        Claims.ReqBecomes s t req (Claims.answer r r.target {}))

/-- R281 to R284, R299: an atomic reads its old value, which its response carries, and writes what its operation makes of it, in
DRAM at a near-memory unit or at the bank of a tile; a comparison that fails writes nothing. -/
def Sys2Proof.Claims.AtomicsPerformed : Prop :=
  ∀ (req : Nat) (r : Req) (p : Piece) (x : Place) (d : DieIx) (va : Word) (k : AtomKind) (s : State),
    Claims.AtTarget s req r p x d → r.kind = .atom va k →
    (Claims.DramRange s d x.local_ p.n → Claims.NoRecords s d x → x.isKey = false →
      let a := k.perform (Claims.dramBytes s d x.local_ p.n)
      (∀ bs, a.2 = some bs → bs.length = p.n) →
      ∃ t, exec (.nearMemoryOp req) s = .next t ∧ Claims.DramBecomes s t d x.local_ (a.2.getD []) ∧
        Claims.ReqBecomes s t req (Claims.answer r r.target { x := r.d.zip a.1 })) ∧
    (∀ j b, Claims.WindowRange s r p x d j b → s.bankBusy p = false →
      let a := k.perform (Claims.winBytes s d j b p.n)
      (∀ bs, a.2 = some bs → bs.length = p.n) →
      ∃ t, exec (.remoteAtomic req) s = .next t ∧ (∀ bs, a.2 = some bs → Claims.WindowBecomes s t d j b bs) ∧
        (a.2 = none → t = { s with reqs := t.reqs }) ∧
        Claims.ReqBecomes s t req (Claims.answer r r.target { x := r.d.zip a.1 }))

/-- R285, R286: lenq enters its value as entry TAIL and answers TAIL, ldeq answers entry HEAD and HEAD, each counting one more; a full or
empty queue and a malformed header answer their code and change nothing. Log 21 names the model's choices here. -/
def Obligations.ListQueuesPerformed : Prop :=
  ∀ (req : Nat) (r : Req) (p : Piece) (x : Place) (d : DieIx) (va : Word) (s : State), Claims.AtTarget s req r p x d →
    Claims.NoRecords s d x → x.isKey = false → Claims.DramRange s d x.local_ 32 →
    let m := (s.dieAt d).dram
    let l := x.local_
    let head := m.value l 8
    let tail := m.value (l + 8) 8
    let cap := m.value (l + 16) 2
    let length := (tail + 2 ^ 64 - head) % 2 ^ 64
    let malformed := cap = 0 ∨ 65536 < l % 65536 + 32 + 8 * cap ∨ cap < length ∨ m.value (l + 18) 14 ≠ 0
    let entry (i : Nat) := l + 32 + 8 * (i % cap)
    let answered (t : State) (xs : List Word) := Claims.ReqBecomes s t req (Claims.answer r r.target { x := r.d.zip xs })
    (∀ v, r.kind = .lenq va v →
      (malformed → ∃ t, exec (.nearMemoryOp req) s = .next t ∧ Claims.DramBecomes s t d l [] ∧ answered t [0xFFFFFFFFFFFFFFFE]) ∧
      (¬ malformed → length = cap →
        ∃ t, exec (.nearMemoryOp req) s = .next t ∧ Claims.DramBecomes s t d l [] ∧ answered t [0xFFFFFFFFFFFFFFFF]) ∧
      (¬ malformed → length ≠ cap → Claims.DramRange s d (entry tail) 8 →
        ∃ t, exec (.nearMemoryOp req) s = .next t ∧ answered t [BitVec.ofNat 64 tail] ∧
          (t.dieAt d).dram.value (entry tail) 8 = v.toNat ∧ (t.dieAt d).dram.value (l + 8) 8 = (tail + 1) % 2 ^ 64 ∧
          (∀ a, ¬ (entry tail ≤ a ∧ a < entry tail + 8) → ¬ (l + 8 ≤ a ∧ a < l + 16) → (t.dieAt d).dram.read a = m.read a) ∧
          ∀ e, e ≠ d → t.dieAt e = s.dieAt e)) ∧
    (r.kind = .ldeq va →
      (malformed → ∃ t, exec (.nearMemoryOp req) s = .next t ∧ Claims.DramBecomes s t d l [] ∧ answered t [0, 0xFFFFFFFFFFFFFFFE]) ∧
      (¬ malformed → head = tail →
        ∃ t, exec (.nearMemoryOp req) s = .next t ∧ Claims.DramBecomes s t d l [] ∧ answered t [0, 0xFFFFFFFFFFFFFFFF]) ∧
      (¬ malformed → head ≠ tail → Claims.DramRange s d (entry head) 8 →
        ∃ t, exec (.nearMemoryOp req) s = .next t ∧
          answered t [BitVec.ofNat 64 (m.value (entry head) 8), BitVec.ofNat 64 head] ∧
          Claims.DramBecomes s t d l (bytesOf 8 ((head + 1) % 2 ^ 64))))

/-- R399 to R401, R465: barinit, barexp and barwait act on the barrier object at their address, and an item's bytes are added to its own;
EXPECTED reached by ARRIVED flips PHASE and clears ARRIVED, and an addition that passes it sets OVF alone and is reported. Logs 20, 22 and 58 name the model's choices here. -/
def Obligations.BarrierObjectsPerformed : Prop :=
  ∀ (req : Nat) (r : Req) (p : Piece) (x : Place) (d : DieIx) (va : Word) (s : State),
    Claims.DramRange s d x.local_ 16 → Claims.Room s d →
    let l := x.local_
    let b := barrierOf ((s.dieAt d).dram.value l 16)
    let flipped (e n : Nat) (ph : Bool) : Barrier :=
      if e ≠ 0 ∧ n = e then { arrived := 0, phase := !ph, ovf := false, expected := e }
      else { arrived := n, phase := ph, ovf := false, expected := e }
    let becomes (t : State) (c : Barrier) :=
      barrierOf ((t.dieAt d).dram.value l 16) = c ∧ (∀ e, e ≠ d → t.dieAt e = s.dieAt e) ∧ (∀ e k, t.tileAt e k = s.tileAt e k) ∧
        ∀ a, ¬ (l ≤ a ∧ a < l + 16) → (t.dieAt d).dram.read a = (s.dieAt d).dram.read a
    (Claims.AtTarget s req r p x d → Claims.NoRecords s d x → x.isKey = false →
      let answered (t : State) (xs : List Word) := Claims.ReqBecomes s t req (Claims.answer r r.target { x := r.d.zip xs })
      (∀ n, r.kind = .barinit va n →
        (n.toNat < 2 ^ 48 → ∃ t, exec (.nearMemoryOp req) s = .next t ∧ answered t [] ∧
          becomes t { b with expected := n.toNat, arrived := 0, ovf := false }) ∧
        (2 ^ 48 ≤ n.toNat → ∃ t, exec (.nearMemoryOp req) s = .next t ∧ Claims.SameMemory s t ∧
          Claims.ReqBecomes s t req (Claims.answer r r.target { fault := some (0x0015, p.va) }))) ∧
      (∀ n, r.kind = .barexp va n →
        ∃ t, exec (.nearMemoryOp req) s = .next t ∧ answered t [BitVec.ofNat 64 ((s.dieAt d).dram.value l 8)] ∧
          (2 ^ 48 ≤ n.toNat ∨ n.toNat < b.arrived → becomes t { b with ovf := true }) ∧
          (n.toNat < 2 ^ 48 ∧ b.arrived ≤ n.toNat → becomes t
            (if b.ovf = true then { b with expected := n.toNat } else flipped n.toNat b.arrived b.phase))) ∧
      (∀ ph, r.kind = .barwait va ph →
        ∃ t, exec (.nearMemoryOp req) s = .next t ∧ Claims.DramBecomes s t d l [] ∧
          answered t [BitVec.ofNat 64 (b.arrived * 65536 + (if b.phase then 4 else 0) + (if b.ovf then 2 else 0)
            + (if b.phase = ph.getLsbD 0 then 0 else 1))])) ∧
    (∀ i ps, s.findReq req = some r → r.stage = .adding → r.kind = .copy i → r.pieces = p :: ps → p.place = some x →
      s.findDie x.die = some d → s.linkedTo r.target x.die = true →
      let excess := b.ovf = true ∨ (b.expected ≠ 0 ∧ b.expected < b.arrived + i.bytes) ∨ 2 ^ 48 ≤ b.arrived + i.bytes
      ∃ t, exec (.barrierAdd req) s = .next t ∧
        (¬ excess → becomes t (flipped b.expected (b.arrived + i.bytes) b.phase) ∧ Claims.ReqBecomes s t req (Claims.answer r d r.resp)) ∧
        (excess ∧ r.resp.fault = none → becomes t { b with ovf := true } ∧
          Claims.ReqBecomes s t req (Claims.answer r d { r.resp with fault := some (0x0015, p.va) })))

/-- R290: a widening at the crust's slice makes MIN the lesser and MAX the greater of what they were and the element's value; a bound that
is a NaN stays, and a value that is a NaN leaves the channel unbounded. Log 14 names the model's choices here. -/
def Sys2Proof.Claims.CrustWidens : Prop :=
  ∀ (index : Nat) (w : Widening) (s : State), s.widen[index]? = some w → w.chan < w.dh →
    s.linkedTo w.home (s.dieAt w.die).id = true → Claims.Room s w.die → Claims.DramRange s w.die (w.crust + 2 * w.chan) 2 →
    Claims.DramRange s w.die (w.crust + 2 * w.dh + 2 * w.chan) 2 →
    let m := (s.dieAt w.die).dram
    let mn := m.value (w.crust + 2 * w.chan) 2
    let mx := m.value (w.crust + 2 * w.dh + 2 * w.chan) 2
    let f := ElemType.bf16.fmt
    let nan (v : Nat) := f.value v = .nan
    ∃ t, exec (.crustWiden index) s = .next t ∧ t.widen = s.widen.eraseIdx index ∧ t.reqs = s.reqs ∧ (∀ e, e ≠ w.die → t.dieAt e = s.dieAt e) ∧
      (∀ e k, t.tileAt e k = s.tileAt e k) ∧
      let m' := (t.dieAt w.die).dram
      let mn' := m'.value (w.crust + 2 * w.chan) 2
      let mx' := m'.value (w.crust + 2 * w.dh + 2 * w.chan) 2
      (nan mn ∨ nan mx → mn' = mn ∧ mx' = mx) ∧
      (¬ nan mn ∧ ¬ nan mx ∧ nan w.value.toNat → mn' = 0xFF80 ∧ mx' = 0x7F80) ∧
      (¬ nan mn ∧ ¬ nan mx ∧ ¬ nan w.value.toNat →
        mn' = f.select {} false mn w.value.toNat ∧ mx' = f.select {} true mx w.value.toNat) ∧
      ∀ a, ¬ (w.crust + 2 * w.chan ≤ a ∧ a < w.crust + 2 * w.chan + 2) →
        ¬ (w.crust + 2 * w.dh + 2 * w.chan ≤ a ∧ a < w.crust + 2 * w.dh + 2 * w.chan + 2) → m'.read a = m.read a

/-- R306 to R308: an access to a sector that an open segment of another tile has written, not both synchronising, and a write of one
that an open segment of another tile has read, are refused with cause 0x0029 and the sector's address, and nothing is
performed. -/
def Sys2Proof.Claims.RacesRefused : Prop :=
  ∀ (req : Nat) (r : Req) (p : Piece) (x : Place) (d : DieIx) (s : State), Claims.AtTarget s req r p x d →
    Claims.DramRange s d x.local_ p.n → (s.dieAt d).slices.length + 8 < 32768 → s.tracks d x = true → x.local_ / 32 = (x.local_ + p.n - 1) / 32 →
    let sector := x.local_ / 32
    let rc := (s.dieAt d).race sector
    let me := tileId (s.dieAt r.die).id r.tile
    let written (sync : Bool) := ∃ w g, rc.writer = some (w, g) ∧ s.openSegment w g = true ∧ w ≠ me ∧ ¬ (rc.sync = true ∧ sync = true)
    let read := ∃ q ∈ rc.readers, s.openSegment q.1 q.2 = true ∧ q.1 ≠ me
    let fails := ∃ t, exec (.homeAccess req []) s = .next t ∧ Claims.SameMemory s t ∧
      t.findReq req = some (Claims.answer r r.target
        { fault := some (0x0029, p.va - BitVec.ofNat 64 x.local_ + BitVec.ofNat 64 (sector * 32)) })
    rc.published = none →
    (∀ et va, r.kind = .load et va → written r.acquire → fails) ∧
    (∀ va bs, r.kind = .store va bs → bs.length = p.n → written r.release.isSome ∨ read → fails)

/-- Race records refuse an access that races with what they name, and a sweep empties those that can name nothing open. -/
def Obligations.RaceRecordsServe : Prop :=
  Claims.SweepEmptiesRecords ∧ Claims.RacesRefused

namespace Sys2Proof.Claims

open Sys2Proof.Machine

/-- The event i completes, and the request, if it is still there, then stands as P says. -/
def MovesOn (s : State) (i : Instr) (req : Nat) (P : Req → Prop) : Prop :=
  ∃ t, exec i s = .next t ∧ ∀ u, t.findReq req = some u → P u

/-- A request stands at the unit that performs it, in its turn (R270), and waits neither for a link (R348, R429) nor for the end of the
cycle of a tile whose bytes it reaches (R299). -/
structure AtUnit (s : State) (req : Nat) (r : Req) (u : Unit_) : Prop where
  found : s.findReq req = some r
  stage : r.stage = .home
  unit  : r.unit = u
  turn  : s.inTurn r = true
  links : s.pastPort r = true
  free  : ∀ p ∈ r.pieces, s.windowBusy p = false

end Sys2Proof.Claims

open Sys2Proof Sys2Proof.Machine

/-- R258, R262, R264, R274, R275, R348, R371, R372: whatever a request is for, each event of its way completes once what it waits for is
there. A walk leaves every access of the request placed, or has failed the request; a request that nothing holds back leaves its tile; a
packet leaves the router that it stands at, once the queue of its flow's port has room; the checks at the target let it in or
answer it; an access to host memory leaves its home by port 7. -/
def Sys2Proof.Claims.RequestsMoveOn : Prop :=
  ∀ (req : Nat) (r : Req) (s : State), s.findReq req = some r →
    (r.stage = .issued → s.needsWalk r = true →
      Claims.MovesOn s (.pageWalk req) req fun u => u.stage ≠ .issued ∨ ∀ p ∈ u.pieces, p.place.isSome = true) ∧
    (r.stage = .issued → r.sampling = [] → s.needsWalk r = false → (∀ c, r.kind ≠ .fence c) →
      (∀ s1 ps, s.translateAll r r.pieces true = (s1, .ok ps) → s1.heldBack (r.placedNow s ps) = false) →
      Claims.MovesOn s (.routerForward req) req fun u => u.stage ≠ .issued) ∧
    (∀ d h, r.stage = .fabric d h → (∀ p, (s.flowOf r).portAt d = some p → (s.portAt d p).egress.length < 512) →
      Claims.MovesOn s (.routerForward req) req fun u => u.stage ≠ .fabric d h) ∧
    (∀ d, r.stage = .ingress d → Claims.MovesOn s (.ingressRequest req) req fun u => u.stage ≠ .ingress d) ∧
    (r.stage = .home → r.crossed = false → (s.hostVa r).isSome = true → (s.portAt r.target 7).egress.length < 512 →
      Claims.MovesOn s (.routerForward req) req fun u => u.stage = .egress r.target 7 0)

/-- Requests are placed, leave their tile, cross the fabric and arrive, each event completing once what it waits for is there. -/
def Obligations.RequestsReachTargets : Prop :=
  Claims.RequestsTravel ∧ Claims.RequestsMoveOn

/-- R270, R273, R281, R285 to R287, R291, R292, R299, R339, R346, R401: whatever a request is for, the unit that performs it does so in its
turn, once no access of its row waits for its way, and the request is then answered, or waits for what it has begun, or for the addition of its bytes to a barrier object; an
nchase may go on to its next node. The host resolves a page of an access of class H by making it resident, or fails the
access. Logs 13, 60 and 61 name the model's choices here. -/
def Sys2Proof.Claims.RequestsArePerformed : Prop :=
  ∀ (req : Nat) (r : Req) (s : State),
    (∀ evict, Claims.AtUnit s req r .home → s.mayBegin r = true →
      (∀ k ∈ evict, ∃ c ∈ (s.dieAt r.target).slices, c.sector = k) →
      (∀ s1, s.evictAll r.target evict = s1 → (s1.awayElse r (s1.performHome r)).awaits = false) →
      Claims.MovesOn s (.homeAccess req evict) req fun u => u.stage ≠ .home) ∧
    (Claims.AtUnit s req r .bank → (∀ i, r.kind = .copy i → ((s.performCopy r i).close r.target).awaits = false) →
      Claims.MovesOn s (.remoteAccess req) req fun u => u.stage ≠ .home) ∧
    (Claims.AtUnit s req r .atomicUnit → (∀ p ∈ r.pieces, s.bankBusy p = false) →
      Claims.MovesOn s (.remoteAtomic req) req fun u => u.stage ≠ .home) ∧
    (Claims.AtUnit s req r .near →
      Claims.MovesOn s (.nearMemoryOp req) req fun u => u.stage = .home → ∃ p c k h l, r.kind = .nchase p c k h l) ∧
    (Claims.AtUnit s req r .home → (s.hostVa r).isSome = true →
      ((∀ i va, r.kind = .copy i → s.hostVa r = some va →
          ((s.performCopy r i (some (if i.op.cls = 2 then 0x0022 else 0x0021, va))).close r.target).awaits = false) →
        Claims.MovesOn s (.hostPageResolved req false) req fun u => u.stage ≠ .home) ∧
      ∀ i, r.kind = .copy i → i.op.cls = 2 → (s.performHome r).awaits = false → Claims.MovesOn s (.hostPageResolved req true) req fun u => u.stage ≠ .home)

/-- Loads, stores and atomics are performed at the home of their bytes, and every other request at its unit. -/
def Obligations.HomePerformsAccesses : Prop :=
  Claims.PlainAccessesPerformed ∧ Claims.AtomicsPerformed ∧ Claims.RequestsArePerformed

/-- R30, R226, R275, R290, R313, R316, R317, R399, R404, R409 to R411, R465: an addition to a barrier object, a contribution to a
reduction slot, an arrival at the superstep barrier, an operation on a trigger counter and a widening of a crust complete at their home
once the links on their way carry traffic, and the landing of a response once the request is done, or the fence's condition holds. -/
def Sys2Proof.Claims.HomesAnswer : Prop :=
  ∀ (req : Nat) (r : Req) (s : State), s.findReq req = some r →
    (∀ i p ps x, r.stage = .adding → r.kind = .copy i → r.pieces = p :: ps → p.place = some x → s.linkedTo r.target x.die = true →
      Claims.MovesOn s (.barrierAdd req) req fun u => u.stage ≠ .adding) ∧
    (∀ c, r.stage = .home → r.kind = .copy c → c.cmd.isCred = true → s.inTurn r = true →
      (∀ s1, s.trackPieces r .syncWrite (if c.blk 16 8 = 0 then r.pieces else r.pieces.drop 1) = .ok s1 →
        (s1.contribute r c r.target).awaits = false) →
      Claims.MovesOn s (.contributionArrival req) req fun u => u.stage ≠ .home) ∧
    (Claims.AtUnit s req r .arrival → (∀ h, s.barrierHome r.die = some h → s.linkedTo r.die (s.dieAt h).id = true) →
      Claims.MovesOn s (.ssyncArrival req) req fun u => u.stage ≠ .home) ∧
    (∀ sel v set, r.stage = .home → (r.kind = .tcrd sel ∧ v = 0 ∧ set = none ∨ ∃ b, r.kind = .tcadd sel v b ∧ set = some b) →
      s.linkedTo r.die (sel.extractLsb' 16 12) = true → (s.performCounter r sel v set).awaits = false →
      Claims.MovesOn s (.triggerCounterChange req) req fun u => u.stage ≠ .home) ∧
    (∀ index w, s.widen[index]? = some w → s.linkedTo w.home (s.dieAt w.die).id = true →
      ∃ t, exec (.crustWiden index) s = .next t ∧ t.widen = s.widen.eraseIdx index) ∧
    ((r.stage = .done ∧ ∀ w ∈ s.widen, w.req ≠ some r.id) ∨ (∃ c, r.kind = .fence c ∧ r.stage = .issued ∧ s.fenceDone r c.toNat = true) →
      Claims.MovesOn s (.responseLand req) req fun u => r.orphan = false ∧ u.stage = .landed)

/-- Homes answer, and responses land at their tile, after the crust of key pages has been widened. -/
def Obligations.ResponsesReturn : Prop :=
  Claims.ResponsesLand ∧ Claims.CrustWidens ∧ Claims.HomesAnswer

open Sys2Proof Sys2Proof.Machine

/-- R127, R238: a line that is wanted or was requested ahead, and whose fetch succeeds, is in the instruction cache; one whose fetch fails
is recorded for the word's use when the tile waits for it, and counted by FETCHCE otherwise. -/
def Sys2Proof.Claims.CodeLinesLand : Prop :=
  ∀ (d : DieIx) (k : TileIx) (line : Word) (s : State),
    (s.tileAt d k).wantsLine line = true ∨ line ∈ (s.tileAt d k).fetch → s.lost d = false → (s.fetchLine d k line).1.awaits = false →
    let x := s.tileAt d k
    ∃ t, exec (.icacheFill d k line) s = .next t ∧ Claims.SameMemory s t ∧
      let y := t.tileAt d k
      y.fetch = (x.fetch.filter fun a => a ≠ line) ∧ y.cc = x.cc ∧
      (∀ w, (s.fetchLine d k line).2 = .ok w → (line, w) ∈ y.icache ∧ y.fetchce = x.fetchce) ∧
      (∀ c, (s.fetchLine d k line).2 = .error c →
        (x.wantsLine line = true → y.fetchBad = [(line, c)]) ∧
        (x.wantsLine line = false → y.fetchce = if x.fetchce = 0xFFFFFFFF then x.fetchce else x.fetchce + 1))

/-- R49, R247, R325, R327: a free tile for which a record is drawn preloads it: its image, slot descriptor and first line come to the shadow
bank set, the slot table to come and the line buffer, and the record leaves the tile's order; or its image or descriptor cannot be
read, which fails the record with that cause, and nothing is preloaded. A tile that runs a task, for which no record is placed, preloads
the successor that the draw at its boundary found, its record left WAITING. Logs 42 and 50 name the model's choices here. -/
def Sys2Proof.Claims.PreloadBrings : Prop :=
  ∀ (d : DieIx) (k : TileIx) (q : Fin 16) (p : Placed) (s : State),
    let x := s.tileAt d k
    let brought (t : State) (l : Loaded) := (∀ e j, (e ≠ d ∨ j ≠ k) → t.tileAt e j = s.tileAt e j) ∧
      let y := t.tileAt d k
      y.preload = some p ∧ y.shadow = l.set ∧ y.active = x.active ∧ y.preSlots = l.slots ∧ y.lineBuf = l.line ∧ y.drawn = none ∧
      y.placed = (x.placed.filter fun z => z ≠ p) ∧ y.cc = x.cc ∧ t.reqs = s.reqs
    s.live d = true → x.preload = none → x.mode ≠ .halted → s.gangHold d k = false → s.shadowFree d k = true →
    (x.drawn = some q → q ∈ s.candidates d k → s.nextOf d k q = some p → (s.preloadPlaced d k q p).awaits = false →
      ∃ t, exec (.preload d k) s = .next t ∧ (∀ l, (s.loadPlaced d k q p).2 = .ok l → brought t l) ∧
        ∀ c r, (s.loadPlaced d k q p).2 = .error c → (s.ctxAt p.task.home p.task.q).record p.task.index = some r →
          (t.tileAt d k).preload = none ∧ (t.tileAt d k).drawn = none ∧ p ∉ (t.tileAt d k).placed ∧
          ((t.ctxAt p.task.home p.task.q).live = none ∨
            ∃ r', (t.ctxAt p.task.home p.task.q).record p.task.index = some r' ∧ r'.state = .faulted ∧ r'.cause = c)) ∧
    (x.drawn = none → s.candidates d k = [] → s.chainFor d k = some (q, p) → x.chain = some (p.task.home, p.task.q, p.task.index) →
      let a := (s.recordBytes p.task.home p.task.q p.task.index).1.loadPlaced d k q p
      ∀ l, a.2 = .ok l → a.1.awaits = false → ∃ t, exec (.preload d k) s = .next t ∧ brought t l ∧ p.chain = true ∧
        (t.ctxAt p.task.home p.task.q).record p.task.index = (s.ctxAt p.task.home p.task.q).record p.task.index)

/-- R49, R52, R240, R247: a preloaded record starts on an idle tile: the bank sets exchange roles, x1 holds ARG, x2 the record's
address and every other scalar register zero, PC is ENTRY, the level is task, FPCTL, SRSEED and TVEC come from the context, the
silo and every engine register is clear, and the slot table is the preload's. A task that is resumed starts from its frame slot: its
scalar and vector registers, PC, level and semaphores are those held there. Logs 41 and 50 name the model's choices here. -/
def Sys2Proof.Claims.TaskStarts : Prop :=
  ∀ (d : DieIx) (k : TileIx) (q : Fin 16) (p : Placed) (s : State),
    let x := s.tileAt d k
    let e := (s.ctxAt d q).entry
    let at_ (o n : Nat) := (s.dieAt d).dram.value (e.frame k + o) n
    x.preload = some p → (s.dieAt d).findCtx p.task.ctxid = some q → s.mayStart d k q p.resume = true → p.chain = false →
    s.gangHold d k = false → (s.startTask d k q p).awaits = false →
    (∀ z, p.resume = true → s.validSlot d k q = some z →
      ∃ t, exec (.taskStart d k) s = .next t ∧
        let y := t.tileAt d k
        y.preload = none ∧ y.roleB = !x.roleB ∧ y.mode = (if z.mode = .ended then .ending else .running) ∧
        y.task.map (·.record) = some z.task.record ∧ y.cc.ctxid = e.ctxid ∧
        (∀ i, nth y.cc.x i = BitVec.ofNat 64 (at_ (0x100 + 8 * i.val) 8)) ∧ y.cc.pc = BitVec.ofNat 64 (at_ 8 8) &&& 0x00FFFFFFFFFFFFF0 ∧
        (y.cc.level = .system ↔ at_ 0x10 8 % 2 = 1) ∧
        (∀ i, (nth y.sems i).count = BitVec.ofNat 8 (at_ (0x2A8 + 2 * i.val) 1)) ∧
        (∀ i, nth y.ve.v i = BitVec.ofNat 4096 (at_ (0x2000 + 512 * i.val) 512))) ∧
    (p.resume = false →
    ∃ t, exec (.taskStart d k) s = .next t ∧
      let y := t.tileAt d k
      y.preload = none ∧ y.mode = .running ∧ y.task = some { p.task with base := 0 } ∧ y.roleB = !x.roleB ∧ y.slots = x.preSlots ∧
      y.silo = [] ∧ y.ve = {} ∧ y.me = {} ∧ (∀ i, nth y.sems i = {}) ∧ (∀ i, nth y.streams i = {}) ∧ (∀ i, nth y.seqs i = {}) ∧
      y.icache = x.lineBuf.toList ∧ y.seg = x.seg + 1 ∧
      (∀ i, nth y.cc.x i = if i = 1 then p.task.arg else if i = 2 then p.task.record else 0) ∧
      y.cc.pc = p.task.entry ∧ y.cc.level = .task ∧ y.cc.fpctl = e.fpctl ∧ y.cc.srseed = e.srseed ∧ y.cc.trap = { tvec := e.tvec } ∧
      y.cc.ctxid = e.ctxid ∧ y.cc.asid = e.asid ∧ y.cc.tcyc = 0 ∧ y.cc.mode = .ready)

/-- R41, R50, R51, R305: a task whose control core has ended and of which nothing is in flight leaves its tile, whose segment closes; its
record is DONE when its graph lives on, or FAULTED when its successor list cannot be read. Logs 39 and 46 name the model's choices here. -/
def Sys2Proof.Claims.TaskCompletes : Prop :=
  ∀ (d : DieIx) (k : TileIx) (task : Task) (s : State),
    let x := s.tileAt d k
    x.task = some task → s.live d = true → x.mode = .ending → x.phase = .start → x.stop = none → x.refused = [] → s.taskOver d k = true →
    x.segmentsFull = false →
    let left := (s.leaveTile d k).closeSegment d k
    (left.retireDone task.home task.q task.index x.used).awaits = false →
    ∃ t, exec (.taskComplete d k) s = .next t ∧
      let y := t.tileAt d k
      y.mode = .idle ∧ y.task = none ∧ y.seg = x.seg + 1 ∧
      ∀ r, s.live task.home = true → (s.ctxAt task.home task.q).record task.index = some r →
        let ends (st : TaskState) := (t.ctxAt task.home task.q).live = none ∨
          ((t.ctxAt task.home task.q).record task.index).map (·.state) = some st
        let s2 := (left.writeRecord task.home task.q task.index 44 (bytesOf 4 (min x.used 0xFFFFFFFF))).changeRecord task.home task.q
          task.index fun r => { r with state := .done, cause := 0 }
        (∀ js, (s2.successors task.home task.q task.index).2 = .ok js → (∀ j ∈ js, j < s.graphSize task.home task.q) → ends .done) ∧
        ∀ c, (s2.successors task.home task.q task.index).2 = .error c → ends .faulted

/-- A placed record is preloaded, started, and completed. -/
def Obligations.TasksRun : Prop :=
  Claims.PreloadBrings ∧ Claims.TaskStarts ∧ Claims.TaskCompletes

/-- R46, R60 to R62, R402: a record forwarded to its die enters its tile's order; a gang starts together when every participant's tile is
free, each participant on its tile but one that cannot be brought there, whose record ends FAULTED; a start signal lands; the tiles
without participants take SSNUM after a firing, that of a barrier home in another package once none of the die's participants is yet to
arrive: each of these once the links from where it comes carry traffic. Logs 14 and 70 name the model's choices here. -/
def Sys2Proof.Claims.TasksAreTold : Prop :=
  ∀ (d : DieIx) (q : Fin 16) (s : State), s.lost d = false →
    (∀ i k p, (s.ctxAt d q).forwarded[i]? = some (k, p) → s.linkedTo p.task.home (s.dieAt d).id = true →
      ∃ t, exec (.recordForward d q i) s = .next t ∧ (t.ctxAt d q).forwarded = (s.ctxAt d q).forwarded.eraseIdx i ∧
        (t.tileAt d k).cc = (s.tileAt d k).cc ∧
        ((s.tileAt d k).preload = none → (t.tileAt d k).placed = (s.tileAt d k).placed ++ [p])) ∧
    ((∃ g, (s.ctxAt d q).live = some g ∧ g.gang = true) → s.gang d q ≠ [] →
      (∀ m ∈ s.gang d q, s.mayStart m.2.2.1 m.2.2.2.1 m.2.2.2.2 = true ∧ s.shadowFree m.2.2.1 m.2.2.2.1 = true) →
      let s1 := s.modCtx d q fun c => { c with live := c.live.map fun g => { g with gang := false } }
      (((s.gang d q).foldl State.startParticipant s1).settleGraph d q).awaits = false →
      ∃ t, exec (.gangStart d q) s = .next t ∧ (∀ g, (t.ctxAt d q).live = some g → g.gang = false) ∧
        ((∀ m ∈ s.gang d q, m.2.1.home = d ∧ m.2.1.q = q ∧ m.2.1.index = m.1) →
          ((s.gang d q).map fun m => (m.2.2.1, m.2.2.2.1)).Nodup →
          ∀ m ∈ s.gang d q,
            let y := t.tileAt m.2.2.1 m.2.2.2.1
            (y.mode = .running ∧ y.task = some { m.2.1 with base := 0 } ∧ y.cc.pc = m.2.1.entry ∧ y.cc.level = .task) ∨
              (t.ctxAt d q).live = none ∨ ((t.ctxAt d q).record m.1).map (·.state) = some .faulted)) ∧
    (∀ g i task h k hq l, (s.ctxAt d q).live = some g → g.gang = true → s.gang d q = [(i, task, h, k, hq)] → s.mayStart h k hq = true →
      s.shadowFree h k = true →
      let s1 := s.modCtx d q fun c => { c with live := c.live.map fun g => { g with gang := false } }
      ((s1.discardPreload h k).loadTask h hq task).2 = .ok l →
      ((s1.startParticipant (i, task, h, k, hq)).settleGraph d q).awaits = false →
      ∃ t, exec (.gangStart d q) s = .next t ∧ (t.tileAt h k).mode = .running ∧ (t.tileAt h k).task = some { task with base := 0 } ∧
        (t.tileAt h k).cc.pc = task.entry ∧ ∀ g', (t.ctxAt d q).live = some g' → g'.gang = false) ∧
    (∀ k, (s.tileAt d k).signal = true → s.homeLinked d = true →
      ∃ t, exec (.startSignal d k) s = .next t ∧ t = s.setTile d k { s.tileAt d k with
        signal := false, super := (s.tileAt d k).super.map fun p => { p with started := true } }) ∧
    (s.homeAway d = true → s.expecting d q = true →
      ∃ t, exec (.ssnumUpdate d q) s = .next t ∧ (t.ctxAt d q).ssnews = false ∧
        (t.ctxAt d q).entry.ssnum = (s.ctxAt d q).entry.ssnum + 1 ∧
        ∀ k task, (s.tileAt d k).task = some task → task.ssp = true → (s.tileAt d k).cc.ctxid = (s.ctxAt d q).entry.ctxid →
          (s.tileAt d k).super.isSome = true → (t.tileAt d k).signal = true) ∧
    ((s.ctxAt d q).ssnews = true → s.homeLinked d = true → s.homeAway d = false →
      ∃ t, exec (.ssnumUpdate d q) s = .next t ∧ (t.ctxAt d q).ssnews = false ∧ t.reqs = s.reqs ∧
        ∀ k, t.tileAt d k =
          if (s.tileAt d k).cc.ctxid = (s.ctxAt d q).entry.ctxid ∧ (∃ task, (s.tileAt d k).task = some task ∧ task.ssp = false) then
            { s.tileAt d k with cc := { (s.tileAt d k).cc with ssnum := (s.ctxAt d q).entry.ssnum } }
          else s.tileAt d k)

/-- Code lines land in the instruction cache; forwarded records, gangs and signals reach the tiles that they are for. -/
def Obligations.RecordsReachTiles : Prop :=
  Claims.CodeLinesLand ∧ Claims.TasksAreTold

/-- R40, R59, R322: the head of the queue of a resident context without a live graph and not frozen is taken: its graph lives,
unless it has ended at once or breaks a condition of its gang, which freezes the queue with cause 0x0034; one without participants of a
gang breaks none. Logs 45, 97 and 98 name the model's choices here. -/
def Obligations.GraphsAreTaken : Prop :=
  ∀ (d : DieIx) (q : Fin 16) (v : BitVec 128) (rest : List (BitVec 128)) (s : State),
    (s.ctxAt d q).queue = v :: rest → s.live d = true → (s.ctxAt d q).entry.state = 1 → (s.ctxAt d q).live = none →
    (s.ctxAt d q).gq.frz = false → (s.takeGraph d q v rest).awaits = false →
    let gbase := (v.extractLsb' 0 64 : Word) &&& 0x00FFFFFFFFFFFFC0
    let count := (v.extractLsb' 64 21).toNat
    ∃ t, exec (.graphTake d q) s = .next t ∧ (t.ctxAt d q).queue = rest ∧
      ((∃ g, (t.ctxAt d q).live = some g ∧ g.gbase = gbase ∧ g.records.length = count) ∨
        (t.ctxAt d q).live = none ∧ (t.ctxAt d q).graphs = (s.ctxAt d q).graphs + 1 ∨
        (t.ctxAt d q).live = none ∧ (t.ctxAt d q).gq.frz = true ∧ (t.ctxAt d q).gq.cause = 0x0034 ∧
          let s0 := s.modCtx d q fun c => { c with queue := rest, live := some { gbase, records := [] } }
          ∃ i < count, (s0.submitted d q i).2.1.ssp = true)

/-- R220, R235: a tile that is idle, or whose task a swap takes out and of whose requests none is on its way, takes up the parked task of a
context that is swapped in: its scalar registers, PC, level, semaphores and vector registers are those of its frame slot, and the task
is parked no more. Log 41 names the model's choices here. -/
def Sys2Proof.Claims.SwapRestoresTile : Prop :=
  ∀ (d : DieIx) (k : TileIx) (q : Fin 16) (p : Parked) (s : State),
    s.incoming d k = some (q, p) → s.live d = true →
    let out := ∃ a, s.leaving (s.ctxAt d q).entry.ctxid = some a ∧ (s.tileAt d k).mode = .halted ∧ (s.tileAt d k).runs a = true ∧
      s.tileQuiet d k a = true ∧ (s.tileAt d k).segmentsFull = false
    (s.tileAt d k).mode = .idle ∨ out →
    (∀ b, (s.takeIn d k q p b).awaits = false) →
    let base := (s.ctxAt d q).entry.frame k
    let at_ (o n : Nat) := (s.dieAt d).dram.value (base + o) n
    ∃ t, exec (.swapInTile d k) s = .next t ∧ (t.ctxAt d q).parkedAt k = none ∧
      let y := t.tileAt d k
      y.mode = (if p.mode = .ended then .ending else .running) ∧ y.task.map (·.record) = some p.task.record ∧
      y.cc.ctxid = (s.ctxAt d q).entry.ctxid ∧ y.active.owner = (s.ctxAt d q).entry.ctxid ∧
      (∀ i, nth y.cc.x i = BitVec.ofNat 64 (at_ (0x100 + 8 * i.val) 8)) ∧ y.cc.pc = BitVec.ofNat 64 (at_ 8 8) &&& 0x00FFFFFFFFFFFFF0 ∧
      (y.cc.level = .system ↔ at_ 0x10 8 % 2 = 1) ∧
      (∀ i, (nth y.sems i).count = BitVec.ofNat 8 (at_ (0x2A8 + 2 * i.val) 1)) ∧
      (∀ i, nth y.ve.v i = BitVec.ofNat 4096 (at_ (0x2000 + 512 * i.val) 512))

/-- R61, R404, R406: the first arrival of a participant in a superstep counts once at the barrier home; the last one fires the barrier:
SSNUM rises and SSARR takes the count of the completed participants. Log 98 names the model's choices here. -/
def Sys2Proof.Claims.ArrivalsCount : Prop :=
  ∀ (req : Nat) (r : Req) (h : DieIx) (q : Fin 16) (task : Task) (x : Record) (s : State),
    s.findReq req = some r → r.kind = .ssync → r.stage = .home → r.pieces = [] → s.inTurn r = true →
    r.away = none → s.barrierHome r.die = some h → s.linkedTo r.die (s.dieAt h).id = true → (s.dieAt h).findCtx r.ctxid = some q →
    (s.tileAt r.die r.tile).cc.ctxid = r.ctxid → (s.tileAt r.die r.tile).task = some task →
    (s.ctxAt task.home task.q).record task.index = some x →
    let c := s.ctxAt h q
    ∃ t, exec (.ssyncArrival req) s = .next t ∧
      (x.arrived = true → t.findReq req = some (Claims.answer r r.die {}) ∧ (t.ctxAt h q).ssarr = c.ssarr) ∧
      (x.arrived = false → c.ssarr + 1 ≠ c.entry.sspart → t.findReq req = some (Claims.answer r r.die {}) ∧
        (t.ctxAt h q).ssarr = c.ssarr + 1 ∧ (t.ctxAt h q).entry.ssnum = c.entry.ssnum ∧
        ((t.ctxAt task.home task.q).record task.index).map (·.arrived) = some true) ∧
      (x.arrived = false → c.ssarr + 1 = c.entry.sspart → c.ssdone ≠ c.entry.sspart → c.entry.sspart ≠ 0 → s.live h = true →
        (s.dieAt h).plist.getLsbD (s.dieAt h).id.toNat = true → s.findDie (s.dieAt h).id = some h →
        (t.ctxAt h q).ssarr = c.ssdone ∧ (t.ctxAt h q).entry.ssnum = c.entry.ssnum + 1)

/-- R316, R317, R345: a contribution in its turn is folded and its request goes on; one that comes early waits; one that the slot does
not accept sets the slot failed and traps with cause 0x0014. Log 53 names the model's choices here. -/
def Sys2Proof.Claims.ContributionsFold : Prop :=
  ∀ (req : Nat) (r : Req) (c : CopyItem) (q : Fin 16) (x : RedSlot) (s s1 : State),
    s.findReq req = some r → r.kind = .copy c → c.cmd.isCred = true → r.stage = .home → s.inTurn r = true → r.away = none →
    s.trackPieces r .syncWrite (if c.blk 16 8 = 0 then r.pieces else r.pieces.drop 1) = .ok s1 →
    (s1.contribute r c r.target).awaits = false → (s1.dieAt r.target).findCtx r.ctxid = some q → (s1.ctxAt r.target q).waitingCount < 256 →
    let slot := c.blk 24 4
    let grain := c.blk 28 4 + c.t
    let bytes := if x.et = 9 then 2 else 4
    let off := (c.dst - x.tbase).toNat
    let held (t : State) := ((t.ctxAt r.target q).red.find? fun p => decide (p.1 = slot)).map (·.2)
    ((s1.ctxAt r.target q).red.find? fun p => decide (p.1 = slot)).map (·.2) = some x →
    let fits := x.failed = false ∧ c.op.et.code = x.et.toNat ∧ off % bytes = 0 ∧ off + c.bytes ≤ x.tlen.toNat * bytes ∧ grain < x.g.toNat
    ∃ t, exec (.contributionArrival req) s = .next t ∧
      (fits ∧ grain = x.next ∧ x.waiting = [] → ∃ y, held t = some y ∧ y.next = x.next + 1 ∧ y.failed = false ∧ y.waiting = [] ∧
        ∃ r', t.findReq req = some r' ∧ r'.resp.fault = none ∧
          r'.stage = (if c.blk 16 8 ≠ 0 then .adding else if r.target = r.die then .done else .fabric r.target 0)) ∧
      (fits ∧ x.next < grain ∧ x.waiting = [] → held t = some { x with waiting := [(grain, c.dst, c.data, r.id)] } ∧
        t.findReq req = some { r with stage := .waiting }) ∧
      (¬ fits ∨ grain < x.next → held t = some { x with failed := true } ∧
        ∃ r', t.findReq req = some r' ∧ r'.resp.fault = some (0x0014, BitVec.ofNat 64 slot))

/-- R387, R409 to R411: a trigger counter is read, set, or added to and saturates, and its new value is answered; with no armed entry nothing
fires. A selector or operand that names no counter or no value answers all ones, and a counter of a lost die fails
with cause 0x0023. Log 55 names the model's choices here. -/
def Sys2Proof.Claims.TriggerCountersChange : Prop :=
  ∀ (req : Nat) (r : Req) (sel v : Word) (s : State), s.findReq req = some r → r.stage = .home → r.pieces = [] → s.awaits = false →
    let id : BitVec 12 := sel.extractLsb' 16 12
    let i : Fin 8 := ⟨sel.toNat % 8, Nat.mod_lt _ (by decide)⟩
    let named := sel &&& 0xFFFFFFFFF000FFF8 = 0 ∧ (s.dieAt r.die).plist.getLsbD id.toNat = true
    let all : Response := { x := r.d.map fun d => (d, 0xFFFFFFFFFFFFFFFF) }
    let value (n : Nat) : Response := { x := r.d.map fun d => (d, BitVec.ofNat 64 n) }
    (∀ set, r.kind = .tcadd sel v set →
      (¬ named ∨ 2 ^ 32 ≤ v.toNat → ∃ t, exec (.triggerCounterChange req) s = .next t ∧
        Claims.ReqBecomes s t req (Claims.answer r r.die all)) ∧
      (named ∧ v.toNat < 2 ^ 32 → s.linkedTo r.die id = true → ∀ h q, s.findDie id = some h → s.live h = true → (s.dieAt h).findCtx r.ctxid = some q →
        (∀ k, (nth (s.ctxAt h q).triggers k).armed = false) →
        let old := (nth (s.ctxAt h q).counters i).toNat
        let new := if set then v.toNat else min (old + v.toNat) 0xFFFFFFFF
        ∃ t, exec (.triggerCounterChange req) s = .next t ∧ Claims.ReqBecomes s t req (Claims.answer r h (value new)) ∧
          (t.ctxAt h q).counters = upd (s.ctxAt h q).counters i (BitVec.ofNat 32 new))) ∧
    (r.kind = .tcrd sel →
      (¬ named → ∃ t, exec (.triggerCounterChange req) s = .next t ∧ Claims.ReqBecomes s t req (Claims.answer r r.die all)) ∧
      (named → s.linkedTo r.die id = true → s.isAway id = false → (∀ h, s.findDie id = some h → s.live h = false) → ∃ t, exec (.triggerCounterChange req) s = .next t ∧
        Claims.ReqBecomes s t req (Claims.answer r r.die { fault := some (0x0023, physical id 0) })) ∧
      (named → s.linkedTo r.die id = true → ∀ h q, s.findDie id = some h → s.live h = true → (s.dieAt h).findCtx r.ctxid = some q →
        ∃ t, exec (.triggerCounterChange req) s = .next t ∧
          Claims.ReqBecomes s t req (Claims.answer r h (value (nth (s.ctxAt h q).counters i).toNat)) ∧
          (t.ctxAt h q).counters = (s.ctxAt h q).counters))

/-- Superstep arrivals are counted at the barrier home, and trigger counters change. -/
def Obligations.CountersAdvance : Prop :=
  Claims.ArrivalsCount ∧ Claims.TriggerCountersChange

/-- R235, R352, R392: a tlbinv ends when no egress queue of the partition holds an older entry, with status 0; a kill ends when nothing of
the context is left, its entries and bank sets becoming free; a swap ends with the context swapped out or resident on
every die, or with one out and the other in. Logs 43 and 44 name the model's choices here. -/
def Sys2Proof.Claims.WaitingRequestsEnd : Prop :=
  ∀ (req : Nat) (r : Req) (s : State), s.findReq req = some r → r.stage = .waiting →
    let done := Claims.answer r r.die { x := r.d.map fun d => (d, 0) }
    (∀ va asid what, r.kind = .tlbinv va asid what →
      (∀ d ∈ s.partition r.die, ∀ p : Fin 8, ∀ e ∈ (s.portAt d p).egress,
        ((s.dieAt d).gen - e.gen).toNat = 0 ∨ 32767 < ((s.dieAt d).gen - e.gen).toNat) →
      ∃ t, exec (.tlbinvComplete req) s = .next t ∧ t = { s with reqs := t.reqs } ∧ Claims.ReqBecomes s t req done) ∧
    (∀ v, r.kind = .kill v → s.drained r.die (v.setWidth 16) = true →
      (∀ d q, (d, q) ∈ s.presences r.die (v.setWidth 16) → ∀ k, (s.tileAt d k).cc.ctxid = v.setWidth 16 →
        (s.tileAt d k).segmentsFull = false) →
      ∃ t, exec (.killComplete req) s = .next t ∧ Claims.ReqBecomes s t req done ∧ Claims.SameMemory s t ∧
        ∀ d q, (d, q) ∈ s.presences r.die (v.setWidth 16) → (t.ctxAt d q).entry.state = 0 ∧
          ∀ k, let id := (s.ctxAt d q).entry.ctxid
            id = 0 ∨ (t.tileAt d k).setA.owner ≠ id ∧ (t.tileAt d k).setB.owner ≠ id) ∧
    (∀ a b, r.kind = .ctxsw a b 0 → s.outDone r.die (a.setWidth 16) = true → s.awaits = false →
      ∃ t, exec (.swapComplete req) s = .next t ∧ t.findReq req = some done ∧
        ∀ d q, (d, q) ∈ s.presences r.die (a.setWidth 16) → (t.ctxAt d q).entry.state = 2 ∧ (t.ctxAt d q).precmd = false) ∧
    (∀ a b, r.kind = .ctxsw a b 1 → s.inDone r.die (a.setWidth 16) = true → (s.endIn r.die (a.setWidth 16)).awaits = false →
      ∃ t, exec (.swapComplete req) s = .next t ∧ t.findReq req = some done ∧
        ∀ d q, (d, q) ∈ s.presences r.die (a.setWidth 16) → (t.ctxAt d q).entry.state = 1) ∧
    (∀ a b, r.kind = .ctxsw a b 2 → s.outDone r.die (a.setWidth 16) = true → s.inDone r.die (b.setWidth 16) = true →
      ((s.endOut r.die (a.setWidth 16)).endIn r.die (b.setWidth 16)).awaits = false →
      ∃ t, exec (.swapComplete req) s = .next t ∧ t.findReq req = some done ∧
        (∀ d q, (d, q) ∈ s.presences r.die (b.setWidth 16) → (t.ctxAt d q).entry.state = 1) ∧
        (a.setWidth 16 ≠ (b.setWidth 16 : BitVec 16) →
          ∀ d q, (d, q) ∈ s.presences r.die (a.setWidth 16) → (t.ctxAt d q).entry.state = 2 ∧ (t.ctxAt d q).precmd = false))

/-- What waits for other dies or tiles ends: swaps, kills and invalidations. -/
def Obligations.WaitingWorkEnds : Prop :=
  Claims.SwapRestoresTile ∧ Claims.WaitingRequestsEnd

/-- R383, R384: the next chunk from the ring predecessor, to which the links carry traffic, is taken by the run that waits for it, which
ends when all its chunks have come. Log 54 names the model's choices here. -/
def Sys2Proof.Claims.ChunksArrive : Prop :=
  ∀ (d : DieIx) (q : Fin 16) (slot : Fin 4) (s : State) (run : Word × Word × Word × Word) (j : Nat) (cause : Option (BitVec 16))
      (bs : List Byte) (more : List (Nat × Option (BitVec 16) × List Byte)),
    let x := nth (s.ctxAt d q).chunks slot
    x.run = some run → x.inbox = (j, cause, bs) :: more → s.live d = true → s.chunkLinked d x = true →
    ((s.modCtx d q fun y => y.setChunk slot { x with inbox := more, step := x.step + 1 }).writeChunk d q slot j (x.taken j cause bs).1
      (x.taken j cause bs).2).awaits = false →
    let n := x.ring.length
    let all := if x.op = 0 then 2 * (n - 1) else if x.op = 3 then (if x.pos = 0 then 0 else 1) else n - 1
    ∃ t, exec (.chunkArrival d q slot) s = .next t ∧
      (s.findDie (x.ring.getD ((x.pos + 1) % x.ring.length) 0) ≠ some d → 2 ≤ x.ring.length → x.op.toNat ≤ 3 →
      let y := nth (t.ctxAt d q).chunks slot
      y.inbox = more ∧ y.ring = x.ring ∧ y.loaded = x.loaded ∧
      (x.step + 1 < all → y.run = some run ∧ y.step = x.step + 1 ∧ y.runs = x.runs) ∧
      (all ≤ x.step + 1 → y.run = none ∧ y.step = 0 ∧ y.runs = x.runs + 1))

/-- Contributions are folded in their order, and chunks of collectives arrive. -/
def Obligations.ContributionsArrive : Prop :=
  Claims.ContributionsFold ∧ Claims.ChunksArrive

namespace Sys2Proof.Claims

open Sys2Proof.Machine

/-- The re-shard paused for the first context in service that has one goes on from its cursor, if its state there is 2 and its position
lies in the plan: so the state t after the thresher of die d has become idle in u (R379). -/
def TakesUp (u t : State) (d : DieIx) : Prop :=
  ∀ (q : Fin 16) (p : Thresher) (s2 : State) (cur : List Byte) (k row : Nat),
    (u.ctxAt d q).entry.state = 1 → (u.ctxAt d q).paused = some p →
    (∀ q', q' < q → ¬ ((u.ctxAt d q').entry.state = 1 ∧ (u.ctxAt d q').paused.isSome = true)) →
    let v := u.modCtx d q fun c => { c with paused := none }
    let th := { p with q := q }
    v.freeRead (v.threshReq d th) p.cursor .read 64 = .ok (s2, cur) → cursorPosition p.plan cur = some (k, row) → part cur 8 1 = 2 →
      (t.ctxAt d q).paused = none ∧
      (t.dieAt d).thresher = some { th with transfer := k, row, sent := [], nextT := k, nextR := row }

/-- Bytes of the rows of a plan from row `row` of transfer k on. -/
def bytesLeft (th : Thresher) (k row : Nat) : Nat :=
  ((th.plan.drop k).map fun t => t.rows * t.rowBytes (layoutOf th.src)).sum
    - ((th.plan[k]?).map fun t => row * t.rowBytes (layoutOf th.src)).getD 0

end Sys2Proof.Claims

open Sys2Proof Sys2Proof.Machine

/-- R374 to R379, R457: the thresher sends the next row of its plan while the context is resident and none has failed. An acknowledged
row moves the cursor on, and then its bytes are added to BAR; after the last the re-shard is done. A failed row stops it with STATE 4 and
the cause in the cursor, and the bytes of every row not acknowledged are added to BAR all the same, unless the addition is what failed;
a swap-out stops it once every row sent is acknowledged, with its re-shard paused. A paused re-shard of a resident context is then
taken up. Logs 59 and 104 name the model's choices here. -/
def Obligations.ThresherMoves : Prop :=
  ∀ (d : DieIx) (th : Thresher) (s : State), (s.dieAt d).thresher = some th → s.live d = true →
    let plan := th.plan
    let next (k row : Nat) : Nat × Nat := if row + 1 < ((plan[k]?).map (·.rows)).getD 0 then (k, row + 1) else (k + 1, 0)
    let cleared (t : State) := ∀ e : Fin 1024, 768 ≤ e.val → nth (t.dieAt d).routes e = 0
    let idle (u t : State) := (u.idleThresher d).resumeNext d = t ∧ Claims.TakesUp (u.idleThresher d) t d ∧
      ((∀ q, (u.ctxAt d q).entry.state = 1 → (u.ctxAt d q).paused = none) → (t.dieAt d).thresher = none ∧ cleared t)
    (∀ tr, plan[th.nextT]? = some tr → (s.ctxAt d th.q).entry.state = 1 → (∀ x ∈ th.sent, x.2.2 = none) →
      let a := (s.threshRoutes d (s.stepRoutes d tr.s)).sendRow d th tr th.nextR
      a.1.awaits = false → ∃ t, exec (.thresherRowSend d) s = .next t ∧ (t.dieAt d).thresher = some { th with
        sent := th.sent ++ [(th.nextT, th.nextR, a.2)], nextT := (next th.nextT th.nextR).1, nextR := (next th.nextT th.nextR).2 }) ∧
    (∀ k row more, th.sent = (k, row, none) :: more →
      let p := next k row
      let th' := { th with transfer := p.1, row := p.2, sent := more }
      let last : Bool := decide (plan.length ≤ p.1)
      let moved := s.cursorState d th' (if last then 3 else 1) 0 ((16, 24) :: if last then [(8, 1)] else [])
      let added := moved.barPlace (s.threshReq d th) th.bar
      (∀ b s2, added = (s2, .ok b) →
        let a := s2.addBytes (s.threshReq d th) b th.bar (((plan[k]?).map fun t => t.rowBytes (layoutOf th.src)).getD 0)
        (a.2 = none → last = false → a.1.awaits = false →
          ∃ t, exec (.thresherRowAck d) s = .next t ∧ t = a.1.modDie d fun x => { x with thresher := some th' }) ∧
        (a.2 = none → last = true → ((a.1.idleThresher d).resumeNext d).awaits = false →
          ∃ t, exec (.thresherRowAck d) s = .next t ∧ idle a.1 t) ∧
        ∀ c, a.2 = some c → ((a.1.failThresher d th' c).resumeNext d).awaits = false →
          ∃ t, exec (.thresherRowAck d) s = .next t ∧ t = (a.1.failThresher d th' c).resumeNext d) ∧
      (th.bar = 0 → added.2 = .ok none)) ∧
    (∀ k row c more, th.sent = (k, row, some c) :: more →
      let failed := s.cursorState d th 4 c [(0, 64)]
      let im := th.cursorImage 4 c
      (im.length = 64 ∧ part im 0 8 = th.bar.toNat ∧ part im 8 2 = 4 ∧ part im 10 2 = c.toNat ∧
        (th.transfer < plan.length → part im 24 8 = th.row % 2 ^ 64)) ∧
      ∀ b s2, failed.barPlace (s.threshReq d th) th.bar = (s2, .ok b) →
        let u := if c = 0x0015 then s2 else (s2.addBytes (s.threshReq d th) b th.bar (Claims.bytesLeft th th.transfer th.row)).1
        ((u.idleThresher d).resumeNext d).awaits = false → ∃ t, exec (.thresherStop d) s = .next t ∧ idle u t) ∧
    (th.sent = [] → (s.ctxAt d th.q).entry.state = 3 →
      let u := ((s.cursorState d th 2 0 [(0, 64)]).idleThresher d).modCtx d th.q fun c => { c with paused := some th }
      (u.resumeNext d).awaits = false → ∃ t, exec (.thresherStop d) s = .next t ∧ t = u.resumeNext d ∧ Claims.TakesUp u t d ∧
        (t.ctxAt d th.q).paused = some th ∧
        ((∀ q, (s.ctxAt d q).entry.state = 1 → (s.ctxAt d q).paused = none) → (t.dieAt d).thresher = none ∧ cleared t))

/-! ### Encoding -/

open Sys2Proof Sys2Proof.Machine

/-- R65 to R69, R74, R76, R77: what the encoder writes for an instruction that is well formed for an agent, that agent's decoder reads as
the very same instruction, with every field at every value that the encoding admits. -/
def Obligations.DecodeInvertsEncode : Prop :=
  ∀ (ag : Agent) (i : Instr), i.wellFormedFor ag = true →
    (if ag = .cc then decodeWord (encodeWord i) else decodeRecord ag (encodeRecord i)) = .ok i

/-- R65, R66, R71, R74: decoding loses no bit: a word that is accepted is the encoding of the instruction that it is read as, which is
well formed for the agent. So two words are never read as one instruction, and reserved bits and unused fields are zero. -/
def Obligations.DecodingLosesNothing : Prop :=
  (∀ w i, decodeWord w = .ok i → i.wellFormedFor .cc = true ∧ encodeWord i = w) ∧
  ∀ ag w i, ag ≠ .cc → decodeRecord ag w = .ok i → i.wellFormedFor ag = true ∧ encodeRecord i = w

namespace Sys2Proof.Claims

/-- An operation word of its two double words, and a record of its eight, each as the manual lists them. -/
def word (lo hi : BitVec 64) : BitVec 128 := hi ++ lo
def record (d0 d1 d2 d3 d4 d5 d6 d7 : BitVec 64) : BitVec 512 := d7 ++ d6 ++ d5 ++ d4 ++ d3 ++ d2 ++ d1 ++ d0

end Sys2Proof.Claims

/-- The examples of R73, R78, R127, R160, R203, R236, R284, R347, R392, R397 and R404: the words that the manual writes out are read as
it says that they are. -/
def Obligations.DecodeSamples : Prop :=
  -- add x3, x4, 12
  decodeWord (Claims.word 0x2000000403000001 0x000000000000000C) = .ok (.add { d := .x 3, a := .x 4, lsel := .b, lit := 12 }) ∧
  -- li x4, 5
  decodeWord (Claims.word 0x0000000004000006 0x0000000000000005) = .ok (.li { d := .x 4, lit := 5 }) ∧
  -- pbr b1, 0x10
  decodeWord (Claims.word 0x00000000C5000020 0x0000000000000010) = .ok (.pbr { d := .b 1, lit := 0x10 }) ∧
  -- sub x4, x4, 1
  decodeWord (Claims.word 0x2000000404000101 0x0000000000000001) = .ok (.sub { d := .x 4, a := .x 4, lsel := .b, lit := 1 }) ∧
  -- bcc b1, x4, ne
  decodeWord (Claims.word 0x000004C500000021 0x0001000000000000) = .ok (.bcc { a := .b 1, b := .x 4, sub := 1 }) ∧
  -- trap end
  decodeWord (Claims.word 0x0000000000000238 0) = .ok (.trapEnd {}) ∧
  -- atom.add x5, x6, x7 arr=400
  decodeWord (Claims.word 0x00000706050000C4 0x0001000000000190) =
    .ok (.atomAdd { d := .x 5, a := .x 6, b := .x 7, lit := 400, sub := 1 }) ∧
  -- ctxsw x9, x10, x11, xchg arr=20000
  decodeWord (Claims.word 0x00000B0A090003E4 0x0002000000004E20) =
    .ok (.ctxswXchg { d := .x 9, a := .x 10, b := .x 11, lit := 20000, sub := 2 }) ∧
  -- tlbinv x4, x5, x6, asid arr=2000
  decodeWord (Claims.word 0x00000605040000E4 0x00010000000007D0) =
    .ok (.tlbinvAsid { d := .x 4, a := .x 5, b := .x 6, lit := 2000, sub := 1 }) ∧
  -- kpost k5, 2
  decodeWord (Claims.word 0x000000D5000001D1 0x0002000000000000) = .ok (.kpost { a := .k 5, sub := 2 } none) ∧
  -- ssync arr=400
  decodeWord (Claims.word 0x00000000000000D8 0x0000000000000190) = .ok (.ssync { lit := 400 }) ∧
  -- add with PQ = 0b0001 and bit 126 set: reason 2 at bit 56
  (∃ f, decodeWord (Claims.word 0x0100000000000001 0x4000000000000000) = .bad f ∧ f.tval = 0x20038) ∧
  -- vld.f32 v1, ag0 ?q1 wait=k2 post=k5 nest(16,4) ag0(g3+0x40; 128,2048)
  decodeRecord .ve (Claims.record 0x090000E0210D0154 0x0000858200000000 0x0000000000040010 0x0020000080000403 0 0 0 0) =
    .ok (.vld { et := .f32, d := .v 1, a := .ag 0, pq := some 1, sw := some 2, sp := some 5 }
      { t0 := 16, t1 := 4, ag0 := { bsel := 3, off := 0x40, str0 := 128, str1 := 2048 } }) ∧
  -- vlop3.n32 v4, v1, v2, v3, 0xE8 ?q2
  decodeRecord .ve (Claims.record 0x0A232221240C0446 0x00E8000000000000 0 0 0 0 0 0) =
    .ok (.vlop3 { et := .n32, d := .v 4, a := .v 1, b := .v 2, c := .v 3, pq := some 2, sub := 0xE8 } {}) ∧
  -- mstep.i8 a0, ag0, ag1, 0, 0, 0 post=k3 plvl(6) stage(1, 4) nest(4, 8) ag0(g2+0; 16384, 65536) ag1(g3+16384; 0, 16384)
  decodeRecord .me (Claims.record 0x0000E1E080030280 0x0000830000000000 0x0000000000080004 0x0400004000000002 0x0004000300000000
      0x0000000001000000 0 0x0180180800000000) =
    .ok (.mstep { et := .i8, d := .acc 0, a := .ag 0, b := .ag 1, sp := some 3 }
      { t0 := 4, t1 := 8, ag0 := { bsel := 2, str0 := 16384, str1 := 65536 }, ag1 := { bsel := 3, off := 16384, str1 := 16384 }
        ctl := { plvl := 6, spat := 1, slen := 3 } }) ∧
  -- cpy.bf16.b1024 ag1, ag0, g6, vsrc+cf arr=900 nest(16) ag0(g2; 512) ag1(g3; 512)
  decodeRecord .le (Claims.record 0x00A600E0E14900A0 0x0005000000000384 0x10 0x0000000200000002 0x0000000300000000 2 0 0) =
    .ok (.cpy { et := .bf16, mod := 4, d := .ag 1, a := .ag 0, c := .g 6, lit := 900, sub := 5 }
      { t0 := 16, ag0 := { bsel := 2, str0 := 512 }, ag1 := { bsel := 3, str0 := 512 } })

namespace Sys2Proof.Claims

open Sys2Proof.Machine

/-- The tile whose small step comes next: the agenda names it, or the agenda is empty and the moving tile waits for no scan. -/
def Moves (s s1 : State) : Prop :=
  (∃ d k rest, s.agenda = .run d k :: rest ∧ s1 = { s with agenda := rest, die := d, tile := k }) ∨
  (s.agenda = [] ∧ s.unswept = none ∧ s1 = s)

/-- The moving tile runs, on a live die, and it is the turn of an agent. -/
structure TurnOf (ag : Agent) (s : State) : Prop where
  live  : s.live s.die = true
  runs  : s.here.mode = .running ∨ s.here.mode = .ending
  phase : s.here.phase = ag.phase

/-- An outcome that is not a freeze of the tile: a next state in which the agent has had its turn, or a stop. -/
def HasTurn (ag : Agent) (o : Out) : Prop := ∀ t, o = .next t → t.here.phase ≠ ag.phase

end Sys2Proof.Claims

open Sys2Proof Sys2Proof.Machine

/-- R29, R30, R71, R127: when it is the control core's turn and nothing holds it, a step of the machine is the meaning of the instruction
that the word at PC decodes to, and the illegal-encoding trap when it decodes to none. With an empty agenda the tile that moves is the
model's choice (logs 3 and 4). -/
def Sys2Proof.Claims.StepRunsWord : Prop :=
  ∀ (s s1 : State) (w : BitVec 128), Claims.Moves s s1 → Claims.TurnOf .cc s1 → s1.here.cc.mode = .ready → s1.here.stalled = none →
    s1.here.freshTrap = false → s1.here.overrun = false → s1.here.wordAt = some w →
    (∀ i, decodeWord w = .ok i → Claims.HasTurn .cc (exec i { s1 with agent := .cc }) → step s = exec i { s1 with agent := .cc }) ∧
    ∀ f, decodeWord w = .bad f → step s = .next (s1.preciseTrap 0x0001 f.tval)

/-- R29, R30, R71, R75, R79, R80, R369: when it is a sequencer's turn and nothing holds it, a step of the machine is the meaning of the
instruction that its next record decodes to, issued by that sequencer, unless the slot of a scheduled segment has not come or traps; a
record whose first iteration has not issued is read anew, and one that decodes to none, or that breaks the nesting of loops, takes the
illegal-encoding trap. Logs 3, 4, 68 and 75 name the model's choices here. -/
def Sys2Proof.Claims.StepRunsRecord : Prop :=
  ∀ (s s1 : State) (ag : Agent) (off k n : Nat) (w : BitVec 512), Claims.Moves s s1 → ag ≠ .cc → Claims.TurnOf ag s1 →
    (ag = .ve → s1.here.cutDue = false) →
    (∀ v x, s1.slotTrap ag = some (v, x) → step s = .next (s1.slotStop ag v x.off x.fidx)) ∧
    (s1.slotTrap ag = none → s1.here.seqReady (nth s1.here.seqs ag.seqIx) = true →
      s1.here.recordAt (nth s1.here.seqs ag.seqIx) = some (off, k, n, w) →
      let s2 := s1.modHere fun t => t.reread ag off w
      let q := nth s2.here.seqs ag.seqIx
      (∀ i, decodeRecord ag w = .ok i → loopsBroken q i k n = false → s2.slotTurn ag (slotArrival i) = .go →
        let s3 := { s2.modHere (fun t => t.setSeq ag (q.holding off w i)) with agent := ag }
        Claims.HasTurn ag (exec i s3) → step s = exec i s3) ∧
      (∀ i, decodeRecord ag w = .ok i → loopsBroken q i k n = true →
        step s = .next (s2.seqTrap ag 0x0001 (Failure.tval ⟨0, 11⟩) none off 0)) ∧
      (∀ i, decodeRecord ag w = .ok i → loopsBroken q i k n = false → s2.slotTurn ag (slotArrival i) = .early →
        step s = .next s2.pass) ∧
      ∀ f, decodeRecord ag w = .bad f → step s = .next (s2.seqTrap ag 0x0001 f.tval none off 0))

/-- R1, R5: an event that the agenda names first is performed as it is, with the rest of the agenda left; the agenda holds no words, since
these come from memory, and no events of a tile's own cycle, which come about when the tile moves. The agenda is the model's own
(log 3). -/
def Sys2Proof.Claims.AgendaRunsEvents : Prop :=
  ∀ (s : State) (i : Instr) (rest : List Turn), s.agenda = .event i :: rest →
    (i.coded = none → ofCycle i = false → step s = exec i { s with agenda := rest }) ∧
    (i.coded.isSome = true → step s = .refused .wordInAgenda) ∧
    (ofCycle i = true → step s = .fault .notEnabled)

/-- A step runs the instruction that the moving agent has fetched, or the event that the agenda names. -/
def Obligations.StepRunsDecoded : Prop :=
  Claims.StepRunsWord ∧ Claims.StepRunsRecord ∧ Claims.AgendaRunsEvents

/-! ### Reset and invariants -/

namespace Sys2Proof.Claims

open Sys2Proof.Machine

/-- A die as the state cards' Reset columns give it. -/
def DieAtReset (x : Die) : Prop :=
  x.atmode = true ∧ x.step = 15 ∧ x.tokens = 111 ∧ x.dcap = 255 ∧ x.gen = 0 ∧ x.partid = 0 ∧ x.dram = [] ∧ x.poison = [] ∧
  x.slices = [] ∧ x.tlb2 = [] ∧ x.itlb = [] ∧ (∀ e, nth x.routes e = 0) ∧ (∀ p, nth x.ports p = {}) ∧ x.thresher = none

/-- Tile k as the state cards' Reset columns give it. -/
def TileAtReset (k : TileIx) (x : Tile) : Prop :=
  x.posn.toNat / 2 ^ 24 = k.val ∧ x.mode = .idle ∧ x.task = none ∧
  (∀ r, x.cc.readX r = 0) ∧ (∀ r, nth x.cc.b r = 0) ∧ (∀ r, nth x.cc.g r = 0) ∧ (∀ r, nth x.cc.n r = 0) ∧
  x.cc.pc = 0 ∧ x.cc.level = .system ∧ x.cc.tcyc = 0 ∧ x.cc.tscr = 0 ∧ x.cc.fpctl = 0 ∧ x.cc.srseed = 0 ∧ x.cc.trap = {} ∧
  (∀ r, nth x.ve.v r = 0) ∧ (∀ r, nth x.ve.q r = 0) ∧ (∀ r, nth x.streams r = {}) ∧
  x.me.act = 0 ∧ (∀ p r, nth (nth x.me.planes p).rows r = 0) ∧ (∀ q r, nth (nth x.me.acc q) r = 0) ∧
  (∀ j, nth x.me.pending j = 0 ∧ nth x.me.active j = 0) ∧
  (∀ j, nth x.sems j = { count := 0, ceil := 255 }) ∧ (∀ j, (nth x.seqs j).queue = [] ∧ (nth x.seqs j).stg = 0) ∧
  x.roleB = false ∧ x.setA = {} ∧ x.setB = {} ∧ x.silo = [] ∧ (∀ j, nth x.slots j = 0) ∧ x.seg = 0 ∧ x.tlb = []

end Sys2Proof.Claims

/-- R28, R105, R107, R115, R143, R182, R209, R240, R244, R246, R265, R328, R370, R391, R393, R407, R415, R436: the state after reset, as the
manual's state cards give it, with nothing in flight; and every memory is in canonical form. The values of what boot sets, and of what the
cards leave out, are the model's choice (log 1). -/
def Obligations.ResetValues : Prop :=
  State.reset.memOk = true ∧ State.reset.ways = .clear ∧ State.reset.reqs = [] ∧
  (∀ d, nth State.reset.io.dstate d = 0 ∧ Claims.DieAtReset (State.reset.dieAt d)) ∧
  ∀ d k, Claims.TileAtReset k (State.reset.tileAt d k)

/-- R240, R246, R250: from every state in which each memory of the package (DRAM, bank sets, silos, host memory) is in canonical form, every
step that answers a next state leaves each in canonical form; and no step that answers one leaves an access waiting for its way (log 105):
a row that would is put off as a whole. Log 5 names the model's choices here. -/
def Obligations.MemoryStaysCanonical : Prop :=
  ∀ s t : State, step s = .next t → (s.memOk = true → t.memOk = true) ∧ (s.ways = .clear → t.ways = .clear)
end

