-- ==== Sys2Proof/Laws/State.lean ====
section
/-!
SUPPORT. What the updates of State leave alone, and what a read after an update gives.
-/
namespace Sys2Proof.Machine

/-! ### Vectors of registers -/

@[simp] theorem nth_replicate {α : Type} {n : Nat} (x : α) (i : Fin n) : nth (Vector.replicate n x) i = x := by
  show (Vector.replicate n x)[i.val] = x
  simp

@[simp] theorem nth_ofFn {α : Type} {n : Nat} (f : Fin n → α) (i : Fin n) : nth (Vector.ofFn f) i = f i := by
  show (Vector.ofFn f)[i.val] = f i
  simp

@[simp] theorem nth_map {α β : Type} {n : Nat} (f : α → β) (v : Vector α n) (i : Fin n) : nth (v.map f) i = f (nth v i) := by
  show (v.map f)[i.val] = f v[i.val]
  simp

@[simp] theorem nth_upd_same {α : Type} {n : Nat} (v : Vector α n) (i : Fin n) (x : α) : nth (upd v i x) i = x := by
  show (v.set i.val x i.isLt)[i.val] = x
  simp

theorem nth_upd_ne {α : Type} {n : Nat} (v : Vector α n) {i j : Fin n} (x : α) (h : j ≠ i) : nth (upd v i x) j = nth v j := by
  have : i.val ≠ j.val := fun e => h (Fin.ext e.symm)
  show (v.set i.val x i.isLt)[j.val] = v[j.val]
  simp [Vector.getElem_set_ne, this]

theorem nth_upd {α : Type} {n : Nat} (v : Vector α n) (i j : Fin n) (x : α) : nth (upd v i x) j = if j = i then x else nth v j := by
  by_cases h : j = i
  · subst h; simp
  · simp [h, nth_upd_ne v x h]

@[simp] theorem upd_nth {α : Type} {n : Nat} (v : Vector α n) (i : Fin n) : upd v i (nth v i) = v := by
  show v.set i.val v[i.val] i.isLt = v
  simp

@[simp] theorem upd_upd {α : Type} {n : Nat} (v : Vector α n) (i : Fin n) (x y : α) : upd (upd v i x) i y = upd v i y := by
  simp [upd]

/-! ### Fields that an update of dies leaves alone -/

@[simp] theorem State.setDie_io (s : State) (d : DieIx) (x : Die) : (s.setDie d x).io = s.io := rfl
@[simp] theorem State.setDie_host (s : State) (d : DieIx) (x : Die) : (s.setDie d x).host = s.host := rfl
@[simp] theorem State.setDie_reqs (s : State) (d : DieIx) (x : Die) : (s.setDie d x).reqs = s.reqs := rfl
@[simp] theorem State.setDie_widen (s : State) (d : DieIx) (x : Die) : (s.setDie d x).widen = s.widen := rfl
@[simp] theorem State.setDie_flows (s : State) (d : DieIx) (x : Die) : (s.setDie d x).flows = s.flows := rfl
@[simp] theorem State.setDie_die (s : State) (d : DieIx) (x : Die) : (s.setDie d x).die = s.die := rfl
@[simp] theorem State.setDie_tile (s : State) (d : DieIx) (x : Die) : (s.setDie d x).tile = s.tile := rfl
@[simp] theorem State.setDie_agent (s : State) (d : DieIx) (x : Die) : (s.setDie d x).agent = s.agent := rfl
@[simp] theorem State.setDie_agenda (s : State) (d : DieIx) (x : Die) : (s.setDie d x).agenda = s.agenda := rfl
@[simp] theorem State.setDie_nextReq (s : State) (d : DieIx) (x : Die) : (s.setDie d x).nextReq = s.nextReq := rfl
@[simp] theorem State.setDie_ways (s : State) (d : DieIx) (x : Die) : (s.setDie d x).ways = s.ways := rfl

@[simp] theorem State.modDie_io (s : State) (d : DieIx) (f : Die → Die) : (s.modDie d f).io = s.io := rfl
@[simp] theorem State.modDie_host (s : State) (d : DieIx) (f : Die → Die) : (s.modDie d f).host = s.host := rfl
@[simp] theorem State.modDie_reqs (s : State) (d : DieIx) (f : Die → Die) : (s.modDie d f).reqs = s.reqs := rfl
@[simp] theorem State.modDie_widen (s : State) (d : DieIx) (f : Die → Die) : (s.modDie d f).widen = s.widen := rfl
@[simp] theorem State.modDie_flows (s : State) (d : DieIx) (f : Die → Die) : (s.modDie d f).flows = s.flows := rfl
@[simp] theorem State.modDie_die (s : State) (d : DieIx) (f : Die → Die) : (s.modDie d f).die = s.die := rfl
@[simp] theorem State.modDie_tile (s : State) (d : DieIx) (f : Die → Die) : (s.modDie d f).tile = s.tile := rfl
@[simp] theorem State.modDie_agent (s : State) (d : DieIx) (f : Die → Die) : (s.modDie d f).agent = s.agent := rfl
@[simp] theorem State.modDie_agenda (s : State) (d : DieIx) (f : Die → Die) : (s.modDie d f).agenda = s.agenda := rfl
@[simp] theorem State.modDie_nextReq (s : State) (d : DieIx) (f : Die → Die) : (s.modDie d f).nextReq = s.nextReq := rfl
@[simp] theorem State.modDie_ways (s : State) (d : DieIx) (f : Die → Die) : (s.modDie d f).ways = s.ways := rfl

@[simp] theorem State.setTile_io (s : State) (d : DieIx) (t : TileIx) (x : Tile) : (s.setTile d t x).io = s.io := rfl
@[simp] theorem State.setTile_host (s : State) (d : DieIx) (t : TileIx) (x : Tile) : (s.setTile d t x).host = s.host := rfl
@[simp] theorem State.setTile_reqs (s : State) (d : DieIx) (t : TileIx) (x : Tile) : (s.setTile d t x).reqs = s.reqs := rfl
@[simp] theorem State.setTile_widen (s : State) (d : DieIx) (t : TileIx) (x : Tile) : (s.setTile d t x).widen = s.widen := rfl
@[simp] theorem State.setTile_flows (s : State) (d : DieIx) (t : TileIx) (x : Tile) : (s.setTile d t x).flows = s.flows := rfl
@[simp] theorem State.setTile_die (s : State) (d : DieIx) (t : TileIx) (x : Tile) : (s.setTile d t x).die = s.die := rfl
@[simp] theorem State.setTile_tile (s : State) (d : DieIx) (t : TileIx) (x : Tile) : (s.setTile d t x).tile = s.tile := rfl
@[simp] theorem State.setTile_agent (s : State) (d : DieIx) (t : TileIx) (x : Tile) : (s.setTile d t x).agent = s.agent := rfl
@[simp] theorem State.setTile_agenda (s : State) (d : DieIx) (t : TileIx) (x : Tile) : (s.setTile d t x).agenda = s.agenda := rfl
@[simp] theorem State.setTile_nextReq (s : State) (d : DieIx) (t : TileIx) (x : Tile) : (s.setTile d t x).nextReq = s.nextReq := rfl
@[simp] theorem State.setTile_ways (s : State) (d : DieIx) (t : TileIx) (x : Tile) : (s.setTile d t x).ways = s.ways := rfl

@[simp] theorem State.modTile_io (s : State) (d : DieIx) (t : TileIx) (f : Tile → Tile) : (s.modTile d t f).io = s.io := rfl
@[simp] theorem State.modTile_host (s : State) (d : DieIx) (t : TileIx) (f : Tile → Tile) : (s.modTile d t f).host = s.host := rfl
@[simp] theorem State.modTile_reqs (s : State) (d : DieIx) (t : TileIx) (f : Tile → Tile) : (s.modTile d t f).reqs = s.reqs := rfl
@[simp] theorem State.modTile_widen (s : State) (d : DieIx) (t : TileIx) (f : Tile → Tile) : (s.modTile d t f).widen = s.widen := rfl
@[simp] theorem State.modTile_flows (s : State) (d : DieIx) (t : TileIx) (f : Tile → Tile) : (s.modTile d t f).flows = s.flows := rfl
@[simp] theorem State.modTile_die (s : State) (d : DieIx) (t : TileIx) (f : Tile → Tile) : (s.modTile d t f).die = s.die := rfl
@[simp] theorem State.modTile_tile (s : State) (d : DieIx) (t : TileIx) (f : Tile → Tile) : (s.modTile d t f).tile = s.tile := rfl
@[simp] theorem State.modTile_agent (s : State) (d : DieIx) (t : TileIx) (f : Tile → Tile) : (s.modTile d t f).agent = s.agent := rfl
@[simp] theorem State.modTile_agenda (s : State) (d : DieIx) (t : TileIx) (f : Tile → Tile) : (s.modTile d t f).agenda = s.agenda := rfl
@[simp] theorem State.modTile_nextReq (s : State) (d : DieIx) (t : TileIx) (f : Tile → Tile) : (s.modTile d t f).nextReq = s.nextReq := rfl
@[simp] theorem State.modTile_ways (s : State) (d : DieIx) (t : TileIx) (f : Tile → Tile) : (s.modTile d t f).ways = s.ways := rfl

@[simp] theorem State.modHere_io (s : State) (f : Tile → Tile) : (s.modHere f).io = s.io := rfl
@[simp] theorem State.modHere_host (s : State) (f : Tile → Tile) : (s.modHere f).host = s.host := rfl
@[simp] theorem State.modHere_reqs (s : State) (f : Tile → Tile) : (s.modHere f).reqs = s.reqs := rfl
@[simp] theorem State.modHere_widen (s : State) (f : Tile → Tile) : (s.modHere f).widen = s.widen := rfl
@[simp] theorem State.modHere_flows (s : State) (f : Tile → Tile) : (s.modHere f).flows = s.flows := rfl
@[simp] theorem State.modHere_die (s : State) (f : Tile → Tile) : (s.modHere f).die = s.die := rfl
@[simp] theorem State.modHere_tile (s : State) (f : Tile → Tile) : (s.modHere f).tile = s.tile := rfl
@[simp] theorem State.modHere_agent (s : State) (f : Tile → Tile) : (s.modHere f).agent = s.agent := rfl
@[simp] theorem State.modHere_agenda (s : State) (f : Tile → Tile) : (s.modHere f).agenda = s.agenda := rfl
@[simp] theorem State.modHere_nextReq (s : State) (f : Tile → Tile) : (s.modHere f).nextReq = s.nextReq := rfl
@[simp] theorem State.modHere_ways (s : State) (f : Tile → Tile) : (s.modHere f).ways = s.ways := rfl

@[simp] theorem State.modCtx_io (s : State) (d : DieIx) (q : Fin 16) (f : CtxDie → CtxDie) : (s.modCtx d q f).io = s.io := rfl
@[simp] theorem State.modCtx_host (s : State) (d : DieIx) (q : Fin 16) (f : CtxDie → CtxDie) : (s.modCtx d q f).host = s.host := rfl
@[simp] theorem State.modCtx_reqs (s : State) (d : DieIx) (q : Fin 16) (f : CtxDie → CtxDie) : (s.modCtx d q f).reqs = s.reqs := rfl
@[simp] theorem State.modCtx_widen (s : State) (d : DieIx) (q : Fin 16) (f : CtxDie → CtxDie) : (s.modCtx d q f).widen = s.widen := rfl
@[simp] theorem State.modCtx_flows (s : State) (d : DieIx) (q : Fin 16) (f : CtxDie → CtxDie) : (s.modCtx d q f).flows = s.flows := rfl
@[simp] theorem State.modCtx_die (s : State) (d : DieIx) (q : Fin 16) (f : CtxDie → CtxDie) : (s.modCtx d q f).die = s.die := rfl
@[simp] theorem State.modCtx_tile (s : State) (d : DieIx) (q : Fin 16) (f : CtxDie → CtxDie) : (s.modCtx d q f).tile = s.tile := rfl
@[simp] theorem State.modCtx_agent (s : State) (d : DieIx) (q : Fin 16) (f : CtxDie → CtxDie) : (s.modCtx d q f).agent = s.agent := rfl
@[simp] theorem State.modCtx_agenda (s : State) (d : DieIx) (q : Fin 16) (f : CtxDie → CtxDie) : (s.modCtx d q f).agenda = s.agenda := rfl
@[simp] theorem State.modCtx_nextReq (s : State) (d : DieIx) (q : Fin 16) (f : CtxDie → CtxDie) : (s.modCtx d q f).nextReq = s.nextReq := rfl
@[simp] theorem State.modCtx_ways (s : State) (d : DieIx) (q : Fin 16) (f : CtxDie → CtxDie) : (s.modCtx d q f).ways = s.ways := rfl

/-! ### Reading after an update -/

@[simp] theorem State.dieAt_setDie_same (s : State) (d : DieIx) (x : Die) : (s.setDie d x).dieAt d = x := by
  simp [State.dieAt, State.setDie]

theorem State.dieAt_setDie (s : State) (d e : DieIx) (x : Die) : (s.setDie d x).dieAt e = if e = d then x else s.dieAt e := by
  simp [State.dieAt, State.setDie, nth_upd]

@[simp] theorem State.dieAt_modDie_same (s : State) (d : DieIx) (f : Die → Die) : (s.modDie d f).dieAt d = f (s.dieAt d) := by
  simp [State.modDie]

theorem State.dieAt_modDie (s : State) (d e : DieIx) (f : Die → Die) : (s.modDie d f).dieAt e = if e = d then f (s.dieAt d) else s.dieAt e := by
  simp [State.modDie, State.dieAt_setDie]

@[simp] theorem State.tileAt_setTile_same (s : State) (d : DieIx) (t : TileIx) (x : Tile) : (s.setTile d t x).tileAt d t = x := by
  simp [State.tileAt, State.setTile, Die.setTile]

theorem State.tileAt_setTile (s : State) (d e : DieIx) (t u : TileIx) (x : Tile) :
    (s.setTile d t x).tileAt e u = if e = d ∧ u = t then x else s.tileAt e u := by
  simp only [State.tileAt, State.setTile, State.dieAt_modDie]
  by_cases h : e = d
  · subst h; by_cases k : u = t <;> simp [Die.setTile, nth_upd, k]
  · simp [h]

@[simp] theorem State.tileAt_modTile_same (s : State) (d : DieIx) (t : TileIx) (f : Tile → Tile) :
    (s.modTile d t f).tileAt d t = f (s.tileAt d t) := by simp [State.modTile]

theorem State.tileAt_modTile (s : State) (d e : DieIx) (t u : TileIx) (f : Tile → Tile) :
    (s.modTile d t f).tileAt e u = if e = d ∧ u = t then f (s.tileAt d t) else s.tileAt e u := by
  simp [State.modTile, State.tileAt_setTile]

@[simp] theorem State.here_modHere (s : State) (f : Tile → Tile) : (s.modHere f).here = f s.here := by
  simp [State.here, State.modHere]

@[simp] theorem State.modHere_modHere (s : State) (f g : Tile → Tile) : (s.modHere f).modHere g = s.modHere fun t => g (f t) := by
  simp [State.modHere, State.modTile, State.setTile, State.modDie, State.setDie, State.tileAt, State.dieAt, Die.setTile]

theorem State.modHere_eq_setTile (s : State) (f : Tile → Tile) : s.modHere f = s.setTile s.die s.tile (f s.here) := rfl

/-- What a change of the moving tile leaves of a die. -/
theorem State.dieAt_modHere (s : State) (f : Tile → Tile) (d : DieIx) :
    (s.modHere f).dieAt d = if d = s.die then (s.dieAt d).setTile s.tile (f s.here) else s.dieAt d := by
  simp only [State.modHere, State.modTile, State.setTile, State.dieAt_modDie]
  by_cases h : d = s.die
  · subst h; simp [State.here]
  · simp [h]

@[simp] theorem State.dieAt_modHere_dram (s : State) (f : Tile → Tile) (d : DieIx) : ((s.modHere f).dieAt d).dram = (s.dieAt d).dram := by
  rw [State.dieAt_modHere]; split <;> rfl

@[simp] theorem State.dieAt_modHere_ctxs (s : State) (f : Tile → Tile) (d : DieIx) : ((s.modHere f).dieAt d).ctxs = (s.dieAt d).ctxs := by
  rw [State.dieAt_modHere]; split <;> rfl

@[simp] theorem State.dieAt_modHere_id (s : State) (f : Tile → Tile) (d : DieIx) : ((s.modHere f).dieAt d).id = (s.dieAt d).id := by
  rw [State.dieAt_modHere]; split <;> rfl

theorem State.tileAt_modHere (s : State) (f : Tile → Tile) (d : DieIx) (t : TileIx) :
    (s.modHere f).tileAt d t = if d = s.die ∧ t = s.tile then f s.here else s.tileAt d t := by
  simp [State.modHere, State.tileAt_modTile, State.here]

@[simp] theorem State.ctxAt_modCtx_same (s : State) (d : DieIx) (q : Fin 16) (f : CtxDie → CtxDie) :
    (s.modCtx d q f).ctxAt d q = f (s.ctxAt d q) := by simp [State.ctxAt, State.modCtx]

/-! ### Registers -/

@[simp] theorem CcState.readX_zero (c : CcState) : c.readX 0 = 0 := rfl

@[simp] theorem CcState.writeX_zero (c : CcState) (v : Word) : c.writeX 0 v = c := rfl

theorem CcState.readX_writeX (c : CcState) (i j : Fin 32) (v : Word) :
    (c.writeX i v).readX j = if j = i ∧ i ≠ 0 then v else c.readX j := by
  unfold CcState.writeX CcState.readX
  by_cases hi : i = 0
  · subst hi; simp
  · by_cases hj : j = i
    · subst hj; simp [hi]
    · simp [hi, hj, nth_upd_ne _ _ hj]

@[simp] theorem CcState.writeX_b (c : CcState) (i : Fin 32) (v : Word) : (c.writeX i v).b = c.b := by unfold CcState.writeX; split <;> rfl
@[simp] theorem CcState.writeX_pc (c : CcState) (i : Fin 32) (v : Word) : (c.writeX i v).pc = c.pc := by unfold CcState.writeX; split <;> rfl
@[simp] theorem CcState.writeX_level (c : CcState) (i : Fin 32) (v : Word) : (c.writeX i v).level = c.level := by unfold CcState.writeX; split <;> rfl
@[simp] theorem CcState.writeX_tcyc (c : CcState) (i : Fin 32) (v : Word) : (c.writeX i v).tcyc = c.tcyc := by unfold CcState.writeX; split <;> rfl
@[simp] theorem CcState.writeX_tscr (c : CcState) (i : Fin 32) (v : Word) : (c.writeX i v).tscr = c.tscr := by unfold CcState.writeX; split <;> rfl
@[simp] theorem CcState.writeX_g (c : CcState) (i : Fin 32) (v : Word) : (c.writeX i v).g = c.g := by unfold CcState.writeX; split <;> rfl
@[simp] theorem CcState.writeX_n (c : CcState) (i : Fin 32) (v : Word) : (c.writeX i v).n = c.n := by unfold CcState.writeX; split <;> rfl
@[simp] theorem CcState.writeX_fpctl (c : CcState) (i : Fin 32) (v : Word) : (c.writeX i v).fpctl = c.fpctl := by unfold CcState.writeX; split <;> rfl
@[simp] theorem CcState.writeX_srseed (c : CcState) (i : Fin 32) (v : Word) : (c.writeX i v).srseed = c.srseed := by unfold CcState.writeX; split <;> rfl
@[simp] theorem CcState.writeX_trap (c : CcState) (i : Fin 32) (v : Word) : (c.writeX i v).trap = c.trap := by unfold CcState.writeX; split <;> rfl
@[simp] theorem CcState.writeX_ctxid (c : CcState) (i : Fin 32) (v : Word) : (c.writeX i v).ctxid = c.ctxid := by unfold CcState.writeX; split <;> rfl
@[simp] theorem CcState.writeX_asid (c : CcState) (i : Fin 32) (v : Word) : (c.writeX i v).asid = c.asid := by unfold CcState.writeX; split <;> rfl
@[simp] theorem CcState.writeX_ssnum (c : CcState) (i : Fin 32) (v : Word) : (c.writeX i v).ssnum = c.ssnum := by unfold CcState.writeX; split <;> rfl
@[simp] theorem CcState.writeX_mode (c : CcState) (i : Fin 32) (v : Word) : (c.writeX i v).mode = c.mode := by unfold CcState.writeX; split <;> rfl
@[simp] theorem CcState.writeX_wfeBack (c : CcState) (i : Fin 32) (v : Word) : (c.writeX i v).wfeBack = c.wfeBack := by unfold CcState.writeX; split <;> rfl

end Sys2Proof.Machine
end

