-- ==== Sys2Proof/Laws/Mem.lean ====
section
/-!
SUPPORT. Memories: reading after writing, and the canonical form that every operation keeps.
-/
namespace Sys2Proof.Machine

/-! ### Reading -/

@[simp] theorem Mem.read_nil (x : Nat) : Mem.read [] x = 0 := rfl

theorem Mem.read_cons (c : Host.Cell) (m : Mem) (x : Nat) : Mem.read (c :: m) x = if c.1 = x then c.2 else Mem.read m x := rfl

/-- An address that no cell names reads as zero. -/
theorem Mem.read_absent (m : Mem) (x : Nat) (h : ∀ c ∈ m, c.1 ≠ x) : m.read x = 0 := by
  induction m with
  | nil => rfl
  | cons c m ih => rw [Mem.read_cons, if_neg (h c (by simp)), ih fun d hd => h d (by simp [hd])]

theorem Mem.read_append (m k : Mem) (x : Nat) (h : ∀ c ∈ m, c.1 ≠ x) : Mem.read (m ++ k) x = k.read x := by
  induction m with
  | nil => rfl
  | cons c m ih => rw [List.cons_append, Mem.read_cons, if_neg (h c (by simp)), ih fun d hd => h d (by simp [hd])]

theorem Mem.read_append_left (m k : Mem) (x : Nat) (h : ∀ c ∈ k, c.1 ≠ x) : Mem.read (m ++ k) x = m.read x := by
  induction m with
  | nil => exact Mem.read_absent k x h
  | cons c m ih => simp only [List.cons_append, Mem.read_cons, ih]

/-- A filter that keeps every cell of an address leaves its value. -/
theorem Mem.read_filter (m : Mem) (p : Nat → Bool) (x : Nat) (h : p x = true) :
    Mem.read (m.filter fun c => p c.1) x = m.read x := by
  induction m with
  | nil => rfl
  | cons c m ih =>
    by_cases hc : p c.1 = true
    · rw [List.filter_cons_of_pos (by simpa using hc), Mem.read_cons, Mem.read_cons, ih]
    · rw [List.filter_cons_of_neg (by simpa using hc), Mem.read_cons, ih]
      have : c.1 ≠ x := fun e => hc (by rw [e]; exact h)
      rw [if_neg this]

/-- A filter that drops every cell of an address makes it read as zero. -/
theorem Mem.read_filter_out (m : Mem) (p : Nat → Bool) (x : Nat) (h : p x = false) :
    Mem.read (m.filter fun c => p c.1) x = 0 := by
  apply Mem.read_absent
  intro c hc e
  have := (List.mem_filter.mp hc).2
  rw [e] at this
  simp [h] at this

theorem Mem.cells_addr (a : Nat) (bs : List Byte) : ∀ c ∈ Mem.cells a bs, a ≤ c.1 ∧ c.1 < a + bs.length := by
  induction bs generalizing a with
  | nil => simp [Mem.cells]
  | cons b bs ih =>
    intro c hc
    simp only [Mem.cells] at hc
    split at hc
    · have := ih (a + 1) c hc; simp only [List.length_cons]; omega
    · rcases List.mem_cons.mp hc with rfl | h
      · simp
      · have := ih (a + 1) c h; simp only [List.length_cons]; omega

theorem Mem.read_cells (a : Nat) (bs : List Byte) (x : Nat) :
    (Mem.cells a bs).read x = if a ≤ x ∧ x < a + bs.length then bs.getD (x - a) 0 else 0 := by
  split
  next h =>
    obtain ⟨h1, h2⟩ := h
    induction bs generalizing a with
    | nil => simp at h2; omega
    | cons b bs ih =>
      simp only [List.length_cons] at h2
      by_cases e : a = x
      · subst e
        simp only [Mem.cells, Nat.sub_self, List.getD_cons_zero]
        split
        next hb =>
          rw [Mem.read_absent, hb]
          intro c hc; have := Mem.cells_addr (a + 1) bs c hc; omega
        next => simp [Mem.read_cons]
      · have e' : x - a = (x - (a + 1)) + 1 := by omega
        have hr := ih (a + 1) (by omega) (by omega)
        simp only [Mem.cells]
        rw [e', List.getD_cons_succ]
        split
        · exact hr
        · rw [Mem.read_cons, if_neg e, hr]
  next h =>
    apply Mem.read_absent
    intro c hc e
    have := Mem.cells_addr a bs c hc
    omega

/-- Reading after a write: the bytes written where they were written, and what stood there everywhere else. -/
theorem Mem.read_write (m : Mem) (a : Nat) (bs : List Byte) (x : Nat) :
    (m.write a bs).read x = if a ≤ x ∧ x < a + bs.length then bs.getD (x - a) 0 else m.read x := by
  unfold Mem.write
  have hc := Mem.read_cells a bs x
  have hl (c) (h : c ∈ m.filter fun c => decide (c.1 < a)) : c.1 < a := by simpa using (List.mem_filter.mp h).2
  have hr (c) (h : c ∈ m.filter fun c => decide (a + bs.length ≤ c.1)) : a + bs.length ≤ c.1 := by
    simpa using (List.mem_filter.mp h).2
  by_cases h1 : x < a
  · rw [if_neg (by omega), List.append_assoc, Mem.read_append_left, Mem.read_filter m (fun y => decide (y < a)) x (by simpa using h1)]
    intro c h
    rcases List.mem_append.mp h with h | h
    · have := Mem.cells_addr a bs c h; omega
    · have := hr c h; omega
  · by_cases h2 : x < a + bs.length
    · rw [if_pos (by omega), Mem.read_append_left, Mem.read_append, hc, if_pos (by omega)]
      · intro c h; have := hl c h; omega
      · intro c h; have := hr c h; omega
    · rw [if_neg (by omega), Mem.read_append, Mem.read_filter m (fun y => decide (a + bs.length ≤ y)) x (by simp; omega)]
      intro c h
      rcases List.mem_append.mp h with h | h
      · have := hl c h; omega
      · have := Mem.cells_addr a bs c h; omega

/-- An address outside the bytes written keeps its value. -/
theorem Mem.read_write_outside (m : Mem) (a : Nat) (bs : List Byte) (x : Nat) (h : x < a ∨ a + bs.length ≤ x) :
    (m.write a bs).read x = m.read x := by
  rw [Mem.read_write, if_neg (by omega)]

/-! ### The canonical form -/

@[simp] theorem Mem.wf_nil : Mem.wf [] = true := rfl

theorem Mem.wf_cons (c : Host.Cell) (m : Mem) :
    Mem.wf (c :: m) = true ↔ c.2 ≠ 0 ∧ (∀ d ∈ m, c.1 < d.1) ∧ m.wf = true := by
  simp [Mem.wf, and_assoc]

theorem Mem.wf_filter (m : Mem) (p : Host.Cell → Bool) (h : m.wf = true) : Mem.wf (m.filter p) = true := by
  induction m with
  | nil => rfl
  | cons c m ih =>
    rw [Mem.wf_cons] at h
    by_cases hp : p c = true
    · rw [List.filter_cons_of_pos hp, Mem.wf_cons]
      exact ⟨h.1, fun d hd => h.2.1 d (List.mem_filter.mp hd).1, ih h.2.2⟩
    · rw [List.filter_cons_of_neg hp]; exact ih h.2.2

theorem Mem.wf_append (m k : Mem) (hm : m.wf = true) (hk : k.wf = true) (h : ∀ c ∈ m, ∀ d ∈ k, c.1 < d.1) :
    Mem.wf (m ++ k) = true := by
  induction m with
  | nil => exact hk
  | cons c m ih =>
    rw [Mem.wf_cons] at hm
    rw [List.cons_append, Mem.wf_cons]
    refine ⟨hm.1, fun d hd => ?_, ih hm.2.2 fun e he => h e (by simp [he])⟩
    rcases List.mem_append.mp hd with hd | hd
    · exact hm.2.1 d hd
    · exact h c (by simp) d hd

theorem Mem.wf_cells (a : Nat) (bs : List Byte) : (Mem.cells a bs).wf = true := by
  induction bs generalizing a with
  | nil => rfl
  | cons b bs ih =>
    simp only [Mem.cells]
    split
    · exact ih (a + 1)
    · rw [Mem.wf_cons]
      refine ⟨by assumption, fun d hd => ?_, ih (a + 1)⟩
      have := Mem.cells_addr (a + 1) bs d hd
      show a < d.1
      omega

/-- A write keeps the canonical form. -/
theorem Mem.wf_write (m : Mem) (a : Nat) (bs : List Byte) (h : m.wf = true) : (m.write a bs).wf = true := by
  unfold Mem.write
  have hl (c) (hc : c ∈ m.filter fun c => decide (c.1 < a)) : c.1 < a := by simpa using (List.mem_filter.mp hc).2
  have hr (c) (hc : c ∈ m.filter fun c => decide (a + bs.length ≤ c.1)) : a + bs.length ≤ c.1 := by
    simpa using (List.mem_filter.mp hc).2
  refine Mem.wf_append _ _ (Mem.wf_append _ _ (Mem.wf_filter m _ h) (Mem.wf_cells a bs) ?_) (Mem.wf_filter m _ h) ?_
  · intro c hc d hd
    have := hl c hc
    have := Mem.cells_addr a bs d hd
    omega
  · intro c hc d hd
    have := hr d hd
    rcases List.mem_append.mp hc with hc | hc
    · have := hl c hc; omega
    · have := Mem.cells_addr a bs c hc; omega

/-- A write of a value keeps the canonical form. -/
theorem Mem.wf_put (m : Mem) (a n v : Nat) (h : m.wf = true) : (m.put a n v).wf = true := Mem.wf_write m a _ h

/-- Zeroing a range keeps the canonical form. -/
theorem Mem.wf_clear (m : Mem) (a n : Nat) (h : m.wf = true) : (m.clear a n).wf = true := Mem.wf_filter m _ h

theorem Mem.read_clear (m : Mem) (a n x : Nat) : (m.clear a n).read x = if a ≤ x ∧ x < a + n then 0 else m.read x := by
  unfold Mem.clear
  split
  · exact Mem.read_filter_out m (fun y => decide (y < a) || decide (a + n ≤ y)) x (by simp; omega)
  · exact Mem.read_filter m (fun y => decide (y < a) || decide (a + n ≤ y)) x (by simp; omega)

/-- Every listed byte of a canonical memory reads as it is listed, and differs from zero. -/
theorem Mem.read_mem (m : Mem) (h : m.wf = true) (c : Host.Cell) (hc : c ∈ m) : m.read c.1 = c.2 ∧ c.2 ≠ 0 := by
  induction m with
  | nil => simp at hc
  | cons d m ih =>
    rw [Mem.wf_cons] at h
    rcases List.mem_cons.mp hc with rfl | hc
    · exact ⟨by simp [Mem.read_cons], h.1⟩
    · have := ih h.2.2 hc
      have hlt := h.2.1 c hc
      exact ⟨by rw [Mem.read_cons, if_neg (by omega)]; exact this.1, this.2⟩

/-- Canonical memories that read alike are equal. -/
theorem Mem.ext_read (m k : Mem) (hm : m.wf = true) (hk : k.wf = true) (h : ∀ x, m.read x = k.read x) : m = k := by
  induction m generalizing k with
  | nil =>
    cases k with
    | nil => rfl
    | cons d k =>
      have := Mem.read_mem (d :: k) hk d (by simp)
      rw [← h d.1] at this
      simp at this
      exact absurd this.1.symm this.2
  | cons c m ih =>
    cases k with
    | nil =>
      have := Mem.read_mem (c :: m) hm c (by simp)
      rw [h c.1] at this
      simp at this
      exact absurd this.1.symm this.2
    | cons d k =>
      have cm := Mem.read_mem (c :: m) hm c (by simp)
      have dk := Mem.read_mem (d :: k) hk d (by simp)
      have hcd : c.1 = d.1 := by
        rw [Mem.wf_cons] at hm hk
        rcases Nat.lt_trichotomy c.1 d.1 with hlt | he | hlt
        · exfalso
          have : Mem.read (d :: k) c.1 = 0 := Mem.read_absent _ _ fun e he => by
            rcases List.mem_cons.mp he with rfl | he
            · omega
            · have := hk.2.1 e he; omega
          rw [← h c.1, cm.1] at this
          exact cm.2 this
        · exact he
        · exfalso
          have : Mem.read (c :: m) d.1 = 0 := Mem.read_absent _ _ fun e he => by
            rcases List.mem_cons.mp he with rfl | he
            · omega
            · have := hm.2.1 e he; omega
          rw [h d.1, dk.1] at this
          exact dk.2 this
      have hv : c.2 = d.2 := by rw [← cm.1, ← dk.1, hcd, h d.1]
      have hc : c = d := Prod.ext hcd hv
      subst hc
      rw [Mem.wf_cons] at hm hk
      rw [ih k hm.2.2 hk.2.2 fun x => ?_]
      have := h x
      rw [Mem.read_cons, Mem.read_cons] at this
      by_cases e : c.1 = x
      · rw [Mem.read_absent m x fun y hy => by have := hm.2.1 y hy; omega,
          Mem.read_absent k x fun y hy => by have := hk.2.1 y hy; omega]
      · simpa [e] using this

theorem Mem.rising_range (lo hi : Nat) (m : Mem) : ∀ c ∈ Mem.rising lo hi m, lo ≤ c.1 ∧ c.1 < hi := by
  induction m generalizing lo with
  | nil => simp [Mem.rising]
  | cons d m ih =>
    intro c hc
    simp only [Mem.rising] at hc
    split at hc
    next h =>
      rcases List.mem_cons.mp hc with rfl | hc
      · exact ⟨h.1, h.2.1⟩
      · have := ih (d.1 + 1) c hc; omega
    next => exact ih lo c hc

theorem Mem.wf_rising (lo hi : Nat) (m : Mem) : (Mem.rising lo hi m).wf = true := by
  induction m generalizing lo with
  | nil => rfl
  | cons c m ih =>
    simp only [Mem.rising]
    split
    next h =>
      refine (Mem.wf_cons _ _).mpr ⟨h.2.2, fun d hd => ?_, ih _⟩
      have := Mem.rising_range _ _ _ d hd
      omega
    next => exact ih lo

/-- A spliced memory is canonical, whatever the cells are. -/
theorem Mem.wf_splice (m : Mem) (base n : Nat) (cells : Mem) (h : m.wf = true) : (m.splice base n cells).wf = true := by
  unfold Mem.splice
  refine Mem.wf_append _ _ (Mem.wf_append _ _ (Mem.wf_filter m _ h) (Mem.wf_rising ..) ?_) (Mem.wf_filter m _ h) ?_
  · intro c hc d hd
    have := (List.mem_filter.mp hc).2
    have := Mem.rising_range _ _ _ d hd
    simp at *
    omega
  · intro c hc d hd
    have hd := (List.mem_filter.mp hd).2
    rcases List.mem_append.mp hc with hc | hc
    · have hc := (List.mem_filter.mp hc).2
      simp at *
      omega
    · have := Mem.rising_range _ _ _ c hc
      simp at *
      omega

/-- The cells of a range, moved down to it, are canonical. -/
theorem Mem.wf_part (m : Mem) (a n : Nat) (h : m.wf = true) : Mem.wf ((m.part a n).map fun c => (c.1 - a, c.2)) = true := by
  have hr : ∀ c ∈ m.part a n, a ≤ c.1 := fun c hc => by
    have := (List.mem_filter.mp hc).2
    simp at this
    exact this.1
  have hw : (m.part a n).wf = true := Mem.wf_filter m _ h
  generalize m.part a n = k at hr hw
  induction k with
  | nil => rfl
  | cons c k ih =>
    have hk := (Mem.wf_cons c k).mp hw
    rw [List.map_cons]
    refine (Mem.wf_cons _ _).mpr ⟨hk.1, fun d hd => ?_, ih (fun d hd => hr d (List.mem_cons_of_mem c hd)) hk.2.2⟩
    obtain ⟨e, he, rfl⟩ := List.mem_map.mp hd
    have := hk.2.1 e he
    have := hr c List.mem_cons_self
    show c.1 - a < e.1 - a
    omega

/-! ### Bytes -/

theorem Mem.fill_eq (m : Mem) (a n : Nat) (h : m.wf = true) (low : ∀ c ∈ m, a ≤ c.1) :
    m.fill a n = (List.range n).map fun i => m.read (a + i) := by
  induction n generalizing m a with
  | zero => cases m <;> rfl
  | succ n ih =>
    rw [List.range_succ_eq_map, List.map_cons, List.map_map]
    cases m with
    | nil =>
      simp only [Mem.fill, Mem.read_nil]
      rw [ih [] (a + 1) rfl (by simp)]
      simp [Function.comp_def]
    | cons c m =>
      have hw := (Mem.wf_cons c m).mp h
      have hl := low c (by simp)
      simp only [Mem.fill]
      split
      next e =>
        rw [ih m (a + 1) hw.2.2 fun d hd => by have := hw.2.1 d hd; omega]
        congr 1
        · simp [Mem.read_cons, e]
        · apply List.map_congr_left
          intro i _
          simp only [Function.comp_def, Mem.read_cons]
          rw [if_neg (by omega)]
          congr 1
          omega
      next e =>
        rw [ih (c :: m) (a + 1) h fun d hd => by
          rcases List.mem_cons.mp hd with rfl | hd
          · omega
          · have := hw.2.1 d hd; omega]
        congr 1
        · rw [Mem.read_absent]
          intro d hd
          rcases List.mem_cons.mp hd with rfl | hd
          · simpa using e
          · have := hw.2.1 d hd; omega
        · apply List.map_congr_left
          intro i _
          simp only [Function.comp_def]
          congr 1
          omega

/-- The n bytes from a on are those that reading gives one by one. -/
theorem Mem.bytes_eq (m : Mem) (a n : Nat) (h : m.wf = true) : m.bytes a n = (List.range n).map fun i => m.read (a + i) := by
  unfold Mem.bytes
  rw [Mem.fill_eq _ a n (Mem.wf_filter m _ h) fun c hc => by have := (List.mem_filter.mp hc).2; simp at this; exact this.1]
  apply List.map_congr_left
  intro i hi
  exact Mem.read_filter m (fun y => decide (a ≤ y) && decide (y < a + n)) (a + i) (by simp at hi; simp [hi])

/-! ### The memories of a tile -/

theorem Tile.memOk_iff (t : Tile) :
    (t.setA.bytes.wf && t.setB.bytes.wf && t.silo.wf) = true ↔ t.active.bytes.wf = true ∧ t.shadow.bytes.wf = true ∧ t.silo.wf = true := by
  unfold Tile.active Tile.shadow
  split <;> simp [and_assoc, and_left_comm]

@[simp] theorem Tile.active_setActive (t : Tile) (b : BankSet) : (t.setActive b).active = b := by
  unfold Tile.setActive; split <;> simp_all [Tile.active]

@[simp] theorem Tile.shadow_setActive (t : Tile) (b : BankSet) : (t.setActive b).shadow = t.shadow := by
  unfold Tile.setActive; split <;> simp_all [Tile.shadow]

@[simp] theorem Tile.active_setShadow (t : Tile) (b : BankSet) : (t.setShadow b).active = t.active := by
  unfold Tile.setShadow; split <;> simp_all [Tile.active]

@[simp] theorem Tile.shadow_setShadow (t : Tile) (b : BankSet) : (t.setShadow b).shadow = b := by
  unfold Tile.setShadow; split <;> simp_all [Tile.shadow]

@[simp] theorem Tile.silo_setActive (t : Tile) (b : BankSet) : (t.setActive b).silo = t.silo := by
  unfold Tile.setActive; split <;> rfl

@[simp] theorem Tile.silo_setShadow (t : Tile) (b : BankSet) : (t.setShadow b).silo = t.silo := by
  unfold Tile.setShadow; split <;> rfl

end Sys2Proof.Machine
end

