-- ==== Sys2Proof/Laws/Canonical.lean ====
section
/-!
SUPPORT. The canonical form of every memory of the package, and the updates that keep it.
-/
namespace Sys2Proof.Machine

/-- A tile's memories are canonical when both bank sets, by role, and the silo are. -/
theorem Tile.memOk_roles (t : Tile) :
    t.memOk = true ↔ t.active.bytes.wf = true ∧ t.shadow.bytes.wf = true ∧ t.silo.wf = true := Tile.memOk_iff t

/-- A tile that differs in nothing that holds bytes. -/
theorem Tile.memOk_congr {t u : Tile} (ha : u.setA.bytes = t.setA.bytes) (hb : u.setB.bytes = t.setB.bytes) (hs : u.silo = t.silo) :
    u.memOk = t.memOk := by
  simp [Tile.memOk, ha, hb, hs]

theorem Tile.memOk_spWrite {t : Tile} (h : t.memOk = true) (off : Nat) (bs : List Byte) : (t.spWrite off bs).memOk = true := by
  rw [Tile.memOk_roles] at *
  unfold Tile.spWrite
  split <;> simp [Mem.wf_write, h]

theorem Tile.memOk_winWrite {t : Tile} (h : t.memOk = true) (a : Nat) (v : Byte) : (t.winWrite a v).memOk = true := by
  unfold Tile.winWrite
  split
  · exact Tile.memOk_spWrite h a [v]
  · have h1 := (Tile.memOk_roles t).mp h
    split
    · rw [Tile.memOk_roles]; simp [BankSet.setTagByte, BankSet.setTag, h1]
    · split
      · rw [Tile.memOk_roles]; simp [BankSet.setTagByte, BankSet.setTag, h1]
      · simp only [Tile.memOk, Bool.and_eq_true] at *
        exact ⟨h.1, Mem.wf_write _ _ _ h.2⟩

theorem Die.memOk_iff (x : Die) : x.memOk = true ↔ x.dram.wf = true ∧ ∀ k, (nth x.tiles k).memOk = true := by
  simp only [Die.memOk, Bool.and_eq_true, List.all_eq_true, Vector.mem_toList_iff]
  refine and_congr_right fun _ => ⟨fun h k => h _ ?_, fun h y hy => ?_⟩
  · exact Vector.getElem_mem k.isLt
  · obtain ⟨i, hi, rfl⟩ := Vector.getElem_of_mem hy
    exact h ⟨i, hi⟩

theorem State.memOk_iff (s : State) : s.memOk = true ↔ s.host.wf = true ∧ ∀ d, (s.dieAt d).memOk = true := by
  simp only [State.memOk, Bool.and_eq_true, List.all_eq_true, Vector.mem_toList_iff]
  refine and_congr_right fun _ => ⟨fun h k => h _ ?_, fun h y hy => ?_⟩
  · exact Vector.getElem_mem k.isLt
  · obtain ⟨i, hi, rfl⟩ := Vector.getElem_of_mem hy
    exact h ⟨i, hi⟩

/-- A state with the same dies and the same host memory. -/
theorem State.memOk_congr {s t : State} (hd : t.dies = s.dies) (hh : t.host = s.host) : t.memOk = s.memOk := by
  simp [State.memOk, hd, hh]

theorem State.memOk_modDie {s : State} (h : s.memOk = true) (d : DieIx) (f : Die → Die)
    (hf : (s.dieAt d).memOk = true → (f (s.dieAt d)).memOk = true) : (s.modDie d f).memOk = true := by
  rw [State.memOk_iff] at *
  refine ⟨h.1, fun e => ?_⟩
  rw [State.dieAt_modDie]
  split
  · exact hf (h.2 d)
  · exact h.2 e

theorem State.memOk_modTile {s : State} (h : s.memOk = true) (d : DieIx) (t : TileIx) (f : Tile → Tile)
    (hf : (s.tileAt d t).memOk = true → (f (s.tileAt d t)).memOk = true) : (s.modTile d t f).memOk = true := by
  refine State.memOk_modDie h d _ fun hd => ?_
  rw [Die.memOk_iff] at *
  refine ⟨hd.1, fun k => ?_⟩
  show (nth (upd (s.dieAt d).tiles t (f (s.tileAt d t))) k).memOk = true
  rw [nth_upd]
  split
  · exact hf (hd.2 t)
  · exact hd.2 k

theorem State.memOk_modHere {s : State} (h : s.memOk = true) (f : Tile → Tile) (hf : s.here.memOk = true → (f s.here).memOk = true) :
    (s.modHere f).memOk = true := State.memOk_modTile h _ _ f hf

/-- A change of a context's entry touches no byte. -/
theorem State.memOk_modCtx {s : State} (h : s.memOk = true) (d : DieIx) (q : Fin 16) (f : CtxDie → CtxDie) :
    (s.modCtx d q f).memOk = true := State.memOk_modDie h d _ fun hd => hd

/-- An image that is spliced into a die's DRAM leaves it canonical. -/
theorem Die.memOk_splice {x : Die} (h : x.memOk = true) (y : Die) (base n : Nat) (m : Mem) (hd : y.dram = x.dram.splice base n m)
    (ht : y.tiles = x.tiles) : y.memOk = true := by
  simp only [Die.memOk, Bool.and_eq_true] at *
  rw [hd, ht]
  exact ⟨Mem.wf_splice _ _ _ _ h.1, h.2⟩

end Sys2Proof.Machine
end

