-- ==== Sys2Proof/Laws/Ops.lean ====
section
/-!
SUPPORT. What the shared operations do, said once: the three outcomes of a control-core operation, the request that an
operation makes, and the outcomes of a record's iteration with the results that it leaves in flight.
-/
namespace Sys2Proof.Machine

/-! ### The control core -/

/-- The semaphores after the wait that SW names. -/
def Tile.opWait (t : Tile) (o : Op) : Tile :=
  match o.sw with
  | some k => t.takeSem k 1
  | none => t

theorem canWait_of_le {t : Tile} {k : Fin 16} {n : Nat} (h : n ≤ (nth t.sems k).count.toNat) : t.canWait k n = true := by
  simp [Tile.canWait, h]

theorem waitFilter_none {o : Op} {t : Tile} (h : ∀ k, o.sw = some k → 1 ≤ (nth t.sems k).count.toNat) :
    o.sw.filter (fun k => !t.canWait k 1) = none := by
  cases hk : o.sw with
  | none => rfl
  | some k => simp [Option.filter, canWait_of_le (h k hk)]

theorem waitFilter_some {o : Op} {t : Tile} {k : Fin 16} (hk : o.sw = some k) (h : (nth t.sems k).count = 0) :
    o.sw.filter (fun k => !t.canWait k 1) = some k := by
  simp [hk, Option.filter, Tile.canWait, h]

/-- A granted operation whose checks hold makes its wait and issues. -/
theorem State.ccTry_go (s : State) (o : Op) (body : State → State)
    (h : ∀ k, o.sw = some k → 1 ≤ (nth s.here.sems k).count.toNat) :
    s.ccTry o none body = body (s.modHere fun t => (t.opWait o).issueWord) := by
  unfold State.ccTry
  rw [waitFilter_none h]
  cases hk : o.sw <;> simp [hk, Tile.opWait]

/-- A granted operation of which a check fails takes the precise trap. -/
theorem State.ccTry_trap (s : State) (o : Op) (c : BitVec 16) (v : Word) (body : State → State)
    (h : ∀ k, o.sw = some k → 1 ≤ (nth s.here.sems k).count.toNat) : s.ccTry o (some (c, v)) body = s.preciseTrap c v := by
  unfold State.ccTry
  rw [waitFilter_none h]

/-- An operation whose wait is not granted stalls. -/
theorem State.ccTry_wait (s : State) (o : Op) (x : Option (BitVec 16 × Word)) (body : State → State) (k : Fin 16)
    (hk : o.sw = some k) (h : (nth s.here.sems k).count = 0) : s.ccTry o x body = s.stallCc (.sem k) := by
  unfold State.ccTry
  rw [waitFilter_some hk h]

/-- A line requested ahead changes nothing else. -/
theorem Tile.requestLine_eq (t : Tile) (a : Word) : t.requestLine a = { t with fetch := (t.requestLine a).fetch } := by
  unfold Tile.requestLine
  split <;> rfl

/-- The end of an agent's turn changes the phase alone. -/
theorem Tile.turnDone_eq (t : Tile) (ag : Agent) : t.turnDone ag = { t with phase := (t.turnDone ag).phase } := by
  unfold Tile.turnDone
  split <;> rfl

/-- The fields that the issue of a word changes. -/
theorem Tile.issueWord_eq (t : Tile) :
    t.issueWord = { t with
      cc := { t.cc with pc := nextPc t.cc.pc, wfeBack := none }, fetch := t.issueWord.fetch, stalled := none
      phase := t.issueWord.phase, activity := t.issueWord.activity } := by
  have h : ∃ f, t.fetchAhead = { t with fetch := f } := by
    unfold Tile.fetchAhead
    split
    · exact ⟨_, by rw [Tile.requestLine_eq (t.requestLine _), Tile.requestLine_eq t]⟩
    · exact ⟨t.fetch, rfl⟩
  obtain ⟨f, h⟩ := h
  unfold Tile.issueWord
  simp only [h, Tile.drew]
  rw [Tile.turnDone_eq]

theorem Tile.opWait_eq (t : Tile) (o : Op) : t.opWait o = { t with sems := (t.opWait o).sems } := by
  unfold Tile.opWait Tile.takeSem
  split <;> rfl

@[simp] theorem Tile.issueWord_pc (t : Tile) : t.issueWord.cc.pc = nextPc t.cc.pc := by rw [Tile.issueWord_eq]
@[simp] theorem Tile.issueWord_sems (t : Tile) : t.issueWord.sems = t.sems := by rw [Tile.issueWord_eq]
@[simp] theorem Tile.issueWord_flight (t : Tile) : t.issueWord.flight = t.flight := by rw [Tile.issueWord_eq]
@[simp] theorem Tile.issueWord_now (t : Tile) : t.issueWord.now = t.now := by rw [Tile.issueWord_eq]
@[simp] theorem Tile.issueWord_seg (t : Tile) : t.issueWord.seg = t.seg := by rw [Tile.issueWord_eq]
@[simp] theorem Tile.issueWord_level (t : Tile) : t.issueWord.cc.level = t.cc.level := by rw [Tile.issueWord_eq]
@[simp] theorem Tile.issueWord_ctxid (t : Tile) : t.issueWord.cc.ctxid = t.cc.ctxid := by rw [Tile.issueWord_eq]
@[simp] theorem Tile.issueWord_asid (t : Tile) : t.issueWord.cc.asid = t.cc.asid := by rw [Tile.issueWord_eq]
@[simp] theorem Tile.opWait_cc (t : Tile) (o : Op) : (t.opWait o).cc = t.cc := by rw [Tile.opWait_eq]
@[simp] theorem Tile.opWait_flight (t : Tile) (o : Op) : (t.opWait o).flight = t.flight := by rw [Tile.opWait_eq]
@[simp] theorem Tile.opWait_now (t : Tile) (o : Op) : (t.opWait o).now = t.now := by rw [Tile.opWait_eq]
@[simp] theorem Tile.opWait_seg (t : Tile) (o : Op) : (t.opWait o).seg = t.seg := by rw [Tile.opWait_eq]

/-- Whether a result is left in flight. -/
def Result.keeps (r : Result) : Bool := !(r.effects.isEmpty && r.post.isNone && r.sample.isNone)

/-- An operation leaves its result in flight, unless it writes nothing and posts nothing. -/
theorem Tile.issue_eq (t : Tile) (x : Result) : t.issue x = { t with flight := t.flight ++ [x].filter Result.keeps } := by
  unfold Tile.issue
  by_cases h : x.effects = [] ∧ x.post = none ∧ x.sample = none
  · have : Result.keeps x = false := by simp [Result.keeps, h]
    simp [h, this]
  · have : Result.keeps x = true := by
      rw [Result.keeps, Bool.not_eq_true', ← Bool.not_eq_true]
      intro hc
      exact h (by simpa [and_assoc, List.isEmpty_iff] using hc)
    simp [h, this]

/-- A request of the control core that nothing holds back: it is appended with its arrival, post and word, and closes the
segment when it is to. -/
theorem State.ccSend_go (s : State) (o : Op) (a : Ask)
    (h : ∀ k, o.sw = some k → 1 ≤ (nth s.here.sems k).count.toNat) (hf : a.closes = true → s.here.segmentsFull = false) :
    s.ccSend o none a = (s.modHere fun t => (t.opWait o).issueWord).request .cc
      { a with arrival := o.arrival, post := o.sp.map (fun k => { k }), fpc := s.here.cc.pc } := by
  unfold State.ccSend
  have : (a.closes && s.here.segmentsFull) = false := by
    cases hc : a.closes
    · rfl
    · simp [hf hc]
  simp only [this, Bool.false_and, Bool.false_eq_true, if_false]
  exact State.ccTry_go _ _ _ h

/-! ### Records -/

/-- The iteration that an agent is to issue. -/
def State.iteration (s : State) (i : Instr) (tl : Tail) (fix : Running → Running) : Running :=
  let r0 := s.here.fixRecord ((nth s.here.seqs s.agent.seqIx).running i) tl
  if r0.began then r0 else fix r0

/-- The tile after an active iteration that plans `p` has issued. -/
def Tile.iterated (t : Tile) (ag : Agent) (q : Seq) (r : Running) (o : Op) (tl : Tail) (p : Plan) : Tile :=
  let t := match dueWait o tl q r with
    | some k => t.takeSem k 1
    | none => t
  let t := { t with streams := p.pops.foldl (fun v k => upd v k (nth v k).pop) t.streams }
  let t := match p.push with
    | some k => { t with streams := upd t.streams k (nth t.streams k).reserve }
    | none => t
  ((t.drew ag).setSeq ag (q.issued r tl p.occ)).turnDone ag

theorem Plan.streamStall_none {p : Plan} {t : Tile} (hp : ∀ k ∈ p.pops, (nth t.streams k).readable = true)
    (hq : ∀ k, p.push = some k → (nth t.streams k).writable = true) : p.streamStall t = none := by
  have : p.pops.find? (fun i => !(nth t.streams i).readable) = none := by
    rw [List.find?_eq_none]
    intro k hk
    simp [hp k hk]
  unfold Plan.streamStall
  rw [this]
  cases h : p.push with
  | none => rfl
  | some k => simp [hq k h]

theorem Plan.verdict_issues {p : Plan} {t : Tile} {w : Option (Fin 16)}
    (hw : ∀ k, w = some k → 1 ≤ (nth t.sems k).count.toNat) (ht : p.trap = none) (hb : p.block = none)
    (hp : ∀ k ∈ p.pops, (nth t.streams k).readable = true) (hq : ∀ k, p.push = some k → (nth t.streams k).writable = true) :
    p.verdict t w = .issues := by
  have : w.filter (fun k => !t.canWait k 1) = none := by
    cases hk : w with
    | none => rfl
    | some k => simp [Option.filter, canWait_of_le (hw k hk)]
  unfold Plan.verdict
  rw [this, ht, hb, Plan.streamStall_none hp hq]

/-- An active iteration that nothing holds back issues, and then has its effect. -/
theorem State.iterate_go (s : State) (i : Instr) (o : Op) (tl : Tail) (fix : Running → Running)
    (plan : Seq → Running → Bool → Plan) (body : State → Issue → State) (p : Plan)
    (hp : plan (nth s.here.seqs s.agent.seqIx) (s.iteration i tl fix) false = p)
    (hi : (s.iteration i tl fix).idle tl = false)
    (hv : p.verdict s.here (dueWait o tl (nth s.here.seqs s.agent.seqIx) (s.iteration i tl fix)) = .issues) :
    s.iterate i o tl fix plan body =
      body (s.modHere fun t => t.iterated s.agent (nth s.here.seqs s.agent.seqIx) (s.iteration i tl fix) o tl p)
        { q := nth s.here.seqs s.agent.seqIx, r := s.iteration i tl fix
          slot := match p.push with
            | some k => (nth s.here.streams k).tail
            | none => 0
          post := duePost o tl (nth s.here.seqs s.agent.seqIx) (s.iteration i tl fix) } := by
  unfold State.iterate
  simp only [State.iteration] at hp hi hv ⊢
  simp only [hi, hp, hv, Bool.false_eq_true, if_false]
  rfl

theorem Tile.iterated_eq (t : Tile) (ag : Agent) (q : Seq) (r : Running) (o : Op) (tl : Tail) (p : Plan) :
    t.iterated ag q r o tl p = { t with
      sems := match dueWait o tl q r with
        | some k => upd t.sems k { nth t.sems k with count := (nth t.sems k).count - 1 }
        | none => t.sems
      streams :=
        let v := p.pops.foldl (fun v k => upd v k (nth v k).pop) t.streams
        match p.push with
        | some k => upd v k (nth v k).reserve
        | none => v
      seqs := upd t.seqs ag.seqIx (q.issued r tl p.occ)
      phase := (t.iterated ag q r o tl p).phase, activity := (t.iterated ag q r o tl p).activity } := by
  unfold Tile.iterated Tile.turnDone Tile.drew Tile.setSeq Tile.takeSem
  cases dueWait o tl q r <;> cases p.push <;> dsimp only <;> split <;> rfl

/-! ### Results of an iteration -/

/-- The post on the last of the results. -/
def postOnLast (p : Option Post) : List Result → List Result
  | [] => []
  | [r] => [{ r with post := p }]
  | r :: rs => r :: postOnLast p rs

/-- A result with what the iteration stamps on it. -/
def Result.stamp (ag : Agent) (t : Tile) (x : Issue) (r : Result) : Result :=
  { r with agent := ag, issued := t.now, fpc := BitVec.ofNat 64 x.r.off, fidx := x.r.fidx }

theorem postOnLast_reverse (p : Option Post) (rs : List Result) :
    (match rs.reverse with
      | [] => []
      | r :: more => (({ r with post := p } : Result) :: more).reverse) = postOnLast p rs := by
  induction rs with
  | nil => rfl
  | cons a rs ih =>
    cases rs with
    | nil => rfl
    | cons b rs =>
      rw [List.reverse_cons]
      cases h : (b :: rs).reverse with
      | nil => simp at h
      | cons c cs =>
        rw [h] at ih
        simp only [List.cons_append, List.reverse_cons, List.reverse_append] at ih ⊢
        simp only [postOnLast]
        rw [← ih]
        simp

theorem foldl_issue (ag : Agent) (x : Issue) (rs : List Result) (t u : Tile) :
    rs.foldl (fun t r => t.issue (Result.stamp ag u x r)) t =
      { t with flight := t.flight ++ (rs.map (Result.stamp ag u x)).filter Result.keeps } := by
  induction rs generalizing t with
  | nil => simp
  | cons r rs ih =>
    rw [List.foldl_cons, ih, Tile.issue_eq]
    cases hk : Result.keeps (Result.stamp ag u x r) <;> simp [hk]

/-- Results of which the last ones are written last stay in their order, and the post goes with the last. -/
theorem State.addResults_parts (s : State) (x : Issue) (low high : List Result)
    (hne : low ++ high ≠ [])
    (hl : ∀ r ∈ low, r.left < ((low ++ high).foldl (fun m r => max m r.left) 0))
    (hh : ∀ r ∈ high, ¬ r.left < ((low ++ high).foldl (fun m r => max m r.left) 0)) :
    s.addResults x (low ++ high) = s.modHere fun t =>
      { t with flight := t.flight ++ ((low ++ postOnLast x.post high).map (Result.stamp s.agent t x)).filter Result.keeps } := by
  unfold State.addResults
  have he : (low ++ high).isEmpty = false := by
    cases h : low ++ high with
    | nil => exact absurd h hne
    | cons _ _ => rfl
  have h1 : (low ++ high).filter (fun r => decide (r.left < ((low ++ high).foldl (fun m r => max m r.left) 0))) = low := by
    rw [List.filter_append, List.filter_eq_self.mpr, List.filter_eq_nil_iff.mpr, List.append_nil]
    · intro r hr; simpa using hh r hr
    · intro r hr; simpa using hl r hr
  have h2 : (low ++ high).filter (fun r => !decide (r.left < ((low ++ high).foldl (fun m r => max m r.left) 0))) = high := by
    rw [List.filter_append, List.filter_eq_nil_iff.mpr, List.filter_eq_self.mpr, List.nil_append]
    · intro r hr; simpa using hh r hr
    · intro r hr; simpa using hl r hr
  simp only [he, Bool.false_eq_true, if_false, h1, h2]
  congr 1
  funext t
  exact Eq.trans (congrArg (fun l => (low ++ l).foldl (fun t' r => t'.issue (Result.stamp s.agent t x r)) t)
    (postOnLast_reverse x.post high)) (foldl_issue s.agent x _ t t)

/-- One result. -/
theorem State.addResults_one (s : State) (x : Issue) (r : Result) :
    s.addResults x [r] = s.modHere fun t =>
      { t with flight := t.flight ++ ([Result.stamp s.agent t x { r with post := x.post }]).filter Result.keeps } := by
  have := s.addResults_parts x [] [r] (by simp) (by simp) (by simp)
  simpa [postOnLast] using this

/-- No result: the post is made in the issue cycle. -/
theorem State.addResults_nil (s : State) (x : Issue) :
    s.addResults x [] = s.modHere fun t =>
      { t with flight := t.flight ++ ([Result.stamp s.agent t x { agent := s.agent, left := 1, issued := t.now, post := x.post }]).filter Result.keeps } := by
  unfold State.addResults
  refine congrArg s.modHere (funext fun t => ?_)
  exact foldl_issue s.agent x [{ agent := s.agent, left := 1, issued := t.now, post := x.post }] t t

/-! ### What stays -/

/-- Every byte of a tile's window reads alike where its bank sets, role and silo are the same. -/
theorem Tile.winByte_congr {t u : Tile} (ha : u.setA = t.setA) (hb : u.setB = t.setB) (hr : u.roleB = t.roleB) (hs : u.silo = t.silo)
    (a : Nat) : u.winByte a = t.winByte a := by
  unfold Tile.winByte Tile.active Tile.shadow
  rw [ha, hb, hr, hs]

/-- The moving tile replaced by what it has become is the state after a change of the moving tile alone. -/
theorem State.modHere_setTile (s : State) (f : Tile → Tile) : s.modHere f = s.setTile s.die s.tile (s.modHere f).here := by
  rw [State.here_modHere, State.modHere_eq_setTile]

end Sys2Proof.Machine
end

