-- ==== Sys2Proof/Laws/PerInstr.lean ====
section
/-!
SUPPORT. What is said of every instruction as syntax, one lemma for each constructor: the pair that its encoding names fits the word's
fields (R65), and the decoder's table, given that pair and the same fields, makes an instruction of the very same encoding (R81).
-/
namespace Sys2Proof.Laws.CodedRebuilds

/-- The pair of an instruction's encoding fits in MAJ and FN, and what the pair and the fields are read as has the same encoding. -/
def Statement (i : Instr) : Prop :=
  ∀ c, i.coded = some c →
    c.maj < 256 ∧ c.fn < 256 ∧ ∀ j, Instr.build c.maj c.fn c.op c.tail = some j → j.coded = some c

theorem of_none {i : Instr} (h : i.coded = none) : Statement i := fun c hc => by rw [h] at hc; exact absurd hc (by simp)

theorem of_build {i : Instr} {c : Coded} (h : i.coded = some c) (hm : Nat.ble (c.maj + 1) 256 = true)
    (hf : Nat.ble (c.fn + 1) 256 = true)
    (hb : ∀ j, Instr.build c.maj c.fn c.op c.tail = some j → j.coded = some c) : Statement i := fun d hd => by
  rw [h] at hd
  cases hd
  exact ⟨Nat.le_of_ble_eq_true hm, Nat.le_of_ble_eq_true hf, hb⟩

theorem some_eq {i j : Instr} {c : Coded} (hi : i.coded = some c) (h : some i = some j) : j.coded = some c := by
  cases h
  exact hi

end Sys2Proof.Laws.CodedRebuilds

namespace Sys2Proof.Laws.CodedRebuilds

theorem add (o : Op) : Statement (.add o : Instr) := of_build rfl rfl rfl fun _ h => some_eq rfl h
theorem sub (o : Op) : Statement (.sub o : Instr) := of_build rfl rfl rfl fun _ h => some_eq rfl h
theorem and (o : Op) : Statement (.and o : Instr) := of_build rfl rfl rfl fun _ h => some_eq rfl h
theorem or (o : Op) : Statement (.or o : Instr) := of_build rfl rfl rfl fun _ h => some_eq rfl h
theorem xor (o : Op) : Statement (.xor o : Instr) := of_build rfl rfl rfl fun _ h => some_eq rfl h
theorem andn (o : Op) : Statement (.andn o : Instr) := of_build rfl rfl rfl fun _ h => some_eq rfl h
theorem sll (o : Op) : Statement (.sll o : Instr) := of_build rfl rfl rfl fun _ h => some_eq rfl h
theorem srl (o : Op) : Statement (.srl o : Instr) := of_build rfl rfl rfl fun _ h => some_eq rfl h
theorem sra (o : Op) : Statement (.sra o : Instr) := of_build rfl rfl rfl fun _ h => some_eq rfl h
theorem rotl (o : Op) : Statement (.rotl o : Instr) := of_build rfl rfl rfl fun _ h => some_eq rfl h
theorem min (o : Op) : Statement (.min o : Instr) := of_build rfl rfl rfl fun _ h => some_eq rfl h
theorem max (o : Op) : Statement (.max o : Instr) := of_build rfl rfl rfl fun _ h => some_eq rfl h
theorem minn (o : Op) : Statement (.minn o : Instr) := of_build rfl rfl rfl fun _ h => some_eq rfl h
theorem maxn (o : Op) : Statement (.maxn o : Instr) := of_build rfl rfl rfl fun _ h => some_eq rfl h
theorem mul (o : Op) : Statement (.mul o : Instr) := of_build rfl rfl rfl fun _ h => some_eq rfl h
theorem mulh (o : Op) : Statement (.mulh o : Instr) := of_build rfl rfl rfl fun _ h => some_eq rfl h
theorem mulhn (o : Op) : Statement (.mulhn o : Instr) := of_build rfl rfl rfl fun _ h => some_eq rfl h
theorem div (o : Op) : Statement (.div o : Instr) := of_build rfl rfl rfl fun _ h => some_eq rfl h
theorem divn (o : Op) : Statement (.divn o : Instr) := of_build rfl rfl rfl fun _ h => some_eq rfl h
theorem rem (o : Op) : Statement (.rem o : Instr) := of_build rfl rfl rfl fun _ h => some_eq rfl h
theorem remn (o : Op) : Statement (.remn o : Instr) := of_build rfl rfl rfl fun _ h => some_eq rfl h
theorem clz (o : Op) : Statement (.clz o : Instr) := of_build rfl rfl rfl fun _ h => some_eq rfl h
theorem ctz (o : Op) : Statement (.ctz o : Instr) := of_build rfl rfl rfl fun _ h => some_eq rfl h
theorem popc (o : Op) : Statement (.popc o : Instr) := of_build rfl rfl rfl fun _ h => some_eq rfl h
theorem sel (o : Op) : Statement (.sel o : Instr) := of_build rfl rfl rfl fun _ h => some_eq rfl h
theorem cmp (o : Op) : Statement (.cmp o : Instr) := of_build rfl rfl rfl fun _ h => some_eq rfl h
theorem li (o : Op) : Statement (.li o : Instr) := of_build rfl rfl rfl fun _ h => some_eq rfl h
theorem lih (o : Op) : Statement (.lih o : Instr) := of_build rfl rfl rfl fun _ h => some_eq rfl h
theorem lea (o : Op) : Statement (.lea o : Instr) := of_build rfl rfl rfl fun _ h => some_eq rfl h
theorem fadd (o : Op) : Statement (.fadd o : Instr) := of_build rfl rfl rfl fun _ h => some_eq rfl h
theorem fsub (o : Op) : Statement (.fsub o : Instr) := of_build rfl rfl rfl fun _ h => some_eq rfl h
theorem fmul (o : Op) : Statement (.fmul o : Instr) := of_build rfl rfl rfl fun _ h => some_eq rfl h
theorem fdiv (o : Op) : Statement (.fdiv o : Instr) := of_build rfl rfl rfl fun _ h => some_eq rfl h
theorem fsqrt (o : Op) : Statement (.fsqrt o : Instr) := of_build rfl rfl rfl fun _ h => some_eq rfl h
theorem ffma (o : Op) : Statement (.ffma o : Instr) := of_build rfl rfl rfl fun _ h => some_eq rfl h
theorem fmin (o : Op) : Statement (.fmin o : Instr) := of_build rfl rfl rfl fun _ h => some_eq rfl h
theorem fmax (o : Op) : Statement (.fmax o : Instr) := of_build rfl rfl rfl fun _ h => some_eq rfl h
theorem fcmp (o : Op) : Statement (.fcmp o : Instr) := of_build rfl rfl rfl fun _ h => some_eq rfl h
theorem fcvt (o : Op) : Statement (.fcvt o : Instr) := of_build rfl rfl rfl fun _ h => some_eq rfl h
theorem pbr (o : Op) : Statement (.pbr o : Instr) := of_build rfl rfl rfl fun j h => by
  change (match o.mod.toNat with | 0 => some (Instr.pbr o) | _ => some (Instr.pbrReg o)) = some j at h
  split at h <;> exact some_eq rfl h
theorem pbrReg (o : Op) : Statement (.pbrReg o : Instr) := of_build rfl rfl rfl fun j h => by
  change (match o.mod.toNat with | 0 => some (Instr.pbr o) | _ => some (Instr.pbrReg o)) = some j at h
  split at h <;> exact some_eq rfl h
theorem bcc (o : Op) : Statement (.bcc o : Instr) := of_build rfl rfl rfl fun _ h => some_eq rfl h
theorem jal (o : Op) : Statement (.jal o : Instr) := of_build rfl rfl rfl fun _ h => some_eq rfl h
theorem jalr (o : Op) : Statement (.jalr o : Instr) := of_build rfl rfl rfl fun _ h => some_eq rfl h
theorem ld (o : Op) : Statement (.ld o : Instr) := of_build rfl rfl rfl fun _ h => some_eq rfl h
theorem st (o : Op) : Statement (.st o : Instr) := of_build rfl rfl rfl fun _ h => some_eq rfl h
theorem ldl (o : Op) : Statement (.ldl o : Instr) := of_build rfl rfl rfl fun _ h => some_eq rfl h
theorem enq (o : Op) : Statement (.enq o : Instr) := of_build rfl rfl rfl fun _ h => some_eq rfl h
theorem wrg (o : Op) : Statement (.wrg o : Instr) := of_build rfl rfl rfl fun _ h => some_eq rfl h
theorem wrn (o : Op) : Statement (.wrn o : Instr) := of_build rfl rfl rfl fun _ h => some_eq rfl h
theorem nst (o : Op) : Statement (.nst o : Instr) := of_build rfl rfl rfl fun _ h => some_eq rfl h
theorem mgo (o : Op) : Statement (.mgo o : Instr) := of_build rfl rfl rfl fun _ h => some_eq rfl h
theorem rdsr (o : Op) : Statement (.rdsr o : Instr) := of_build rfl rfl rfl fun _ h => some_eq rfl h
theorem wrsr (o : Op) : Statement (.wrsr o : Instr) := of_build rfl rfl rfl fun _ h => some_eq rfl h
theorem trapEnd (o : Op) : Statement (.trapEnd o : Instr) := of_build rfl rfl rfl fun j h => by
  change (match o.sub.toNat with | 0 => some (Instr.trapEnd o) | 1 => some (Instr.trapSys o) | _ => some (Instr.trapBrk o)) = some j at h
  split at h <;> exact some_eq rfl h
theorem trapSys (o : Op) : Statement (.trapSys o : Instr) := of_build rfl rfl rfl fun j h => by
  change (match o.sub.toNat with | 0 => some (Instr.trapEnd o) | 1 => some (Instr.trapSys o) | _ => some (Instr.trapBrk o)) = some j at h
  split at h <;> exact some_eq rfl h
theorem trapBrk (o : Op) : Statement (.trapBrk o : Instr) := of_build rfl rfl rfl fun j h => by
  change (match o.sub.toNat with | 0 => some (Instr.trapEnd o) | 1 => some (Instr.trapSys o) | _ => some (Instr.trapBrk o)) = some j at h
  split at h <;> exact some_eq rfl h
theorem eret (o : Op) : Statement (.eret o : Instr) := of_build rfl rfl rfl fun _ h => some_eq rfl h
theorem wfe (o : Op) : Statement (.wfe o : Instr) := of_build rfl rfl rfl fun _ h => some_eq rfl h
theorem vadd (o : Op) (t : Tail) : Statement (.vadd o t : Instr) := of_build rfl rfl rfl fun _ h => some_eq rfl h
theorem vsub (o : Op) (t : Tail) : Statement (.vsub o t : Instr) := of_build rfl rfl rfl fun _ h => some_eq rfl h
theorem vmul (o : Op) (t : Tail) : Statement (.vmul o t : Instr) := of_build rfl rfl rfl fun _ h => some_eq rfl h
theorem vmulh (o : Op) (t : Tail) : Statement (.vmulh o t : Instr) := of_build rfl rfl rfl fun _ h => some_eq rfl h
theorem vmin (o : Op) (t : Tail) : Statement (.vmin o t : Instr) := of_build rfl rfl rfl fun _ h => some_eq rfl h
theorem vmax (o : Op) (t : Tail) : Statement (.vmax o t : Instr) := of_build rfl rfl rfl fun _ h => some_eq rfl h
theorem vfma (o : Op) (t : Tail) : Statement (.vfma o t : Instr) := of_build rfl rfl rfl fun _ h => some_eq rfl h
theorem vfms (o : Op) (t : Tail) : Statement (.vfms o t : Instr) := of_build rfl rfl rfl fun _ h => some_eq rfl h
theorem vfnma (o : Op) (t : Tail) : Statement (.vfnma o t : Instr) := of_build rfl rfl rfl fun _ h => some_eq rfl h
theorem vabs (o : Op) (t : Tail) : Statement (.vabs o t : Instr) := of_build rfl rfl rfl fun _ h => some_eq rfl h
theorem vneg (o : Op) (t : Tail) : Statement (.vneg o t : Instr) := of_build rfl rfl rfl fun _ h => some_eq rfl h
theorem vround (o : Op) (t : Tail) : Statement (.vround o t : Instr) := of_build rfl rfl rfl fun _ h => some_eq rfl h
theorem vclamp (o : Op) (t : Tail) : Statement (.vclamp o t : Instr) := of_build rfl rfl rfl fun _ h => some_eq rfl h
theorem vcmp (o : Op) (t : Tail) : Statement (.vcmp o t : Instr) := of_build rfl rfl rfl fun _ h => some_eq rfl h
theorem vsel (o : Op) (t : Tail) : Statement (.vsel o t : Instr) := of_build rfl rfl rfl fun _ h => some_eq rfl h
theorem vand (o : Op) (t : Tail) : Statement (.vand o t : Instr) := of_build rfl rfl rfl fun _ h => some_eq rfl h
theorem vor (o : Op) (t : Tail) : Statement (.vor o t : Instr) := of_build rfl rfl rfl fun _ h => some_eq rfl h
theorem vxor (o : Op) (t : Tail) : Statement (.vxor o t : Instr) := of_build rfl rfl rfl fun _ h => some_eq rfl h
theorem vandn (o : Op) (t : Tail) : Statement (.vandn o t : Instr) := of_build rfl rfl rfl fun _ h => some_eq rfl h
theorem vlop3 (o : Op) (t : Tail) : Statement (.vlop3 o t : Instr) := of_build rfl rfl rfl fun _ h => some_eq rfl h
theorem vshl (o : Op) (t : Tail) : Statement (.vshl o t : Instr) := of_build rfl rfl rfl fun _ h => some_eq rfl h
theorem vshr (o : Op) (t : Tail) : Statement (.vshr o t : Instr) := of_build rfl rfl rfl fun _ h => some_eq rfl h
theorem vsra (o : Op) (t : Tail) : Statement (.vsra o t : Instr) := of_build rfl rfl rfl fun _ h => some_eq rfl h
theorem vfsl (o : Op) (t : Tail) : Statement (.vfsl o t : Instr) := of_build rfl rfl rfl fun _ h => some_eq rfl h
theorem vfsr (o : Op) (t : Tail) : Statement (.vfsr o t : Instr) := of_build rfl rfl rfl fun _ h => some_eq rfl h
theorem vrot (o : Op) (t : Tail) : Statement (.vrot o t : Instr) := of_build rfl rfl rfl fun _ h => some_eq rfl h
theorem vperm (o : Op) (t : Tail) : Statement (.vperm o t : Instr) := of_build rfl rfl rfl fun _ h => some_eq rfl h
theorem vsplat (o : Op) (t : Tail) : Statement (.vsplat o t : Instr) := of_build rfl rfl rfl fun _ h => some_eq rfl h
theorem vbcast (o : Op) (t : Tail) : Statement (.vbcast o t : Instr) := of_build rfl rfl rfl fun _ h => some_eq rfl h
theorem vwmul (o : Op) (t : Tail) : Statement (.vwmul o t : Instr) := of_build rfl rfl rfl fun _ h => some_eq rfl h
theorem vwadd (o : Op) (t : Tail) : Statement (.vwadd o t : Instr) := of_build rfl rfl rfl fun _ h => some_eq rfl h
theorem vdot4 (o : Op) (t : Tail) : Statement (.vdot4 o t : Instr) := of_build rfl rfl rfl fun _ h => some_eq rfl h
theorem vcvt (o : Op) (t : Tail) : Statement (.vcvt o t : Instr) := of_build rfl rfl rfl fun _ h => some_eq rfl h
theorem vpack (o : Op) (t : Tail) : Statement (.vpack o t : Instr) := of_build rfl rfl rfl fun _ h => some_eq rfl h
theorem vred (o : Op) (t : Tail) : Statement (.vred o t : Instr) := of_build rfl rfl rfl fun _ h => some_eq rfl h
theorem vscan (o : Op) (t : Tail) : Statement (.vscan o t : Instr) := of_build rfl rfl rfl fun _ h => some_eq rfl h
theorem vtopk (o : Op) (t : Tail) : Statement (.vtopk o t : Instr) := of_build rfl rfl rfl fun _ h => some_eq rfl h
theorem qand (o : Op) (t : Tail) : Statement (.qand o t : Instr) := of_build rfl rfl rfl fun _ h => some_eq rfl h
theorem qor (o : Op) (t : Tail) : Statement (.qor o t : Instr) := of_build rfl rfl rfl fun _ h => some_eq rfl h
theorem qnot (o : Op) (t : Tail) : Statement (.qnot o t : Instr) := of_build rfl rfl rfl fun _ h => some_eq rfl h
theorem qpop (o : Op) (t : Tail) : Statement (.qpop o t : Instr) := of_build rfl rfl rfl fun _ h => some_eq rfl h
theorem qfirst (o : Op) (t : Tail) : Statement (.qfirst o t : Instr) := of_build rfl rfl rfl fun _ h => some_eq rfl h
theorem vmov (o : Op) (t : Tail) : Statement (.vmov o t : Instr) := of_build rfl rfl rfl fun _ h => some_eq rfl h
theorem vld (o : Op) (t : Tail) : Statement (.vld o t : Instr) := of_build rfl rfl rfl fun _ h => some_eq rfl h
theorem vst (o : Op) (t : Tail) : Statement (.vst o t : Instr) := of_build rfl rfl rfl fun _ h => some_eq rfl h
theorem vldt (o : Op) (t : Tail) : Statement (.vldt o t : Instr) := of_build rfl rfl rfl fun _ h => some_eq rfl h
theorem vexp2 (o : Op) (t : Tail) : Statement (.vexp2 o t : Instr) := of_build rfl rfl rfl fun _ h => some_eq rfl h
theorem vlog2 (o : Op) (t : Tail) : Statement (.vlog2 o t : Instr) := of_build rfl rfl rfl fun _ h => some_eq rfl h
theorem vrcp (o : Op) (t : Tail) : Statement (.vrcp o t : Instr) := of_build rfl rfl rfl fun _ h => some_eq rfl h
theorem vrsqrt (o : Op) (t : Tail) : Statement (.vrsqrt o t : Instr) := of_build rfl rfl rfl fun _ h => some_eq rfl h
theorem vsin (o : Op) (t : Tail) : Statement (.vsin o t : Instr) := of_build rfl rfl rfl fun _ h => some_eq rfl h
theorem vcos (o : Op) (t : Tail) : Statement (.vcos o t : Instr) := of_build rfl rfl rfl fun _ h => some_eq rfl h
theorem vtanh (o : Op) (t : Tail) : Statement (.vtanh o t : Instr) := of_build rfl rfl rfl fun _ h => some_eq rfl h
theorem vsigm (o : Op) (t : Tail) : Statement (.vsigm o t : Instr) := of_build rfl rfl rfl fun _ h => some_eq rfl h
theorem mldw (o : Op) (t : Tail) : Statement (.mldw o t : Instr) := of_build rfl rfl rfl fun _ h => some_eq rfl h
theorem mflip (o : Op) (t : Tail) : Statement (.mflip o t : Instr) := of_build rfl rfl rfl fun _ h => some_eq rfl h
theorem mstep (o : Op) (t : Tail) : Statement (.mstep o t : Instr) := of_build rfl rfl rfl fun _ h => some_eq rfl h
theorem mstepz (o : Op) (t : Tail) : Statement (.mstepz o t : Instr) := of_build rfl rfl rfl fun _ h => some_eq rfl h
theorem mrd (o : Op) (t : Tail) : Statement (.mrd o t : Instr) := of_build rfl rfl rfl fun _ h => some_eq rfl h
theorem mclr (o : Op) (t : Tail) : Statement (.mclr o t : Instr) := of_build rfl rfl rfl fun _ h => some_eq rfl h
theorem mscMul (o : Op) (t : Tail) : Statement (.mscMul o t : Instr) := of_build rfl rfl rfl fun j h => by
  change (match o.sub.toNat with | 0 => some (Instr.mscMul o t) | _ => some (Instr.mscLd o t)) = some j at h
  split at h <;> exact some_eq rfl h
theorem mscLd (o : Op) (t : Tail) : Statement (.mscLd o t : Instr) := of_build rfl rfl rfl fun j h => by
  change (match o.sub.toNat with | 0 => some (Instr.mscMul o t) | _ => some (Instr.mscLd o t)) = some j at h
  split at h <;> exact some_eq rfl h
theorem mstat (o : Op) (t : Tail) : Statement (.mstat o t : Instr) := of_build rfl rfl rfl fun _ h => some_eq rfl h
theorem cpy (o : Op) (t : Tail) : Statement (.cpy o t : Instr) := of_build rfl rfl rfl fun _ h => some_eq rfl h
theorem cpyt (o : Op) (t : Tail) : Statement (.cpyt o t : Instr) := of_build rfl rfl rfl fun _ h => some_eq rfl h
theorem cpyg (o : Op) (t : Tail) : Statement (.cpyg o t : Instr) := of_build rfl rfl rfl fun _ h => some_eq rfl h
theorem cpys (o : Op) (t : Tail) : Statement (.cpys o t : Instr) := of_build rfl rfl rfl fun _ h => some_eq rfl h
theorem cpyx (o : Op) (t : Tail) : Statement (.cpyx o t : Instr) := of_build rfl rfl rfl fun _ h => some_eq rfl h
theorem cpyw (o : Op) (t : Tail) : Statement (.cpyw o t : Instr) := of_build rfl rfl rfl fun _ h => some_eq rfl h
theorem putsig (o : Op) (t : Tail) : Statement (.putsig o t : Instr) := of_build rfl rfl rfl fun _ h => some_eq rfl h
theorem cred (o : Op) (t : Tail) : Statement (.cred o t : Instr) := of_build rfl rfl rfl fun _ h => some_eq rfl h
theorem csched (o : Op) : Statement (.csched o : Instr) := of_build rfl rfl rfl fun _ h => some_eq rfl h
theorem cstep (o : Op) (t : Tail) : Statement (.cstep o t : Instr) := of_build rfl rfl rfl fun _ h => some_eq rfl h
theorem strm (o : Op) (t : Tail) : Statement (.strm o t : Instr) := of_build rfl rfl rfl fun _ h => some_eq rfl h
theorem strmq (o : Op) (t : Tail) : Statement (.strmq o t : Instr) := of_build rfl rfl rfl fun _ h => some_eq rfl h
theorem halo (o : Op) (t : Tail) : Statement (.halo o t : Instr) := of_build rfl rfl rfl fun _ h => some_eq rfl h
theorem kgath (o : Op) (t : Tail) : Statement (.kgath o t : Instr) := of_build rfl rfl rfl fun _ h => some_eq rfl h
theorem fcolLoad (o : Op) : Statement (.fcolLoad o : Instr) := of_build rfl rfl rfl fun j h => by
  change (match o.sub.toNat with | 0 => some (Instr.fcolLoad o) | _ => some (Instr.fcolRun o)) = some j at h
  split at h <;> exact some_eq rfl h
theorem fcolRun (o : Op) : Statement (.fcolRun o : Instr) := of_build rfl rfl rfl fun j h => by
  change (match o.sub.toNat with | 0 => some (Instr.fcolLoad o) | _ => some (Instr.fcolRun o)) = some j at h
  split at h <;> exact some_eq rfl h
theorem ftrigArm (o : Op) : Statement (.ftrigArm o : Instr) := of_build rfl rfl rfl fun j h => by
  change (match o.sub.toNat with | 0 => some (Instr.ftrigArm o) | 1 => some (Instr.ftrigDisarm o) | _ => some (Instr.ftrigQuery o)) = some j at h
  split at h <;> exact some_eq rfl h
theorem ftrigDisarm (o : Op) : Statement (.ftrigDisarm o : Instr) := of_build rfl rfl rfl fun j h => by
  change (match o.sub.toNat with | 0 => some (Instr.ftrigArm o) | 1 => some (Instr.ftrigDisarm o) | _ => some (Instr.ftrigQuery o)) = some j at h
  split at h <;> exact some_eq rfl h
theorem ftrigQuery (o : Op) : Statement (.ftrigQuery o : Instr) := of_build rfl rfl rfl fun j h => by
  change (match o.sub.toNat with | 0 => some (Instr.ftrigArm o) | 1 => some (Instr.ftrigDisarm o) | _ => some (Instr.ftrigQuery o)) = some j at h
  split at h <;> exact some_eq rfl h
theorem rshd (o : Op) : Statement (.rshd o : Instr) := of_build rfl rfl rfl fun _ h => some_eq rfl h
theorem rshqTotal (o : Op) : Statement (.rshqTotal o : Instr) := of_build rfl rfl rfl fun j h => by
  change (match o.sub.toNat with | 0 => some (Instr.rshqTotal o) | _ => some (Instr.rshqPairs o)) = some j at h
  split at h <;> exact some_eq rfl h
theorem rshqPairs (o : Op) : Statement (.rshqPairs o : Instr) := of_build rfl rfl rfl fun j h => by
  change (match o.sub.toNat with | 0 => some (Instr.rshqTotal o) | _ => some (Instr.rshqPairs o)) = some j at h
  split at h <;> exact some_eq rfl h
theorem kill (o : Op) : Statement (.kill o : Instr) := of_build rfl rfl rfl fun _ h => some_eq rfl h
theorem ldg (o : Op) : Statement (.ldg o : Instr) := of_build rfl rfl rfl fun _ h => some_eq rfl h
theorem stg (o : Op) : Statement (.stg o : Instr) := of_build rfl rfl rfl fun _ h => some_eq rfl h
theorem ldacq (o : Op) : Statement (.ldacq o : Instr) := of_build rfl rfl rfl fun _ h => some_eq rfl h
theorem strel (o : Op) : Statement (.strel o : Instr) := of_build rfl rfl rfl fun _ h => some_eq rfl h
theorem atomAdd (o : Op) : Statement (.atomAdd o : Instr) := of_build rfl rfl rfl fun _ h => some_eq rfl h
theorem atomMin (o : Op) : Statement (.atomMin o : Instr) := of_build rfl rfl rfl fun _ h => some_eq rfl h
theorem atomMax (o : Op) : Statement (.atomMax o : Instr) := of_build rfl rfl rfl fun _ h => some_eq rfl h
theorem atomMinn (o : Op) : Statement (.atomMinn o : Instr) := of_build rfl rfl rfl fun _ h => some_eq rfl h
theorem atomMaxn (o : Op) : Statement (.atomMaxn o : Instr) := of_build rfl rfl rfl fun _ h => some_eq rfl h
theorem atomAnd (o : Op) : Statement (.atomAnd o : Instr) := of_build rfl rfl rfl fun _ h => some_eq rfl h
theorem atomOr (o : Op) : Statement (.atomOr o : Instr) := of_build rfl rfl rfl fun _ h => some_eq rfl h
theorem atomXor (o : Op) : Statement (.atomXor o : Instr) := of_build rfl rfl rfl fun _ h => some_eq rfl h
theorem atomSwap (o : Op) : Statement (.atomSwap o : Instr) := of_build rfl rfl rfl fun _ h => some_eq rfl h
theorem cas (o : Op) : Statement (.cas o : Instr) := of_build rfl rfl rfl fun _ h => some_eq rfl h
theorem cas2 (o : Op) : Statement (.cas2 o : Instr) := of_build rfl rfl rfl fun _ h => some_eq rfl h
theorem cas4 (o : Op) : Statement (.cas4 o : Instr) := of_build rfl rfl rfl fun _ h => some_eq rfl h
theorem lenq (o : Op) : Statement (.lenq o : Instr) := of_build rfl rfl rfl fun _ h => some_eq rfl h
theorem ldeq (o : Op) : Statement (.ldeq o : Instr) := of_build rfl rfl rfl fun _ h => some_eq rfl h
theorem nchase (o : Op) : Statement (.nchase o : Instr) := of_build rfl rfl rfl fun _ h => some_eq rfl h
theorem tlk (o : Op) : Statement (.tlk o : Instr) := of_build rfl rfl rfl fun _ h => some_eq rfl h
theorem tins (o : Op) : Statement (.tins o : Instr) := of_build rfl rfl rfl fun _ h => some_eq rfl h
theorem tinvOne (o : Op) : Statement (.tinvOne o : Instr) := of_build rfl rfl rfl fun j h => by
  change (match o.sub.toNat with | 0 => some (Instr.tinvOne o) | 1 => some (Instr.tinvAll o) | _ => some (Instr.tinvTag o)) = some j at h
  split at h <;> exact some_eq rfl h
theorem tinvAll (o : Op) : Statement (.tinvAll o : Instr) := of_build rfl rfl rfl fun j h => by
  change (match o.sub.toNat with | 0 => some (Instr.tinvOne o) | 1 => some (Instr.tinvAll o) | _ => some (Instr.tinvTag o)) = some j at h
  split at h <;> exact some_eq rfl h
theorem tinvTag (o : Op) : Statement (.tinvTag o : Instr) := of_build rfl rfl rfl fun j h => by
  change (match o.sub.toNat with | 0 => some (Instr.tinvOne o) | 1 => some (Instr.tinvAll o) | _ => some (Instr.tinvTag o)) = some j at h
  split at h <;> exact some_eq rfl h
theorem ksel (o : Op) : Statement (.ksel o : Instr) := of_build rfl rfl rfl fun _ h => some_eq rfl h
theorem kcrust (o : Op) : Statement (.kcrust o : Instr) := of_build rfl rfl rfl fun _ h => some_eq rfl h
theorem fence (o : Op) : Statement (.fence o : Instr) := of_build rfl rfl rfl fun _ h => some_eq rfl h
theorem kset (o : Op) : Statement (.kset o : Instr) := of_build rfl rfl rfl fun j h => by
  change (match o.mod.toNat with | 0 => some (Instr.kset o) | _ => some (Instr.ksetReg o)) = some j at h
  split at h <;> exact some_eq rfl h
theorem ksetReg (o : Op) : Statement (.ksetReg o : Instr) := of_build rfl rfl rfl fun j h => by
  change (match o.mod.toNat with | 0 => some (Instr.kset o) | _ => some (Instr.ksetReg o)) = some j at h
  split at h <;> exact some_eq rfl h
theorem kwait (o : Op) (t : Option Tail) : Statement (.kwait o t : Instr) := of_build rfl rfl rfl fun _ h => some_eq rfl h
theorem kpost (o : Op) (t : Option Tail) : Statement (.kpost o t : Instr) := of_build rfl rfl rfl fun _ h => some_eq rfl h
theorem barinit (o : Op) : Statement (.barinit o : Instr) := of_build rfl rfl rfl fun _ h => some_eq rfl h
theorem barexp (o : Op) : Statement (.barexp o : Instr) := of_build rfl rfl rfl fun _ h => some_eq rfl h
theorem barwait (o : Op) : Statement (.barwait o : Instr) := of_build rfl rfl rfl fun _ h => some_eq rfl h
theorem ssync (o : Op) : Statement (.ssync o : Instr) := of_build rfl rfl rfl fun _ h => some_eq rfl h
theorem sstatBar (o : Op) : Statement (.sstatBar o : Instr) := of_build rfl rfl rfl fun j h => by
  change (match o.sub.toNat with | 0 => some (Instr.sstatBar o) | _ => some (Instr.sstatStg o)) = some j at h
  split at h <;> exact some_eq rfl h
theorem sstatStg (o : Op) : Statement (.sstatStg o : Instr) := of_build rfl rfl rfl fun j h => by
  change (match o.sub.toNat with | 0 => some (Instr.sstatBar o) | _ => some (Instr.sstatStg o)) = some j at h
  split at h <;> exact some_eq rfl h
theorem tcaddAdd (o : Op) : Statement (.tcaddAdd o : Instr) := of_build rfl rfl rfl fun j h => by
  change (match o.sub.toNat with | 0 => some (Instr.tcaddAdd o) | _ => some (Instr.tcaddSet o)) = some j at h
  split at h <;> exact some_eq rfl h
theorem tcaddSet (o : Op) : Statement (.tcaddSet o : Instr) := of_build rfl rfl rfl fun j h => by
  change (match o.sub.toNat with | 0 => some (Instr.tcaddAdd o) | _ => some (Instr.tcaddSet o)) = some j at h
  split at h <;> exact some_eq rfl h
theorem tcrd (o : Op) : Statement (.tcrd o : Instr) := of_build rfl rfl rfl fun _ h => some_eq rfl h
theorem loop (o : Op) (t : Tail) : Statement (.loop o t : Instr) := of_build rfl rfl rfl fun _ h => some_eq rfl h
theorem endloop (o : Op) (t : Tail) : Statement (.endloop o t : Instr) := of_build rfl rfl rfl fun _ h => some_eq rfl h
theorem lyc (o : Op) : Statement (.lyc o : Instr) := of_build rfl rfl rfl fun _ h => some_eq rfl h
theorem lyqBox (o : Op) : Statement (.lyqBox o : Instr) := of_build rfl rfl rfl fun j h => by
  change (match o.sub.toNat with | 0 => some (Instr.lyqBox o) | 1 => some (Instr.lyqShard o) | 2 => some (Instr.lyqNup o) | _ => some (Instr.lyqNdn o)) = some j at h
  split at h <;> exact some_eq rfl h
theorem lyqShard (o : Op) : Statement (.lyqShard o : Instr) := of_build rfl rfl rfl fun j h => by
  change (match o.sub.toNat with | 0 => some (Instr.lyqBox o) | 1 => some (Instr.lyqShard o) | 2 => some (Instr.lyqNup o) | _ => some (Instr.lyqNdn o)) = some j at h
  split at h <;> exact some_eq rfl h
theorem lyqNup (o : Op) : Statement (.lyqNup o : Instr) := of_build rfl rfl rfl fun j h => by
  change (match o.sub.toNat with | 0 => some (Instr.lyqBox o) | 1 => some (Instr.lyqShard o) | 2 => some (Instr.lyqNup o) | _ => some (Instr.lyqNdn o)) = some j at h
  split at h <;> exact some_eq rfl h
theorem lyqNdn (o : Op) : Statement (.lyqNdn o : Instr) := of_build rfl rfl rfl fun j h => by
  change (match o.sub.toNat with | 0 => some (Instr.lyqBox o) | 1 => some (Instr.lyqShard o) | 2 => some (Instr.lyqNup o) | _ => some (Instr.lyqNdn o)) = some j at h
  split at h <;> exact some_eq rfl h
theorem tsldSlots (o : Op) : Statement (.tsldSlots o : Instr) := of_build rfl rfl rfl fun j h => by
  change (match o.sub.toNat with | 0 => some (Instr.tsldSlots o) | _ => some (Instr.tsldRed o)) = some j at h
  split at h <;> exact some_eq rfl h
theorem tsldRed (o : Op) : Statement (.tsldRed o : Instr) := of_build rfl rfl rfl fun j h => by
  change (match o.sub.toNat with | 0 => some (Instr.tsldSlots o) | _ => some (Instr.tsldRed o)) = some j at h
  split at h <;> exact some_eq rfl h
theorem rtld (o : Op) : Statement (.rtld o : Instr) := of_build rfl rfl rfl fun _ h => some_eq rfl h
theorem tlbinvPage (o : Op) : Statement (.tlbinvPage o : Instr) := of_build rfl rfl rfl fun j h => by
  change (match o.sub.toNat with | 0 => some (Instr.tlbinvPage o) | 1 => some (Instr.tlbinvAsid o) | _ => some (Instr.tlbinvAll o)) = some j at h
  split at h <;> exact some_eq rfl h
theorem tlbinvAsid (o : Op) : Statement (.tlbinvAsid o : Instr) := of_build rfl rfl rfl fun j h => by
  change (match o.sub.toNat with | 0 => some (Instr.tlbinvPage o) | 1 => some (Instr.tlbinvAsid o) | _ => some (Instr.tlbinvAll o)) = some j at h
  split at h <;> exact some_eq rfl h
theorem tlbinvAll (o : Op) : Statement (.tlbinvAll o : Instr) := of_build rfl rfl rfl fun j h => by
  change (match o.sub.toNat with | 0 => some (Instr.tlbinvPage o) | 1 => some (Instr.tlbinvAsid o) | _ => some (Instr.tlbinvAll o)) = some j at h
  split at h <;> exact some_eq rfl h
theorem atw (o : Op) : Statement (.atw o : Instr) := of_build rfl rfl rfl fun _ h => some_eq rfl h
theorem ditwFill (o : Op) : Statement (.ditwFill o : Instr) := of_build rfl rfl rfl fun j h => by
  change (match o.sub.toNat with | 0 => some (Instr.ditwFill o) | _ => some (Instr.ditwLoad o)) = some j at h
  split at h <;> exact some_eq rfl h
theorem ditwLoad (o : Op) : Statement (.ditwLoad o : Instr) := of_build rfl rfl rfl fun j h => by
  change (match o.sub.toNat with | 0 => some (Instr.ditwFill o) | _ => some (Instr.ditwLoad o)) = some j at h
  split at h <;> exact some_eq rfl h
theorem ctxswOut (o : Op) : Statement (.ctxswOut o : Instr) := of_build rfl rfl rfl fun j h => by
  change (match o.sub.toNat with | 0 => some (Instr.ctxswOut o) | 1 => some (Instr.ctxswIn o) | 2 => some (Instr.ctxswXchg o) | _ => some (Instr.ctxswSpill o)) = some j at h
  split at h <;> exact some_eq rfl h
theorem ctxswIn (o : Op) : Statement (.ctxswIn o : Instr) := of_build rfl rfl rfl fun j h => by
  change (match o.sub.toNat with | 0 => some (Instr.ctxswOut o) | 1 => some (Instr.ctxswIn o) | 2 => some (Instr.ctxswXchg o) | _ => some (Instr.ctxswSpill o)) = some j at h
  split at h <;> exact some_eq rfl h
theorem ctxswXchg (o : Op) : Statement (.ctxswXchg o : Instr) := of_build rfl rfl rfl fun j h => by
  change (match o.sub.toNat with | 0 => some (Instr.ctxswOut o) | 1 => some (Instr.ctxswIn o) | 2 => some (Instr.ctxswXchg o) | _ => some (Instr.ctxswSpill o)) = some j at h
  split at h <;> exact some_eq rfl h
theorem ctxswSpill (o : Op) : Statement (.ctxswSpill o : Instr) := of_build rfl rfl rfl fun j h => by
  change (match o.sub.toNat with | 0 => some (Instr.ctxswOut o) | 1 => some (Instr.ctxswIn o) | 2 => some (Instr.ctxswXchg o) | _ => some (Instr.ctxswSpill o)) = some j at h
  split at h <;> exact some_eq rfl h
theorem resultWriteback : Statement (.resultWriteback : Instr) := of_none rfl
theorem stallResume (ag : Agent) : Statement (.stallResume ag : Instr) := of_none rfl
theorem responseLand (req : Nat) : Statement (.responseLand req : Instr) := of_none rfl
theorem dueCycle : Statement (.dueCycle : Instr) := of_none rfl
theorem commPhaseEnd : Statement (.commPhaseEnd : Instr) := of_none rfl
theorem semaphoreCeilingTrap : Statement (.semaphoreCeilingTrap : Instr) := of_none rfl
theorem stopCut : Statement (.stopCut : Instr) := of_none rfl
theorem latchReinject : Statement (.latchReinject : Instr) := of_none rfl
theorem preemptAccept : Statement (.preemptAccept : Instr) := of_none rfl
theorem interruptAccept : Statement (.interruptAccept : Instr) := of_none rfl
theorem dieLossDeclare (d : DieIx) : Statement (.dieLossDeclare d : Instr) := of_none rfl
theorem budgetOverrun : Statement (.budgetOverrun : Instr) := of_none rfl
theorem wfeTimeout : Statement (.wfeTimeout : Instr) := of_none rfl
theorem wfeWake : Statement (.wfeWake : Instr) := of_none rfl
theorem icacheFill (d : DieIx) (t : TileIx) (line : BitVec 64) : Statement (.icacheFill d t line : Instr) := of_none rfl
theorem pageWalk (req : Nat) : Statement (.pageWalk req : Instr) := of_none rfl
theorem submitGraph (d : DieIx) (q : Fin 16) (hi : BitVec 64) : Statement (.submitGraph d q hi : Instr) := of_none rfl
theorem doorbellSubmit (d : DieIx) (q : Fin 16) (entry : BitVec 128) : Statement (.doorbellSubmit d q entry : Instr) := of_none rfl
theorem graphTake (d : DieIx) (q : Fin 16) : Statement (.graphTake d q : Instr) := of_none rfl
theorem recordForward (d : DieIx) (q : Fin 16) (record : Nat) : Statement (.recordForward d q record : Instr) := of_none rfl
theorem gangStart (d : DieIx) (q : Fin 16) : Statement (.gangStart d q : Instr) := of_none rfl
theorem preload (d : DieIx) (t : TileIx) : Statement (.preload d t : Instr) := of_none rfl
theorem taskStart (d : DieIx) (t : TileIx) : Statement (.taskStart d t : Instr) := of_none rfl
theorem taskComplete (d : DieIx) (t : TileIx) : Statement (.taskComplete d t : Instr) := of_none rfl
theorem remoteAccess (req : Nat) : Statement (.remoteAccess req : Instr) := of_none rfl
theorem remoteAtomic (req : Nat) : Statement (.remoteAtomic req : Instr) := of_none rfl
theorem ingressRequest (req : Nat) : Statement (.ingressRequest req : Instr) := of_none rfl
theorem homeAccess (req : Nat) (evict : List Nat) : Statement (.homeAccess req evict : Instr) := of_none rfl
theorem nearMemoryOp (req : Nat) : Statement (.nearMemoryOp req : Instr) := of_none rfl
theorem crustWiden (index : Nat) : Statement (.crustWiden index : Instr) := of_none rfl
theorem barrierAdd (req : Nat) : Statement (.barrierAdd req : Instr) := of_none rfl
theorem contributionArrival (req : Nat) : Statement (.contributionArrival req : Instr) := of_none rfl
theorem ssyncArrival (req : Nat) : Statement (.ssyncArrival req : Instr) := of_none rfl
theorem startSignal (d : DieIx) (t : TileIx) : Statement (.startSignal d t : Instr) := of_none rfl
theorem ssnumUpdate (d : DieIx) (q : Fin 16) : Statement (.ssnumUpdate d q : Instr) := of_none rfl
theorem triggerCounterChange (req : Nat) : Statement (.triggerCounterChange req : Instr) := of_none rfl
theorem chunkArrival (d : DieIx) (q : Fin 16) (slot : Fin 4) : Statement (.chunkArrival d q slot : Instr) := of_none rfl
theorem thresherRowSend (d : DieIx) : Statement (.thresherRowSend d : Instr) := of_none rfl
theorem thresherRowAck (d : DieIx) : Statement (.thresherRowAck d : Instr) := of_none rfl
theorem thresherStop (d : DieIx) : Statement (.thresherStop d : Instr) := of_none rfl
theorem segmentSweep (d : DieIx) : Statement (.segmentSweep d : Instr) := of_none rfl
theorem hostPageResolved (req : Nat) (resident : Bool) : Statement (.hostPageResolved req resident : Instr) := of_none rfl
theorem hostAccess (access : HostAccess) : Statement (.hostAccess access : Instr) := of_none rfl
theorem swapInTile (d : DieIx) (t : TileIx) : Statement (.swapInTile d t : Instr) := of_none rfl
theorem swapComplete (req : Nat) : Statement (.swapComplete req : Instr) := of_none rfl
theorem killComplete (req : Nat) : Statement (.killComplete req : Instr) := of_none rfl
theorem tlbinvComplete (req : Nat) : Statement (.tlbinvComplete req : Instr) := of_none rfl
theorem routerForward (req : Nat) : Statement (.routerForward req : Instr) := of_none rfl
theorem linkPacketReceive (d : DieIx) (p : Fin 8) (good : Bool) : Statement (.linkPacketReceive d p good : Instr) := of_none rfl
theorem linkAck (d : DieIx) (p : Fin 8) (upto : BitVec 12) : Statement (.linkAck d p upto : Instr) := of_none rfl
theorem linkReplay (d : DieIx) (p : Fin 8) : Statement (.linkReplay d p : Instr) := of_none rfl
theorem linkTraining (d : DieIx) (p : Fin 8) (result : Training) : Statement (.linkTraining d p result : Instr) := of_none rfl
theorem linkNone (d : DieIx) (p : Fin 8) (word : BitVec 64) : Statement (.linkNone d p word : Instr) := of_none rfl
theorem linkPause (d : DieIx) (p : Fin 8) (word : BitVec 64) : Statement (.linkPause d p word : Instr) := of_none rfl
theorem linkResume (d : DieIx) (p : Fin 8) (word : BitVec 64) : Statement (.linkResume d p word : Instr) := of_none rfl
theorem linkRemap (d : DieIx) (p : Fin 8) (word : BitVec 64) : Statement (.linkRemap d p word : Instr) := of_none rfl
theorem linkRetrain (d : DieIx) (p : Fin 8) (word : BitVec 64) : Statement (.linkRetrain d p word : Instr) := of_none rfl
theorem linkDegrade (d : DieIx) (p : Fin 8) (word : BitVec 64) : Statement (.linkDegrade d p word : Instr) := of_none rfl
theorem linkRestore (d : DieIx) (p : Fin 8) (word : BitVec 64) : Statement (.linkRestore d p word : Instr) := of_none rfl
theorem linkCommandComplete (d : DieIx) (p : Fin 8) (result : Training) : Statement (.linkCommandComplete d p result : Instr) := of_none rfl
theorem contextEntryWrite (d : DieIx) (i : Fin 16) (dw : Fin 8) (word : BitVec 64) : Statement (.contextEntryWrite d i dw word : Instr) := of_none rfl
theorem partitionWrite (d : DieIx) (reg : Fin 65) (word : BitVec 64) : Statement (.partitionWrite d reg word : Instr) := of_none rfl
theorem gqstatWrite (d : DieIx) (q : Fin 16) (word : BitVec 64) : Statement (.gqstatWrite d q word : Instr) := of_none rfl
theorem irqcmd (d : DieIx) (word : BitVec 64) : Statement (.irqcmd d word : Instr) := of_none rfl
theorem precmdStop (d : DieIx) (word : BitVec 64) : Statement (.precmdStop d word : Instr) := of_none rfl
theorem precmdResume (d : DieIx) (word : BitVec 64) : Statement (.precmdResume d word : Instr) := of_none rfl
theorem taskResume (d : DieIx) (word : BitVec 64) : Statement (.taskResume d word : Instr) := of_none rfl
theorem taskRerun (d : DieIx) (word : BitVec 64) : Statement (.taskRerun d word : Instr) := of_none rfl
theorem sliceWriteback (d : DieIx) (word : BitVec 64) : Statement (.sliceWriteback d word : Instr) := of_none rfl
theorem writebackComplete (d : DieIx) : Statement (.writebackComplete d : Instr) := of_none rfl
theorem atmodeWrite (d : DieIx) (word : BitVec 64) : Statement (.atmodeWrite d word : Instr) := of_none rfl
theorem accessTableWrite (d : DieIx) (p : Fin 7) (e : Fin 16) (upper : Bool) (word : BitVec 64) : Statement (.accessTableWrite d p e upper word : Instr) := of_none rfl
theorem routeTableWrite (d : DieIx) (e : Fin 1024) (word : BitVec 64) : Statement (.routeTableWrite d e word : Instr) := of_none rfl
theorem ditWrite (d : DieIx) (n : Fin 4) (dw : Fin 1024) (word : BitVec 64) : Statement (.ditWrite d n dw word : Instr) := of_none rfl
theorem thresholdWrite (d : DieIx) (p : Fin 8) (word : BitVec 64) : Statement (.thresholdWrite d p word : Instr) := of_none rfl
theorem dieRegisterWrite (d : DieIx) (offset : Nat) (word : BitVec 64) : Statement (.dieRegisterWrite d offset word : Instr) := of_none rfl
theorem dieReset (d : DieIx) : Statement (.dieReset d : Instr) := of_none rfl
theorem powerGood : Statement (.powerGood : Instr) := of_none rfl
theorem packageColdReset : Statement (.packageColdReset : Instr) := of_none rfl
theorem firmwareImageLoad (image : FirmwareImage) : Statement (.firmwareImageLoad image : Instr) := of_none rfl
theorem attestationRequest (nonce : BitVec 256) : Statement (.attestationRequest nonce : Instr) := of_none rfl
theorem powerInterval (measure : Vector PowerMeasure 8) : Statement (.powerInterval measure : Instr) := of_none rfl
theorem dstateWrite (d : DieIx) (value : BitVec 2) : Statement (.dstateWrite d value : Instr) := of_none rfl
theorem modulePowerOff : Statement (.modulePowerOff : Instr) := of_none rfl
theorem lctlUnassignedCommand (d : DieIx) (p : Fin 8) (word : BitVec 64) : Statement (.lctlUnassignedCommand d p word : Instr) := of_none rfl
theorem tccmdOtherOp (d : DieIx) (word : BitVec 64) : Statement (.tccmdOtherOp d word : Instr) := of_none rfl

end Sys2Proof.Laws.CodedRebuilds
end

