-- ==== Sys2Proof/Laws/Ways.lean ====
section
/-!
SUPPORT. What leaves the mark of accesses that wait for their way as it is: a frame slot and its stop record are read back at once
(R215, R220), whatever they hold.
-/
namespace Sys2Proof.Machine

/-- A chain of steps of which each leaves the mark. -/
theorem foldl_ways {α : Type} {f : State → α → State} (hf : ∀ s a, (f s a).ways = s.ways) (l : List α) (s : State) :
    (l.foldl f s).ways = s.ways := by
  induction l generalizing s with
  | nil => rfl
  | cons a l ih => rw [List.foldl_cons, ih, hf]

@[simp] theorem State.ways_setReqs (s : State) (l : List Req) : ({ s with reqs := l } : State).ways = s.ways := rfl
@[simp] theorem State.ways_releaseReqs (s : State) (d : DieIx) (t : TileIx) (f : Req → Bool) : (s.releaseReqs d t f).ways = s.ways := rfl
@[simp] theorem State.ways_frameRead (s : State) (d : DieIx) (b n : Nat) : (s.frameRead d b n).ways = s.ways := rfl
@[simp] theorem State.ways_unstage (s : State) (d : DieIx) (t : TileIx) (c : BitVec 16) (x : SlotTable) (m : Mem) :
    (s.unstage d t c x m).ways = s.ways := rfl
@[simp] theorem State.ways_addedArrival (s : State) (d : DieIx) (t : TileIx) (v : Nat) : (s.addedArrival d t v).ways = s.ways := rfl

@[simp] theorem State.ways_addedItem (s : State) (d : DieIx) (t : TileIx) (ag : Agent) (w : BitVec 512) :
    (s.addedItem d t ag w).ways = s.ways := by
  unfold State.addedItem
  split
  · rfl
  · split <;> rfl

@[simp] theorem State.ways_unfreeze (s : State) (d : DieIx) (t : TileIx) (p : Parked) : (s.unfreeze d t p).ways = s.ways := by
  unfold State.unfreeze
  split <;> rfl

@[simp] theorem State.ways_addedEntries (s : State) (d : DieIx) (t : TileIx) (arrivals : List Nat) (items : List (Agent × BitVec 512)) :
    (s.addedEntries d t arrivals items).ways = s.ways := by
  unfold State.addedEntries
  rw [foldl_ways (fun s p => State.ways_addedItem _ _ _ _ _), foldl_ways (fun s v => State.ways_addedArrival _ _ _ _)]

/-- What reading a stop record back comes to when the context has a frame. -/
theorem State.reloadRecord_frame (s : State) (d : DieIx) (t : TileIx) (e : CtxEntry) (b : Bool) (h : (!e.frameOk) = false) :
    s.reloadRecord d t e b =
      (let u := s.modDie d fun y => recordRanges.foldl (fun y p => y.readFrame (e.frame t + p.1) p.2) y
       let p := u.stopParts d t e b
       ({ u with reqs := p.reqs }.setTile d t p.tile).addedEntries d t p.arrivals p.items) := by
  rw [State.reloadRecord, if_neg (by simp [h])]

theorem ways_readBack {s u : State} (h : u.ways = s.ways) (d : DieIx) (t : TileIx) (x : Tile) (l : List Req) (a : List Nat)
    (b : List (Agent × BitVec 512)) : (({ u with reqs := l }.setTile d t x).addedEntries d t a b).ways = s.ways := by
  rw [State.ways_addedEntries]
  exact h

theorem State.reloadRecord_noFrame (s : State) (d : DieIx) (t : TileIx) (e : CtxEntry) (b : Bool) (h : (!e.frameOk) = true) :
    s.reloadRecord d t e b = s := by
  rw [State.reloadRecord, if_pos h]

theorem State.ways_reloadFrame (s : State) (d : DieIx) (t : TileIx) (e : CtxEntry) (b : Bool) (h : (!e.frameOk) = false) :
    (s.reloadRecord d t e b).ways = s.ways := by
  rw [State.reloadRecord_frame s d t e b h]
  exact ways_readBack rfl d t _ _ _ _

@[simp] theorem State.ways_reloadRecord (s : State) (d : DieIx) (t : TileIx) (e : CtxEntry) (b : Bool) :
    (s.reloadRecord d t e b).ways = s.ways := by
  cases h : (!e.frameOk) with
  | false => exact State.ways_reloadFrame s d t e b h
  | true => rw [State.reloadRecord_noFrame s d t e b h]

@[simp] theorem State.ways_restoreFrom (s : State) (d : DieIx) (t : TileIx) (q : Fin 16) (e : CtxEntry) (p : Parked) (b : Bool)
    (slots : SlotTable) : (s.restoreFrom d t q e p b slots).ways = s.ways := by
  rw [State.restoreFrom, State.modCtx_ways, State.ways_unfreeze, State.ways_reloadRecord, State.setTile_ways, State.ways_unstage]

/-- A task is restored from its slot: only the reading of its slot descriptor takes a way. -/
theorem State.ways_restoreTile (s : State) (d : DieIx) (t : TileIx) (q : Fin 16) (p : Parked) (b : Bool) :
    (s.restoreTile d t q p b).ways = (s.slotsAgain d q p.task p.slots).1.ways := by
  rw [State.restoreTile, State.ways_restoreFrom, State.ways_frameRead]

/-- A unit of the device writes at once: its writes leave the mark. -/
theorem State.ways_deviceWrite {s u : State} {d : DieIx} {q : Fin 16} {va : Word} {bs : List Byte} (h : s.deviceWrite d q va bs = some u) :
    u.ways = s.ways := by
  unfold State.deviceWrite at h
  split at h
  · cases h
  · split at h
    · cases h; rfl
    · cases h

@[simp] theorem State.ways_writeRecord (s : State) (d : DieIx) (q : Fin 16) (i off : Nat) (bs : List Byte) :
    (s.writeRecord d q i off bs).ways = s.ways := by
  unfold State.writeRecord
  split
  · rfl
  · split
    · next h => exact State.ways_deviceWrite h
    · rfl

@[simp] theorem State.ways_changeRecord (s : State) (d : DieIx) (q : Fin 16) (i : Nat) (f : Record → Record) :
    (s.changeRecord d q i f).ways = s.ways := by
  unfold State.changeRecord
  split
  · rfl
  · simp

@[simp] theorem State.ways_discardPreload (s : State) (d : DieIx) (t : TileIx) : (s.discardPreload d t).ways = s.ways := by
  unfold State.discardPreload
  split <;> rfl

@[simp] theorem State.ways_outTile (s : State) (d : DieIx) (t : TileIx) : (s.outTile d t).ways = s.ways := by
  unfold State.outTile
  split <;> simp

theorem ways_begun {s u : State} (h : u.ways = s.ways) (d : DieIx) (t : TileIx) (e : DieIx) (q : Fin 16) (i : Nat) (f : Record → Record)
    (g : Tile → Tile) : ((u.changeRecord e q i f).modTile d t g).ways = s.ways := by
  rw [State.modTile_ways, State.ways_changeRecord]
  exact h

/-- A record whose preload is the frame of a suspended task starts: the task is restored, and its draw is made already. -/
theorem State.ways_startAgain {s u : State} {d : DieIx} {t : TileIx} {q : Fin 16} {p : Placed} {y z : Parked} {w : Fin 16} (hp : p.resume = true)
    (hy : (s.takeEntries d).validSlot d t q = some y) (hw : (s.tileAt d t).redraw = some w)
    (hz : z = { y with task := { y.task with budget := p.task.budget } })
    (hu : u = (s.takeEntries d).modTile d t fun x => { x.exchange with preload := none, lineBuf := none }) :
    (s.startTask d t q p).ways = (u.slotsAgain d q z.task z.slots).1.ways := by
  rw [State.startTask, hw]
  subst hu hz
  generalize (s.takeEntries d).modTile d t _ = v
  rw [if_pos hp, hy]
  exact ways_begun (State.ways_restoreTile _ _ _ _ _ _) _ _ _ _ _ _ _

/-- A swapped-in task is restored on its tile: only the reading of its slot descriptor takes a way. -/
theorem State.ways_takeIn (s : State) (d : DieIx) (t : TileIx) (q : Fin 16) (p : Parked) (out : Bool) :
    (s.takeIn d t q p out).ways = ((s.imagesIn d t q out).slotsAgain d q p.task p.slots).1.ways := by
  rw [State.takeIn, State.ways_restoreTile]

end Sys2Proof.Machine
end

