-- ==== Sys2Proof/Tests/Slice0.lean ====
section
/-!
SUPPORT. Checks of the model against what the manual writes out, and a witness for the hypotheses of every statement: a concrete state
and operands that meet them together. Where a test expects a value, its comment says where in the manual the value stands.
-/
namespace Sys2Proof.Tests

open Sys2Proof.Machine

-- one proof after the other: many at once ask for more threads than the memory limit of the check leaves room for
set_option Elab.async false

/-! ### Well-formedness: one ill-formed term for each check of R71, refused -/

theorem test_wellformed_base :
    (Instr.add { d := .x 1, a := .x 2, b := .x 3 }).wellFormedFor .cc = true ∧
    (Instr.vmov { et := .f32, d := .v 1, a := .v 2 } {}).wellFormedFor .ve = true ∧
    (Instr.vld { et := .f32, d := .v 1, a := .ag 0 } { t0 := 2, ag0 := { str0 := 128 } }).wellFormedFor .ve = true ∧
    (Instr.mflip {} {}).wellFormedFor .me = true := by decide +kernel

theorem test_wellformed_refuses_agent :
    (Instr.add { d := .x 1 }).wellFormedFor .ve = false ∧ (Instr.vmov { et := .f32, d := .v 1, a := .v 2 } {}).wellFormedFor .me = false ∧
    (Instr.eret {}).wellFormedFor .se = false := by decide +kernel

theorem test_wellformed_refuses_event : Instr.resultWriteback.wellFormed = false := by decide +kernel

theorem test_wellformed_refuses_specifiers :
    -- a class that the field does not accept, in D, A, B and C; an index that the field does not accept
    (Instr.add { d := .v 1 }).wellFormedFor .cc = false ∧ (Instr.add { a := .q 1 }).wellFormedFor .cc = false ∧
    (Instr.vadd { et := .f32, d := .v 1, a := .v 2, b := .x 3 } {}).wellFormedFor .ve = false ∧
    (Instr.vfma { et := .f32, d := .v 1, a := .v 2, b := .v 3, c := .acc 0 } {}).wellFormedFor .ve = false ∧
    (Instr.wrn { d := .b 1, a := .x 1 }).wellFormedFor .cc = false := by decide +kernel

theorem test_wellformed_refuses_fields :
    -- ET, MOD, PQ, LSEL, LIT, SUB
    (Instr.add { et := .i8, d := .x 1 }).wellFormedFor .cc = false ∧ (Instr.add { mod := 1, d := .x 1 }).wellFormedFor .cc = false ∧
    (Instr.add { d := .x 1, pq := some 1 }).wellFormedFor .cc = false ∧
    (Instr.popc { d := .x 1, lsel := .c }).wellFormedFor .cc = false ∧ (Instr.add { d := .x 1, lit := 1 }).wellFormedFor .cc = false ∧
    (Instr.add { d := .x 1, sub := 1 }).wellFormedFor .cc = false ∧ (Instr.cmp { d := .x 1, sub := 200 }).wellFormedFor .cc = false ∧
    -- a literal where the specifier is not zero
    (Instr.add { d := .x 1, b := .x 1, lsel := .b }).wellFormedFor .cc = false := by decide +kernel

theorem test_wellformed_refuses_tails :
    -- trip counts not contiguous; a slot that no specifier names; stage predicates beside steps; LSLOT in the matrix engine; level 7
    (Instr.vmov { et := .f32, d := .v 1, a := .v 2 } { t1 := 2 }).wellFormedFor .ve = false ∧
    (Instr.vmov { et := .f32, d := .v 1, a := .v 2 } { t0 := 1, t2 := 2 }).wellFormedFor .ve = false ∧
    (Instr.vmov { et := .f32, d := .v 1, a := .v 2 } { t0 := 1, t1 := 1, t3 := 2 }).wellFormedFor .ve = false ∧
    (Instr.vmov { et := .f32, d := .v 1, a := .v 2 } { ag1 := { off := 1 } }).wellFormedFor .ve = false ∧
    (Instr.vmov { et := .f32, d := .v 1, a := .v 2 } { ctl := { spat := 1 } }).wellFormedFor .ve = false ∧
    (Instr.mflip {} { ctl := { lslot := 1 } }).wellFormedFor .me = false ∧
    (Instr.mflip {} { ctl := { wlvl := 7 } }).wellFormedFor .me = false ∧
    (Instr.mflip {} { ctl := { plvl := 7 } }).wellFormedFor .me = false ∧
    (Instr.loop {} {}).wellFormedFor .ve = false ∧ (Instr.endloop {} { t0 := 1 }).wellFormedFor .ve = false := by decide +kernel

/-! ### Decoding: words written out field by field from the layout of R65 and the opcode map of R81 -/

/-- A word or record of fields, each with the number of its lowest bit. -/
def fields (l : List (Nat × Nat)) : Nat := (l.map fun p => p.1 * 2 ^ p.2).sum

/-- The word of fields, and the record. -/
def wordOfFields (l : List (Nat × Nat)) : BitVec 128 := BitVec.ofNat 128 (fields l)
/-- The record. -/
def recordOfFields (l : List (Nat × Nat)) : BitVec 512 := BitVec.ofNat 512 (fields l)

theorem test_decode_core :
    -- divn x1, x2, x3 wait=k4 (0x02/0x04); fadd.f32 (0x10/0x00); ld.i16 x6, x7, -1 (0x28/0x00); wrn n2, x5 (0x30/0x02); eret (0x38/0x03)
    decodeWord (wordOfFields [(0x02, 0), (0x04, 8), (0x01, 24), (0x02, 32), (0x03, 40), (0x84, 96)]) =
      .ok (.divn { d := .x 1, a := .x 2, b := .x 3, sw := some 4 }) ∧
    decodeWord (wordOfFields [(0x10, 0), (0x00, 8), (13, 16), (0x01, 24), (0x02, 32), (0x03, 40)]) =
      .ok (.fadd { et := .f32, d := .x 1, a := .x 2, b := .x 3 }) ∧
    decodeWord (wordOfFields [(0x28, 0), (0x00, 8), (7, 16), (0x06, 24), (0x07, 32), (0xFFFFFFFF, 64)]) =
      .ok (.ld { et := .i16, d := .x 6, a := .x 7, lit := 0xFFFFFFFF }) ∧
    decodeWord (wordOfFields [(0x30, 0), (0x02, 8), (0xC2, 24), (0x05, 32)]) = .ok (.wrn { d := .n 2, a := .x 5 }) ∧
    decodeWord (wordOfFields [(0x38, 0), (0x03, 8)]) = .ok (.eret {}) := by decide +kernel

theorem test_decode_vector :
    -- vadd.f32 v1, v2, v3 ?q3 (0x40/0x00); vsel.f32 v1, v2, s3, q4 (0x45/0x00); vexp2.f16 v1, v2 (0x60/0x00); loop 3 (0xDF/0x00)
    decodeRecord .ve (recordOfFields [(0x40, 0), (0x00, 8), (13, 16), (0x21, 24), (0x22, 32), (0x23, 40), (0xB, 56)]) =
      .ok (.vadd { et := .f32, d := .v 1, a := .v 2, b := .v 3, pq := some 3 } {}) ∧
    decodeRecord .ve (recordOfFields [(0x45, 0), (0x00, 8), (13, 16), (0x21, 24), (0x22, 32), (0x63, 40), (0x44, 48)]) =
      .ok (.vsel { et := .f32, d := .v 1, a := .v 2, b := .s 3, c := .q 4 } {}) ∧
    decodeRecord .ve (recordOfFields [(0x60, 0), (0x00, 8), (10, 16), (0x21, 24), (0x22, 32)]) =
      .ok (.vexp2 { et := .f16, d := .v 1, a := .v 2 } {}) ∧
    decodeRecord .ve (recordOfFields [(0xDF, 0), (0x00, 8), (3, 128)]) = .ok (.loop {} { t0 := 3 }) := by decide +kernel

theorem test_decode_requests :
    -- ldg x5, x6, x7 arr=100 with ET 14 (0xC0/0x00); ldeq x4, x6 arr=50 with SPACE 1 (0xC6/0x01); cstep post=k5 (0xAA/0x01)
    decodeWord (wordOfFields [(0xC0, 0), (0x00, 8), (14, 16), (0x05, 24), (0x06, 32), (0x07, 40), (100, 64)]) =
      .ok (.ldg { et := .i64, d := .x 5, a := .x 6, b := .x 7, lit := 100 }) ∧
    decodeWord (wordOfFields [(0xC6, 0), (0x01, 8), (0x04, 24), (0x06, 32), (50, 64), (1, 112)]) =
      .ok (.ldeq { d := .x 4, a := .x 6, lit := 50, sub := 1 }) ∧
    decodeRecord .se (recordOfFields [(0xAA, 0), (0x01, 8), (0x85, 104)]) = .ok (.cstep { sp := some 5 } {}) := by decide +kernel

theorem test_decode_tables :
    -- barinit x6, x7 arr=4; tcrd x5, x6 arr=9; lyc x5, x6 arr=9; fcol x5, x6, x7 with SUB 1 arr=9; kset k5, 0x201; fence.sys arr=9; rtld x5, x6, x7 arr=9
    decodeWord (wordOfFields [(0xD4, 0), (0x00, 8), (0x06, 32), (0x07, 40), (4, 64)]) = .ok (.barinit { a := .x 6, b := .x 7, lit := 4 }) ∧
    decodeWord (wordOfFields [(0xDC, 0), (0x01, 8), (0x05, 24), (0x06, 32), (9, 64)]) = .ok (.tcrd { d := .x 5, a := .x 6, lit := 9 }) ∧
    decodeWord (wordOfFields [(0xE0, 0), (0x00, 8), (0x05, 24), (0x06, 32), (9, 64)]) = .ok (.lyc { d := .x 5, a := .x 6, lit := 9 }) ∧
    decodeWord (wordOfFields [(0xB4, 0), (0x00, 8), (0x05, 24), (0x06, 32), (0x07, 40), (9, 64), (1, 112)]) =
      .ok (.fcolRun { d := .x 5, a := .x 6, b := .x 7, lit := 9, sub := 1 }) ∧
    decodeWord (wordOfFields [(0xD0, 0), (0x00, 8), (0xD5, 24), (0x201, 64)]) = .ok (.kset { d := .k 5, lit := 0x201 }) ∧
    decodeWord (wordOfFields [(0xCF, 0), (0x00, 8), (9, 64), (3, 112)]) = .ok (.fence { lit := 9, sub := 3 }) ∧
    decodeWord (wordOfFields [(0xE2, 0), (0x01, 8), (0x05, 24), (0x06, 32), (0x07, 40), (9, 64)]) =
      .ok (.rtld { d := .x 5, a := .x 6, b := .x 7, lit := 9 }) := by decide +kernel

theorem test_decode_engines :
    -- mrd.f32 s2, a3, 127 (0x80/0x04); vcvt.bf16 v4, v2 from f32 (0x4D/0x00); vred.f32 v4, v2 in groups of 128; qand q3, q1, q2 (0x58/0x00)
    decodeRecord .me (recordOfFields [(0x80, 0), (0x04, 8), (13, 16), (0x62, 24), (0x83, 32), (127, 64)]) =
      .ok (.mrd { et := .f32, d := .s 2, a := .acc 3, lit := 127 } {}) ∧
    decodeRecord .ve (recordOfFields [(0x4D, 0), (0x00, 8), (9, 16), (0x24, 24), (0x22, 32), (13, 112)]) =
      .ok (.vcvt { et := .bf16, d := .v 4, a := .v 2, sub := 13 } {}) ∧
    decodeRecord .ve (recordOfFields [(0x50, 0), (0x00, 8), (13, 16), (0x24, 24), (0x22, 32), (7, 112)]) =
      .ok (.vred { et := .f32, d := .v 4, a := .v 2, sub := 7 } {}) ∧
    decodeRecord .ve (recordOfFields [(0x58, 0), (0x00, 8), (0x43, 24), (0x41, 32), (0x42, 40)]) = .ok (.qand { d := .q 3, a := .q 1, b := .q 2 } {}) := by
  decide +kernel

theorem test_decode_refuses :
    -- an unassigned pair; an operation of another agent; loop nesting is no matter of one word
    decodeWord (wordOfFields [(0xF0, 0)]) = .bad ⟨0, 1⟩ ∧ decodeWord (wordOfFields [(0x40, 0), (13, 16)]) = .bad ⟨0, 12⟩ ∧
    decodeRecord .ve (recordOfFields [(0x80, 0), (1, 8)]) = .bad ⟨0, 12⟩ := by decide +kernel

theorem test_decode_table_word :
    decodeTableWord 128 (fields [(0x02, 0), (0x04, 8), (0x01, 24), (0x02, 32), (0x03, 40)]) = some (.divn { d := .x 1, a := .x 2, b := .x 3 }) ∧
    decodeTableWord 512 (fields [(0x80, 0), (1, 8)]) = some (.mflip {} {}) ∧ decodeTableWord 128 0 = none := by decide +kernel


/-! ### Witnesses: the hypotheses of the statements about operations and records are met -/

/-- The package with every die live, and the moving tile changed. -/
def live : State := { State.reset with io := { State.reset.io with dstate := Vector.replicate 8 2 } }
/-- The same with the moving tile changed. -/
def on (f : Tile → Tile) : State := live.modHere f

/-- A tile that runs a task with x4 = x5 = 1, x6 = 64, x7 = 3, b1 = 32 and one count in k4. -/
def busy : State := on fun t => { t with
  mode := .running, cc := { t.cc with
    x := upd (upd (upd (upd t.cc.x 4 1) 5 1) 6 64) 7 3, b := upd t.cc.b 1 32, pc := 64, trap := { t.cc.trap with tvec := 0x400 } }
  sems := upd t.sems 4 { count := 1, ceil := 1 } }

/-- Operands of most tests: x8 from x4 and x7, after a wait for k4 that holds just one count. -/
def ops : Op := { d := .x 8, a := .x 4, b := .x 7, c := .x 5, sw := some 4 }

/-- A wait is granted. -/
def granted (o : Op) (s : State) : Bool := o.sw.all fun k => Nat.ble 1 (nth s.here.sems k).count.toNat

theorem granted_of {o : Op} {s : State} (h : granted o s = true) : Claims.Granted o s := by
  intro k hk
  rw [granted, hk] at h
  simpa [Nat.ble_eq] using h

/-- Every instruction of a list has a row, and its wait is granted. -/
theorem rows_of {α : Type} {row : Instr → Option α} {op : α → Op} {l : List Instr} {s : State}
    (h : (l.all fun i => (row i).any fun r => granted (op r) s) = true) :
    ∀ i ∈ l, ∃ r, row i = some r ∧ Claims.Granted (op r) s := by
  intro i hi
  have h1 := List.all_eq_true.1 h i hi
  cases hr : row i with
  | none => simp [hr] at h1
  | some r => exact ⟨r, rfl, granted_of (by simpa [hr] using h1)⟩

theorem witness_IntegerOperationsComplete :
    ∀ i ∈ [Instr.add ops, .sub ops, .and ops, .or ops, .xor ops, .andn ops, .sll { ops with b := .x 6 }, .srl ops, .sra ops, .rotl ops,
        .min ops, .max ops, .minn ops, .maxn ops, .mul ops, .mulh ops, .mulhn ops, .div { ops with b := .x 0 }, .divn ops, .rem { ops with b := .x 0 },
        .remn ops, .clz { ops with a := .x 0 }, .ctz ops, .popc ops, .sel ops, .cmp { ops with sub := 9 }, .li { ops with d := .x 0 }, .lih ops,
        .lea { ops with d := .srseed, sub := 6 }],
      ∃ r, Claims.intRow busy i = some r ∧ Claims.Granted r.1 busy := rows_of (by decide +kernel)

theorem witness_FloatOperationsComplete :
    ∀ i ∈ [Instr.fadd { ops with et := .f32 }, .fsub { ops with et := .f32 }, .fmul { ops with et := .f32 }, .fdiv { ops with et := .f32 },
        .fsqrt { ops with et := .f32 }, .ffma { ops with et := .f32 }, .fmin { ops with et := .bf16 }, .fmax { ops with et := .f16 },
        .fcmp { ops with et := .f32, sub := 5 }, .fcvt { ops with et := .i32, sub := 13 }],
      ∃ r, Claims.floatRow busy i = some r ∧ Claims.Granted r.1 busy := rows_of (by decide +kernel)

/-- Not taken with any target, taken with a good one, always taken, and both jumps. -/
theorem witness_JumpsComplete :
    ∀ i ∈ [Instr.bcc { ops with a := .b 1, b := .x 4, sub := 1 }, .bcc { ops with a := .b 1, sub := 15 }, .bcc { ops with a := .b 2, b := .x 4, sub := 0 },
        .jal { ops with lit := 0xFFFFFFC0 }, .jalr { ops with a := .b 1 }],
      ∃ o taken target link, Claims.jumpRow busy i = some (o, taken, target, link) ∧ Claims.Granted o busy ∧
        (taken = true → Claims.goodTarget target) := by
  intro i hi
  simp only [List.mem_cons, List.not_mem_nil, or_false] at hi
  rcases hi with rfl | rfl | rfl | rfl | rfl <;>
    exact ⟨_, _, _, _, rfl, granted_of (by decide +kernel), fun _ => by unfold Claims.goodTarget; decide +kernel⟩

/-- The same tile with a record of the vector engine (major opcode 0x40) in the last 64 bytes of its scratchpad, and slot 3 of 64 bytes. -/
def loaded : State := busy.modHere fun t => { t with
  setA := { t.setA with bytes := [(0x1FFFC0, 0x40)] }, slots := upd t.slots 3 0x10000 }

/-- Each at the end of its range: the last bytes of the scratchpad, the silo and a slot, the last tag, the greatest count. -/
def coreSamples : List Instr :=
  [.ld { ops with et := .i16, a := .x 0, lit := 0x1FFFFE }, .ld { ops with et := .i8, a := .x 0, lit := 0x3FFFFF }
    , .st { ops with et := .i8, a := .x 0, lit := 0x1FFFFF }, .ldl { ops with et := .i64, a := .x 0, lit := 56, sub := 3 }, .wrg { ops with d := .g 15 }
    , .wrn { ops with d := .n 3 }, .nst { ops with sub := 5 }, .mgo {}, .rdsr { ops with sub := 7 }, .rdsr { ops with sub := 8 }, .wrsr { ops with sub := 1 }
    , .enq { ops with a := .x 0, b := .x 4, lsel := .a, lit := 0x1FFFC0 }
    , .tlk ops, .tins { ops with a := .x 0, c := .x 0, lsel := .a, lit := 1023 }, .tinvOne { ops with a := .x 0, lsel := .a, lit := 1023 }
    , .tinvAll ops, .tinvTag ops, .kset { ops with d := .k 5, lit := 0x101 }
    , .ksetReg { ops with d := .k 5, a := .x 0 }, .pbr { ops with d := .b 3 }, .pbrReg { ops with d := .b 3 }, .atomAdd { ops with et := .i64, a := .x 6 }
    , .atomMin { ops with et := .i64, a := .x 6 }, .atomMax { ops with et := .i64, a := .x 6 }, .atomMinn { ops with et := .i64, a := .x 6 }
    , .atomMaxn { ops with et := .n32, a := .x 6 }, .atomAnd { ops with et := .i64, a := .x 6 }, .atomOr { ops with et := .i64, a := .x 6 }
    , .atomXor { ops with et := .i64, a := .x 6 }, .atomSwap { ops with et := .i64, a := .x 6 }, .cas { ops with et := .i64, a := .x 6 }
    , .cas2 { ops with a := .x 6 }, .cas4 { ops with a := .x 6 }]

theorem witness_CoreOperationsComplete :
    ∀ i ∈ coreSamples, ∃ o lat es smp, Claims.coreRow loaded i = some (o, true, lat, es, smp) ∧ Claims.Granted o loaded := by
  intro i hi
  have h : (coreSamples.all fun i => (Claims.coreRow loaded i).any fun r => r.2.1 && granted r.1 loaded) = true := by decide +kernel
  have h1 := List.all_eq_true.1 h i hi
  cases hr : Claims.coreRow loaded i with
  | none => simp [hr] at h1
  | some r =>
    obtain ⟨o, ok, lat, es, smp⟩ := r
    simp only [hr, Option.any_some, Bool.and_eq_true] at h1
    obtain ⟨rfl, h2⟩ := h1
    exact ⟨o, lat, es, smp, rfl, granted_of h2⟩

/-! ### Witnesses: records of the sequencers -/

/-- Sequencer ag moves on a tile with one count in k4, streams 0 to 3 each with a written head, and a masked q1; its counts and
its stage are set as the tests need them. -/
def seqOf (ag : Agent) (stg : BitVec 8) : State :=
  { (on fun t => { t with
      mode := .running, sems := upd t.sems 4 { count := 1, ceil := 1 }
      cc := { t.cc with g := upd t.cc.g 3 0x1FFE00, n := upd t.cc.n 1 1 }
      seqs := t.seqs.map fun q => { q with stg }
      ve := { t.ve with q := upd t.ve.q 1 5 }, me := { t.me with planes := t.me.planes.map fun p => { p with desc := 3 } }
      streams := t.streams.map fun k => { k with entries := upd k.entries 0 { st := .written, data := 7 }, used := 1 } }) with agent := ag }

/-- Whether a row may issue: `RecordMay` as a test. -/
def may (r : Claims.RecordRow) (i : Instr) (s : State) : Bool :=
  decide (s.agent = r.agent) && (r.handshake || !((Claims.iteration s i r.tail).idle r.tail))
    && ((dueWait r.o r.tail (Claims.sequencer s) (Claims.iteration s i r.tail)).all fun k => Nat.ble 1 (nth s.here.sems k).count.toNat)
    && r.check.isNone && (r.pops.all fun k => (nth s.here.streams k).readable) && (r.push.all fun k => (nth s.here.streams k).writable)
    && r.takes.all fun p => Nat.ble p.2 (nth s.here.sems p.1).count.toNat

theorem may_of {r : Claims.RecordRow} {i : Instr} {s : State} (h : may r i s = true) : Claims.RecordMay r i s := by
  simp only [may, Bool.and_eq_true, Bool.or_eq_true, decide_eq_true_eq, Bool.not_eq_true', Option.isNone_iff_eq_none] at h
  obtain ⟨⟨⟨⟨⟨⟨h1, h2⟩, h3⟩, h4⟩, h5⟩, h6⟩, h7⟩ := h
  refine ⟨h1, fun hs => h2.resolve_left (by rw [hs]; decide), fun k hk => ?_, h4, fun k hk => List.all_eq_true.1 h5 k hk, fun k hk => ?_, fun k n hk => ?_⟩
  · rw [hk] at h3; simpa [Nat.ble_eq] using h3
  · rw [hk] at h6; simpa using h6
  · rw [hk] at h7; simpa [Nat.ble_eq] using h7

theorem mays_of {row : State → Instr → Option Claims.RecordRow} {l : List Instr} {s : State}
    (h : (l.all fun i => (row s i).any fun r => may r i s) = true) :
    ∀ i ∈ l, ∃ r, row s i = some r ∧ Claims.RecordMay r i s := by
  intro i hi
  have h1 := List.all_eq_true.1 h i hi
  cases hr : row s i with
  | none => simp [hr] at h1
  | some r => exact ⟨r, rfl, may_of (by simpa [hr] using h1)⟩

/-- A vector operation of f32 from streams 0 and 1 to stream 2 under q1, after a wait. -/
def vops : Op := { et := .f32, d := .s 2, a := .s 0, b := .s 1, c := .v 2, pq := some 1, sw := some 4 }
/-- A loop nest of 2 by 2 with a valid count of n1, which is 1. -/
def nest : Tail := { t0 := 2, t1 := 2, ctl := { vcen := true, vcsel := 1 } }

theorem witness_LaneOperationsComplete :
    ∀ i ∈ [Instr.vadd vops nest, .vsub vops nest, .vmul vops nest, .vmulh { vops with et := .i16 } nest, .vmin vops nest, .vmax vops nest,
        .vclamp vops nest, .vfma vops nest, .vfms vops nest, .vfnma vops nest, .vabs { vops with et := .i8 } nest, .vneg vops nest, .vround vops nest,
        .vexp2 vops nest, .vlog2 vops nest, .vrcp vops nest, .vrsqrt vops nest, .vsin vops nest, .vcos vops nest, .vtanh vops nest, .vsigm vops nest],
      ∃ r, Claims.laneRow (Claims.laneValue i) (seqOf .ve 0) i = some r ∧ Claims.RecordMay r i (seqOf .ve 0) :=
  mays_of (row := fun s i => Claims.laneRow (Claims.laneValue i) s i) (by decide +kernel)

theorem witness_ShiftsComplete :
    ∀ i ∈ [Instr.vshl { vops with et := .n32 } nest, .vshr { vops with et := .n32 } nest, .vsra { vops with et := .i32 } nest, .vfsl { vops with et := .n32 } nest,
        .vfsr { vops with et := .n32 } nest],
      ∃ r, Claims.laneRow (Claims.shiftValue i) (seqOf .ve 0) i = some r ∧ Claims.RecordMay r i (seqOf .ve 0) :=
  mays_of (row := fun s i => Claims.laneRow (Claims.shiftValue i) s i) (by decide +kernel)

theorem witness_VectorMovesComplete :
    ∀ i ∈ [Instr.vand vops nest, .vor vops nest, .vxor vops nest, .vandn vops nest, .vlop3 vops nest, .vmov vops nest, .vsel { vops with c := .q 1 } nest,
        .vrot { vops with sub := 7 } nest, .vperm vops nest, .vsplat { vops with lit := 127 } nest, .vbcast { vops with sub := 7 } nest],
      ∃ r, Claims.wholeRow (seqOf .ve 0) i = some r ∧ Claims.RecordMay r i (seqOf .ve 0) := mays_of (by decide +kernel)

theorem witness_MaskOperationsComplete :
    ∀ i ∈ [Instr.vcmp { vops with d := .q 3, sub := 5 } nest, .vtopk { vops with d := .q 3, sub := 7, lit := 128 } nest,
        .qand { vops with d := .q 3, a := .q 1, b := .q 2 } nest, .qor { vops with d := .q 3, a := .q 1, b := .q 2 } nest,
        .qnot { vops with d := .q 3, a := .q 1 } nest, .qpop { vops with a := .q 1 } nest, .qfirst { vops with a := .q 1 } nest],
      ∃ r, Claims.predicateRow (seqOf .ve 0) i = some r ∧ Claims.RecordMay r i (seqOf .ve 0) := mays_of (by decide +kernel)

theorem witness_WideningComplete :
    ∀ i ∈ [Instr.vwmul { vops with et := .i16, d := .v 4 } nest, .vwadd { vops with et := .f16, d := .v 4 } nest, .vdot4 { vops with et := .i8 } nest,
        .vcvt { vops with et := .bf16, d := .v 4, a := .v 2, sub := 13 } nest, .vpack { vops with et := .e4m3, a := .v 8, c := .v 5, sub := 11 } nest],
      ∃ r, Claims.wideRow (seqOf .ve 0) i = some r ∧ Claims.RecordMay r i (seqOf .ve 0) := mays_of (by decide +kernel)

theorem witness_ReductionsComplete :
    ∀ i ∈ [Instr.vred { vops with sub := 7 } nest, .vred { vops with et := .i32, sub := 0x17 } nest, .vscan { vops with sub := 7 } nest],
      ∃ r, Claims.reduceRow (seqOf .ve 0) i = some r ∧ Claims.RecordMay r i (seqOf .ve 0) := mays_of (by decide +kernel)

/-- The last 512 bytes of the scratchpad: g3 holds 0x1FFE00. -/
theorem witness_VectorAccessesComplete :
    ∀ i ∈ [Instr.vld { vops with a := .ag 0, b := .x 0 } { nest with ag0 := { bsel := 3 } }, .vst { vops with d := .x 0, a := .ag 0 } { nest with ag0 := { bsel := 3 } },
        .vldt { vops with a := .ag 0, b := .x 0, c := .q 2 } { nest with ag0 := { bsel := 3 } }],
      ∃ r, Claims.blockRow (seqOf .ve 0) i = some r ∧ Claims.RecordMay r i (seqOf .ve 0) := mays_of (by decide +kernel)

theorem witness_MatrixOperationsComplete :
    ∀ i ∈ [Instr.mldw { et := .i8, a := .ag 0, sw := some 4 } { ag0 := { str1 := 0 } }, .mflip {} {}, .mrd { et := .f32, d := .s 2, a := .acc 3, lit := 127, sub := 1 } {},
        .mrd { et := .bf16, d := .s 2, a := .acc 3 } {}, .mclr { d := .plane 1 } {}, .mclr { d := .acc 2 } {}, .mscMul { d := .acc 0, a := .s 0 } {},
        .mscLd { d := .acc 0, a := .s 0, lit := 127 } {}, .mstat { d := .s 2 } {}],
      ∃ r, Claims.matrixRow (seqOf .me 0) i = some r ∧ Claims.RecordMay r i (seqOf .me 0) := mays_of (by decide +kernel)

theorem witness_ArrayStepsComplete :
    ∀ i ∈ [Instr.mstep { et := .i8, d := .acc 0, a := .ag 0, b := .ag 1, sw := some 4 } { ctl := { spat := 1 } },
        .mstepz { et := .i8, d := .acc 0, a := .ag 0 } { ctl := { spat := 0 } }],
      ∃ r, Claims.stepRow (seqOf .me 0) i = some r ∧ Claims.RecordMay r i (seqOf .me 0) := mays_of (by decide +kernel)

theorem witness_ControlRecordsComplete :
    (∀ i ∈ [Instr.kwait { a := .k 4, sub := 1 } (some {}), .kpost { a := .k 5, sub := 255 } (some {}), .loop {} { t0 := 1 }, .endloop {} {}, .cstep {} {},
        .kwait { a := .k 4, sub := 1 } (some { ctl := { vcen := true } }), .kpost { a := .k 5, sub := 255 } (some { ctl := { vcen := true } })],
      ∃ r, Claims.controlRow (seqOf .ve 254) i = some r ∧ Claims.RecordMay r i (seqOf .ve 254)) := mays_of (by decide +kernel)

/-! ### Witnesses: requests, copies, schedules and stalls -/

/-- A tile with the segment 1022 ahead of the lowest that stands open, at task or at system level. -/
def asking (l : Level) : State := busy.modHere fun t => { t with seg := 1022, cc := { t.cc with level := l } }

/-- Whether a request may be made. -/
def asks (r : Claims.RequestRow) (s : State) : Bool :=
  r.good && granted r.o s && (!r.system || decide (s.here.cc.level = .system)) && (!r.ask.closes || Nat.ble ((s.here.seg - s.here.sfloor).toNat + 1) 1023)

theorem asks_of {row : State → Instr → Option Claims.RequestRow} {l : List Instr} {s : State}
    (h : (l.all fun i => (row s i).any fun r => asks r s) = true) :
    ∀ i ∈ l, ∃ r, row s i = some r ∧ r.good = true ∧ Claims.Granted r.o s ∧ (r.system = true → s.here.cc.level = .system) ∧
      (r.ask.closes = true → (s.here.seg - s.here.sfloor).toNat < 1023) := by
  intro i hi
  have h1 := List.all_eq_true.1 h i hi
  cases hr : row s i with
  | none => simp [hr] at h1
  | some r =>
    simp only [hr, Option.any_some, asks, Bool.and_eq_true, Bool.or_eq_true, Bool.not_eq_true', decide_eq_true_eq, Nat.ble_eq] at h1
    obtain ⟨⟨⟨h2, h3⟩, h4⟩, h5⟩ := h1
    refine ⟨r, rfl, h2, granted_of h3, fun h => ?_, fun h => ?_⟩
    · exact h4.resolve_left (by rw [h]; decide)
    · exact Nat.lt_of_succ_le (h5.resolve_left (by rw [h]; decide))

/-- Addresses aligned as the rules ask, with the release forms among them. -/
theorem witness_AccessRequestsComplete :
    ∀ i ∈ [Instr.ldg { ops with et := .i32, a := .x 6, b := .x 0 }, .ldacq { ops with et := .i8 }, .stg { ops with et := .i16, a := .x 6, b := .x 0 },
        .strel { ops with et := .i64, a := .x 6, b := .x 0, sub := 3 }, .atomAdd { ops with et := .i64, a := .x 6, sub := 1 },
        .atomMin { ops with et := .i64, a := .x 6, sub := 1 }, .atomMax { ops with et := .i64, a := .x 6, sub := 1 }, .atomMinn { ops with et := .i64, a := .x 6, sub := 1 },
        .atomMaxn { ops with et := .n32, a := .x 6, sub := 1 }, .atomAnd { ops with et := .i64, a := .x 6, sub := 5 }, .atomOr { ops with et := .i64, a := .x 6, sub := 0x29 },
        .atomXor { ops with et := .i64, a := .x 6, sub := 1 }, .atomSwap { ops with et := .i64, a := .x 6, sub := 1 }, .cas { ops with et := .i64, a := .x 6, sub := 1 },
        .cas2 { ops with a := .x 6, sub := 1 }, .cas4 { ops with a := .x 6, sub := 1 }, .lenq { ops with a := .x 6, sub := 1 }, .ldeq { ops with a := .x 6, sub := 1 },
        .nchase { ops with a := .x 6 }, .kcrust { ops with a := .x 0 }, .ksel { ops with et := .i32, a := .x 0, lsel := .none, lit := 0x1FFFC0 },
        .ksel { ops with et := .i32, a := .x 6 }],
      ∃ r, Claims.accessRow (asking .task) i = some r ∧ r.good = true ∧ Claims.Granted r.o (asking .task) ∧
        (r.system = true → (asking .task).here.cc.level = .system) ∧
        (r.ask.closes = true → ((asking .task).here.seg - (asking .task).here.sfloor).toNat < 1023) := asks_of (by decide +kernel)

theorem witness_OrderRequestsComplete :
    ∀ i ∈ [Instr.fence { ops with sub := 3 }, .barinit { ops with a := .x 6 }, .barexp { ops with a := .x 6 }, .barwait { ops with a := .x 6 }, .sstatBar ops,
        .sstatStg ops, .tcaddAdd ops, .tcaddSet ops, .tcrd ops],
      ∃ r, Claims.orderRow (asking .task) i = some r ∧ r.good = true ∧ Claims.Granted r.o (asking .task) ∧
        (r.system = true → (asking .task).here.cc.level = .system) ∧
        (r.ask.closes = true → ((asking .task).here.seg - (asking .task).here.sfloor).toNat < 1023) := asks_of (by decide +kernel)

theorem witness_TableRequestsComplete :
    ∀ i ∈ [Instr.lyc ops, .lyqBox ops, .lyqShard ops, .lyqNup ops, .lyqNdn ops, .tsldSlots ops, .tsldRed ops, .rtld ops, .tlbinvPage ops, .tlbinvAsid ops,
        .tlbinvAll ops, .atw ops, .ditwFill ops, .ditwLoad ops, .fcolLoad ops, .fcolRun ops, .ftrigArm ops, .ftrigDisarm ops, .ftrigQuery ops, .rshd ops,
        .rshqTotal ops, .rshqPairs ops, .kill ops, .ctxswOut ops, .ctxswIn ops, .ctxswXchg ops, .ctxswSpill ops],
      ∃ r, Claims.tableRow (asking .system) i = some r ∧ r.good = true ∧ Claims.Granted r.o (asking .system) ∧
        (r.system = true → (asking .system).here.cc.level = .system) ∧
        (r.ask.closes = true → ((asking .system).here.seg - (asking .system).here.sfloor).toNat < 1023) := asks_of (by decide +kernel)

/-- A layout record of 128 elements of f32 in one shard, with its stamp. -/
def layout128 : Nat := 0x10101010100000001000001000001000001000080000000000000020029420d00000002008100000000000000

/-- Copy engine ag moves with a layout record at 64 and a command block at 128, to which g7 points; g2 and g3 point to other places, and the
segment stands 1022 ahead of the lowest open one. -/
def copying (ag : Agent) (blk : Nat) : State :=
  { (on fun t => { t with
      mode := .running, sems := upd t.sems 4 { count := 1, ceil := 1 }, seg := 1022
      cc := { t.cc with g := upd (upd (upd t.cc.g 2 0x1FFE00) 3 0x20000) 7 128 }
      setA := { t.setA with bytes := Mem.write (Mem.write [] 64 (bytesOf 64 layout128)) 128 (bytesOf 64 blk) }
      streams := t.streams.map fun k => { k with entries := upd k.entries 0 { st := .written, data := 7 }, used := 1 } }) with agent := ag }

/-- `CopyMay` as a test. -/
def copies (s : State) (i : Instr) (o : Op) (tl : Tail) (c : Cmd) : Bool :=
  (decide (s.agent = .le) || decide (s.agent = .se)) && !(Claims.sequencer s).held && !(Claims.copyIteration s i o tl c).idle tl
    && !(Claims.copyIteration s i o tl c).copy.dead
    && (s.copyCheck (s.copyItem c o tl (Claims.copyIteration s i o tl c) 0) (Claims.copyIteration s i o tl c) tl).isNone
    && Nat.ble (s.subQueue s.die s.tile s.agent o.cls + 1) 32
    && ((dueWait o tl (Claims.sequencer s) (Claims.copyIteration s i o tl c)).all fun k => Nat.ble 1 (nth s.here.sems k).count.toNat)
    && ((Claims.copyPops s o).all fun k => (nth s.here.streams k).readable) && ((Claims.copyPush s o).all fun k => (nth s.here.streams k).writable)
    && (!c.isPutsig || Nat.ble ((s.here.seg - s.here.sfloor).toNat + 1) 1023)

theorem copies_of {s : State} {i : Instr} {o : Op} {tl : Tail} {c : Cmd} (h : copies s i o tl c = true) : Claims.CopyMay s i o tl c := by
  simp only [copies, Bool.and_eq_true, Bool.or_eq_true, decide_eq_true_eq, Bool.not_eq_true', Option.isNone_iff_eq_none] at h
  obtain ⟨⟨⟨⟨⟨⟨⟨⟨⟨h1, h2⟩, h3⟩, h4⟩, h5⟩, h6⟩, h7⟩, h8⟩, h9⟩, h10⟩ := h
  refine ⟨h1, h2, h3, h4, h5, ?_, fun k hk => ?_, fun k hk => List.all_eq_true.1 h8 k hk, fun k hk => ?_, fun hp _ => ?_⟩
  · exact Nat.lt_of_succ_le (Nat.le_of_ble_eq_true h6)
  · rw [hk] at h7; simpa [Nat.ble_eq] using h7
  · rw [hk] at h9; simpa using h9
  · rcases h10 with h | h
    · rw [hp] at h; exact absurd h (by decide)
    · exact Nat.lt_of_succ_le (Nat.le_of_ble_eq_true h)

theorem copies_all {l : List (Instr × Agent × Nat)}
    (h : (l.all fun p => (Claims.copyRow p.1).any fun r => copies (copying p.2.1 p.2.2) p.1 r.1 r.2.1 r.2.2) = true) :
    ∀ p ∈ l, ∃ o tl c, Claims.copyRow p.1 = some (o, tl, c) ∧ Claims.CopyMay (copying p.2.1 p.2.2) p.1 o tl c := by
  intro p hp
  have h1 := List.all_eq_true.1 h p hp
  cases hr : Claims.copyRow p.1 with
  | none => simp [hr] at h1
  | some r => exact ⟨r.1, r.2.1, r.2.2, rfl, copies_of (by simpa [hr] using h1)⟩

/-- Items of 512 bytes of f32 between memory at ag0 and the last 512 bytes of the scratchpad at ag1. -/
def cops : Op := { et := .f32, mod := 3, d := .ag 1, a := .ag 0, c := .g 7, sw := some 4, sub := 1 }
/-- The slots of those. -/
def cslots : Tail := { ag0 := { bsel := 3 }, ag1 := { bsel := 2 }, ag2 := { bsel := 3 } }

/-- Each copy record on an engine that decodes it, with the command block that it needs: bytes 24 to 27 name the layout record, bytes 28 and
29 hold 128 for cpyw, bytes 44 to 47 hold 64 for strmq. -/
theorem witness_CopyItemsComplete :
    ∀ p ∈ [(Instr.cpy cops cslots, Agent.le, 0), (.cpyt { cops with mod := 0 } cslots, .le, 64 * 2 ^ 192), (.cpyg { cops with b := .ag 2 } cslots, .le, 2 ^ 192),
        (.cpys { cops with a := .ag 1, d := .ag 0, b := .ag 2 } cslots, .se, 2 ^ 192), (.cpyx cops cslots, .le, 4 * 2 ^ 224),
        (.cpyw cops cslots, .le, 64 * 2 ^ 192 + 128 * 2 ^ 224), (.putsig { cops with a := .ag 1, d := .ag 0 } cslots, .se, 0),
        (.cred { cops with a := .ag 1, d := .ag 0 } cslots, .se, 0), (.strm { cops with d := .s 2 } cslots, .le, 0),
        (.strm { cops with d := .ag 0, a := .s 1 } cslots, .se, 0), (.strmq { cops with d := .s 2 } cslots, .le, 64 * 2 ^ 352),
        (.halo { cops with mod := 0 } cslots, .le, 64 * 2 ^ 192), (.kgath { cops with b := .ag 2 } cslots, .le, 0)],
      ∃ o tl c, Claims.copyRow p.1 = some (o, tl, c) ∧ Claims.CopyMay (copying p.2.1 p.2.2) p.1 o tl c := copies_all (by decide +kernel)

/-- `IdleMay` as a test. -/
def idles (r : Claims.RecordRow) (i : Instr) (s : State) : Bool :=
  decide (s.agent = r.agent) && (Claims.iteration s i r.tail).idle r.tail
    && (dueWait r.o r.tail (Claims.sequencer s) (Claims.iteration s i r.tail)).all fun k => Nat.ble 1 (nth s.here.sems k).count.toNat

theorem idles_of {r : Claims.RecordRow} {i : Instr} {s : State} (h : idles r i s = true) : Claims.IdleMay r i s := by
  simp only [idles, Bool.and_eq_true, decide_eq_true_eq] at h
  obtain ⟨⟨h1, h2⟩, h3⟩ := h
  refine ⟨h1, h2, fun k hk => ?_⟩
  rw [hk] at h3
  simpa [Nat.ble_eq] using h3

/-- `CopyIdle` as a test. -/
def rests (s : State) (i : Instr) (o : Op) (tl : Tail) (c : Cmd) : Bool :=
  (decide (s.agent = .le) || decide (s.agent = .se)) && !(Claims.sequencer s).held && (Claims.copyIteration s i o tl c).idle tl
    && !(Claims.copyIteration s i o tl c).copy.dead
    && ((dueWait o tl (Claims.sequencer s) (Claims.copyIteration s i o tl c)).all fun k => Nat.ble 1 (nth s.here.sems k).count.toNat)
    && Nat.ble ((s.here.seg - s.here.sfloor).toNat + 1) 1023

theorem rests_of {s : State} {i : Instr} {o : Op} {tl : Tail} {c : Cmd} (h : rests s i o tl c = true) : Claims.CopyIdle s i o tl c := by
  simp only [rests, Bool.and_eq_true, Bool.or_eq_true, decide_eq_true_eq, Bool.not_eq_true'] at h
  obtain ⟨⟨⟨⟨⟨h1, h2⟩, h3⟩, h4⟩, h5⟩, h6⟩ := h
  refine ⟨h1, h2, h3, h4, fun k hk => ?_, fun _ _ => Nat.lt_of_succ_le (Nat.le_of_ble_eq_true h6)⟩
  rw [hk] at h5
  simpa [Nat.ble_eq] using h5

/-- A valid count of n0, which is 0: every iteration is idle. -/
def still : Tail := { t0 := 2, ctl := { vcen := true } }
/-- The same for a copy record of one iteration. -/
def cstill : Tail := { cslots with ctl := { vcen := true } }

/-- Idle iterations of each family, a pop of a stream without a head and an address that is no whole number of lines among them. -/
def idleSamples : List (Instr × Agent) :=
  [(.vadd { vops with a := .s 7 } still, .ve), (.vshl { vops with et := .n32 } still, .ve), (.vand vops still, .ve),
    (.vcmp { vops with d := .q 3, sub := 5 } still, .ve), (.vdot4 { vops with et := .i8 } still, .ve), (.vred { vops with sub := 7 } still, .ve),
    (.vst { vops with d := .x 0, a := .ag 0 } { still with ag0 := { off := 1 } }, .ve), (.mflip { sw := some 4, sp := some 3 } still, .me),
    (.mstepz { et := .i8, d := .acc 0, a := .ag 0 } still, .me), (.cstep {} still, .le)]
/-- Idle iterations of copy records, the last of putsig among them. -/
def restSamples : List (Instr × Agent) :=
  [(.cpy cops cstill, .le), (.putsig { cops with a := .ag 1, d := .ag 0 } cstill, .se), (.strm { cops with d := .s 2 } cstill, .le)]

theorem witness_IdleIterationsIssue :
    (∀ p ∈ idleSamples, ∃ r, Claims.engineRow (seqOf p.2 254) p.1 = some r ∧ Claims.IdleMay r p.1 (seqOf p.2 254)) ∧
    (∀ p ∈ restSamples, ∃ o tl c, Claims.copyRow p.1 = some (o, tl, c) ∧ Claims.CopyIdle (copying p.2 0) p.1 o tl c) := by
  refine ⟨fun p hp => ?_, fun p hp => ?_⟩
  · have h : (idleSamples.all fun p => (Claims.engineRow (seqOf p.2 254) p.1).any fun r => idles r p.1 (seqOf p.2 254)) = true := by decide +kernel
    have h1 := List.all_eq_true.1 h p hp
    cases hr : Claims.engineRow (seqOf p.2 254) p.1 with
    | none => rw [hr] at h1; exact absurd h1 (by simp)
    | some r => rw [hr] at h1; exact ⟨r, rfl, idles_of h1⟩
  · have h : (restSamples.all fun p => (Claims.copyRow p.1).any fun r => rests (copying p.2 0) p.1 r.1 r.2.1 r.2.2) = true := by decide +kernel
    have h1 := List.all_eq_true.1 h p hp
    cases hr : Claims.copyRow p.1 with
    | none => rw [hr] at h1; exact absurd h1 (by simp)
    | some r => rw [hr] at h1; exact ⟨r.1, r.2.1, r.2.2, rfl, rests_of h1⟩

/-! ### Witnesses: control, traps and the events of a tile's cycle -/

theorem witness_SchedulesComplete :
    Claims.Granted ops (asking .task) ∧ ((asking .task).here.seg - (asking .task).here.sfloor).toNat = 1022 :=
  ⟨granted_of (by decide +kernel), by decide +kernel⟩

/-- fence at scope tile, and kwait of as many as there are: one of k4. -/
theorem witness_CoreControlCompletes :
    Claims.Granted ops busy ∧ ops.sub.toNat % 4 = 0 ∧ Claims.Granted { a := .k 4, sub := 1 } busy ∧ (nth busy.here.sems (Operand.kIx (.k 4))).count = 1 :=
  ⟨granted_of (by decide +kernel), by decide +kernel, granted_of (by decide +kernel), by decide +kernel⟩

/-- A tile whose trap registers hold one handler more or less: TSTAT, at a level. -/
def nested (tstat : Word) (l : Level) : State :=
  busy.modHere fun t => { t with cc := { t.cc with level := l, trap := { t.cc.trap with tstat, tepc := 0x80 } } }

theorem witness_SystemCallTraps : Claims.Granted ops busy ∧ Claims.Handled busy ∧ busy.here.stop = none :=
  ⟨granted_of (by decide +kernel), by unfold Claims.Handled; decide +kernel, by decide +kernel⟩

/-- Every trapping operation, one byte or one unit beyond what its rule allows, at task level. -/
def trapping : List (Instr × BitVec 16) :=
  [(.ld { ops with et := .i8, a := .x 0, lit := 0x400000 }, 5), (.ld { ops with et := .i8, a := .x 0, lit := 0x200000 }, 3), (.ld { ops with et := .i16, a := .x 4 }, 4),
    (.st { ops with et := .i8, a := .x 0, lit := 0x400000 }, 5), (.st { ops with et := .i8, a := .x 0, lit := 0x200000 }, 3), (.st { ops with et := .i16, a := .x 4 }, 4),
    (.ldl { ops with et := .i8, a := .x 0, sub := 1 }, 10), (.ldg { ops with et := .i32, b := .x 0 }, 4), (.stg { ops with et := .i32, b := .x 0 }, 4),
    (.ldacq { ops with et := .i32, b := .x 0 }, 4), (.strel { ops with et := .i32, b := .x 0 }, 4), (.atomAdd { ops with et := .i64 }, 4),
    (.atomAdd { ops with et := .i64, sub := 1 }, 4), (.atomMin { ops with et := .i64 }, 4), (.atomMax { ops with et := .i64 }, 4), (.atomMinn { ops with et := .i64 }, 4),
    (.atomMaxn { ops with et := .i64 }, 4), (.atomAnd { ops with et := .i64 }, 4), (.atomOr { ops with et := .i64 }, 4), (.atomXor { ops with et := .i64 }, 4),
    (.atomSwap { ops with et := .i64 }, 4), (.cas { ops with et := .i64 }, 4), (.cas2 ops, 4), (.cas4 { ops with sub := 1 }, 4), (.lenq { ops with sub := 1 }, 4),
    (.ldeq { ops with sub := 1 }, 4), (.ksel ops, 4), (.ksel { ops with a := .x 9 }, 5), (.nchase ops, 4), (.kcrust { ops with a := .x 6 }, 4), (.barinit ops, 4),
    (.barexp ops, 4), (.barwait ops, 4), (.bcc { ops with a := .b 2, sub := 15 }, 6), (.jal { ops with lit := 8 }, 6), (.jalr { ops with a := .b 2 }, 6),
    (.tins { ops with a := .x 9 }, 5), (.tinvOne { ops with a := .x 0, lsel := .a, lit := 1024 }, 5), (.kset { ops with d := .k 5, lit := 1 }, 11),
    (.ksetReg { ops with d := .k 5, a := .x 4 }, 11), (.rdsr { ops with sub := 8 }, 3), (.wrsr { ops with sub := 2 }, 3), (.eret ops, 3), (.kill ops, 3), (.rtld ops, 3),
    (.tlbinvPage ops, 3), (.tlbinvAsid ops, 3), (.tlbinvAll ops, 3), (.atw ops, 3), (.ditwFill ops, 3), (.ditwLoad ops, 3), (.ctxswOut ops, 3), (.ctxswIn ops, 3),
    (.ctxswXchg ops, 3), (.ctxswSpill ops, 3), (.enq { ops with a := .x 0, b := .x 0 }, 7), (.enq { ops with a := .x 0, b := .x 4 }, 2)]

/-- The state of those: x9 is the end of the scratchpad, b2 is no multiple of 16. -/
def strict : State := busy.modHere fun t => { t with cc := { t.cc with level := .task, x := upd t.cc.x 9 0x200000, b := upd t.cc.b 2 8 } }

theorem witness_PreciseTrapsTaken :
    (∀ p ∈ trapping, ∃ o v, Claims.trapRow strict p.1 = some (o, p.2, v) ∧ Claims.Granted o strict) ∧ Claims.Handled strict ∧ strict.here.stop = none := by
  refine ⟨fun p hp => ?_, by unfold Claims.Handled; decide +kernel, by decide +kernel⟩
  have h : (trapping.all fun p => (Claims.trapRow strict p.1).any fun r => decide (r.2.1 = p.2) && granted r.1 strict) = true := by decide +kernel
  have h1 := List.all_eq_true.1 h p hp
  cases hr : Claims.trapRow strict p.1 with
  | none => simp [hr] at h1
  | some r =>
    obtain ⟨o, c, v⟩ := r
    simp only [hr, Option.any_some, Bool.and_eq_true, decide_eq_true_eq] at h1
    obtain ⟨rfl, h2⟩ := h1
    exact ⟨o, v, rfl, granted_of h2⟩

/-- Each family of the control core with a wait for k5, which holds nothing; and a kwait for more than k4 holds. -/
def unwaited : List (Instr × Op) :=
  let o : Op := { ops with sw := some 5 }
  [(.add o, o), (.fadd { o with et := .f32 }, { o with et := .f32 }), (.jal o, o), (.bcc o, o), (.ld { o with et := .i8 }, { o with et := .i8 }),
    (.enq o, o), (.wrsr o, o), (.tlk o, o), (.kset o, o), (.ldg o, o), (.atomAdd o, o), (.nchase o, o), (.fence o, o), (.barwait o, o), (.ssync o, o),
    (.csched o, o), (.tcrd o, o), (.lyc o, o), (.rshd o, o), (.trapSys o, o), (.wfe o, o), (.kpost o none, o)]
/-- Operations of the system level among them. -/
def unwaitedSystem : List (Instr × Op) :=
  let o : Op := { ops with sw := some 5 }
  [(.eret o, o), (.kill o, o), (.atw o, o), (.ctxswIn o, o)]

theorem witness_UngrantedWaitStalls :
    (∀ p ∈ unwaited, Claims.coreOp p.1 = some p.2 ∧ Claims.systemOp p.1 = false ∧ p.2.sw = some 5 ∧ ∀ q, p.1 ≠ .kwait q none) ∧
    (∀ p ∈ unwaitedSystem, Claims.coreOp p.1 = some p.2 ∧ (nested 0 .system).here.cc.level = .system ∧ p.2.sw = some 5) ∧
    busy.here.cc.wfeBack = none ∧ (nth busy.here.sems 5).count = 0 ∧ (nth (nested 0 .system).here.sems 5).count = 0 ∧
    (nth busy.here.sems (Operand.kIx (.k 4))).count.toNat < (2 : BitVec 16).toNat := by
  refine ⟨fun p hp => ?_, fun p hp => ?_, by decide +kernel, by decide +kernel, by decide +kernel, by decide +kernel⟩
  · simp only [unwaited, List.mem_cons, List.not_mem_nil, or_false] at hp
    rcases hp with rfl | rfl | rfl | rfl | rfl | rfl | rfl | rfl | rfl | rfl | rfl | rfl | rfl | rfl | rfl | rfl | rfl | rfl | rfl | rfl | rfl | rfl <;>
      exact ⟨rfl, rfl, rfl, fun q h => by cases h⟩
  · simp only [unwaitedSystem, List.mem_cons, List.not_mem_nil, or_false] at hp
    rcases hp with rfl | rfl | rfl | rfl <;> exact ⟨rfl, by decide +kernel, rfl⟩

/-- Return from a first handler with HALT clear, from a second with HALT set, and from what a stop interrupted. -/
theorem witness_HandlerReturns :
    (∀ w ∈ [0x10, 0x28, 0x18], Claims.Granted {} (nested w .system) ∧ (nested w .system).here.cc.level = .system) ∧
    (nested 0x10 .system).here.cc.trap.tstat.toNat / 8 % 2 = 0 ∧ (nested 0x28 .system).here.cc.trap.tstat.toNat / 16 % 4 = 2 ∧
    (nested 0x18 .system).here.cc.trap.tstat.toNat / 8 % 2 = 1 ∧ (nested 0x18 .system).here.cc.trap.tstat.toNat / 16 % 4 = 1 ∧
    Claims.poisonOf (nested 0x18 .system) = none := by
  refine ⟨fun w _ => ⟨fun k hk => by simp at hk, ?_⟩, by decide +kernel, by decide +kernel, by decide +kernel, by decide +kernel, by decide +kernel⟩
  rfl

/-- The state in which the events of a tile's cycle come about, at the beginning or the end of the cycle. -/
def event (f : Tile → Tile) : State := busy.modHere fun t => f { t with cc := { t.cc with level := .task } }
/-- A task with a budget that it has used up. -/
def spent : Task :=
  { home := 0, q := 0, index := 0, ctxid := 0, record := 0, entry := 0x100, image := 0, imglen := 0, arg := 0, budget := 0, ssp := false, ovp := false }
/-- A wfe for idle engines, which they are, or for an outside event, which there is not. -/
def waits (mask : BitVec 4) : Wfe := { d := 3, mask, limit := some 0 }

theorem witness_CycleEventsComplete :
    (∃ p u, Claims.cycleRow (event fun t => { t with stalled := some (.sem 4) }) (.stallResume .cc) = some (p, u) ∧ p) ∧
    (∃ p u, Claims.cycleRow (event fun t => { t with super := some { s := 0, inComm := true, clen := 0 } }) .commPhaseEnd = some (p, u) ∧ p) ∧
    (∃ p u, Claims.cycleRow (event fun t => { t with preempt := some true }) .preemptAccept = some (p, u) ∧ p) ∧
    (∃ p u, Claims.cycleRow (event fun t => { t with irq := some 7 }) .interruptAccept = some (p, u) ∧ p) ∧
    (∃ p u, Claims.cycleRow (event fun t => { t with task := some spent }) .budgetOverrun = some (p, u) ∧ p) ∧
    (∃ p u, Claims.cycleRow (event fun t => { t with phase := .close, cc := { t.cc with mode := .wfe (waits 4) } }) .wfeTimeout = some (p, u) ∧ p) ∧
    (∃ p u, Claims.cycleRow (event fun t => { t with phase := .close, cc := { t.cc with mode := .wfe (waits 1) } }) .wfeWake = some (p, u) ∧ p) ∧
    (∃ p u, Claims.cycleRow (event fun t => { t with refused := [(.cc, 4, 64, 0)] }) .semaphoreCeilingTrap = some (p, u) ∧ p) ∧
    (∃ p u, Claims.cycleRow (event fun t => { t with refused := [(.cc, 4, 64, 0), (.ve, 5, 64, 0)] }) .semaphoreCeilingTrap = some (p, u) ∧ p) := by
  refine ⟨⟨_, _, rfl, ?_⟩, ⟨_, _, rfl, ?_⟩, ⟨_, _, rfl, ?_⟩, ⟨_, _, rfl, ?_⟩, ⟨_, _, rfl, ?_⟩, ⟨_, _, rfl, ?_⟩, ⟨_, _, rfl, ?_⟩, ⟨_, _, rfl, ?_⟩, ⟨_, _, rfl, ?_⟩⟩
  · decide +kernel
  · decide +kernel
  · refine ⟨by decide +kernel, by decide +kernel, by decide +kernel, by decide +kernel, fun w hw => ?_⟩
    cases hw
  · refine ⟨⟨by decide +kernel, by decide +kernel, by decide +kernel, by decide +kernel, fun w hw => ?_⟩, by unfold Claims.Handled; decide +kernel, by decide +kernel, Or.inl (by decide +kernel), by decide +kernel, by decide +kernel⟩
    cases hw
  · exact ⟨by decide +kernel, by decide +kernel, True.intro, by decide +kernel⟩
  · decide +kernel
  · decide +kernel
  · unfold Claims.Handled; decide +kernel
  · unfold Claims.Handled; decide +kernel

/-- A request that has landed, with a value for x0. -/
def landed : Req :=
  { id := 0, die := 0, tile := 0, agent := .cc, level := .task, ctxid := 0, asid := 0, issued := 0, due := 0, offs := 1, kind := .tcrd 0, stage := .landed
    resp := { x := [(0, 7)] } }

/-- A cycle that ends with these results in flight. -/
def ends (rs : List Result) : State := event fun t => { t with phase := .finish, flight := rs }

theorem ends_cycle (rs : List Result) : Claims.CycleOf (ends rs) rs :=
  ⟨rfl, rfl, ⟨rfl, fun k => by match k with | 0 => rfl | 1 => rfl | 2 => rfl | 3 => rfl⟩, rfl, rfl,
    fun q hq => by rw [show (ends rs).reqs = [] from rfl] at hq; cases hq⟩

/-- A result of an agent in its last cycle. -/
def lastOf (ag : Agent) (es : List Effect) (p : Option Post := none) : Result := { agent := ag, left := 1, issued := 0, effects := es, post := p }

/-- Effects of every kind, at the ends of what they may name. -/
def effects : List Effect :=
  [.x 0 7, .x 31 7, .seed 5, .b 15 16, .g 15 64, .n 3 9, .sreg 1 3, .sp 0x1FFFFF [0xAB], .spBits 0x1FFE00 5 (BitVec.allOnes 4096), .slot 0x1FFFFF [0xCD]
    , .tagIns 1023 0xFFFF 1 2, .tagInv 1023, .tagInvAll, .tagInvTag 0xFFFF, .vreg 31 7 (BitVec.allOnes 4096), .qreg 7 3 (BitVec.allOnes 1024), .stream 7 3 9
    , .nest 5 1, .nestGo, .accRow 3 127 9 (BitVec.allOnes 4096), .accClear 3, .accMul 0 [1], .planeRow 1 127 4, .planeScales 1 4, .planeDesc 1 3
    , .planeClear 1, .actFlip, .kset 15 1 2, .enq .se 0x1FFFC0 1, .stage .me]

/-- Samples of every kind but those of steps. -/
def samples : List Sample :=
  [.ld 31 0x1FFFFE .i16, .ldl 31 0 .i64, .vld (.v 31) 0 0x1FFE00 allBits allBits, .vld (.s 7) 3 0 0 allBits, .tlk 5 7, .atom [5] 0x1FFFF8 (.rmw .add 64 1)
    , .atom [5] 0 (.cas 64 1 2), .planeRow 1 127 0 128, .planeScales 1 0]

/-- Results of every kind land, two of one register in either order, samples are taken, posts are made and refused, a stall on a
semaphore holds a result, and a request's result arrives in its due cycle. -/
theorem witness_ResultsAreWritten :
    (∀ e ∈ effects, ∃ r u, r = lastOf .cc [e] ∧ Claims.CycleOf (ends [r]) [r] ∧ r.left = 1 ∧ r.effects = [e] ∧ r.sample = none ∧ r.post = none ∧
      Claims.landed (ends [r]).here e = some u) ∧
    (∀ p ∈ [(3, 4), (4, 3)], ∃ a b : Result, a = { lastOf .cc [.x 31 7] with issued := p.1 } ∧ b = { lastOf .cc [.x 31 8] with issued := p.2 } ∧
      Claims.CycleOf (ends [a, b]) [a, b] ∧ a.issued ≠ b.issued) ∧
    (∀ smp ∈ samples, ∃ r : Result, r = { lastOf .ve [] with left := 2, sample := some (0, smp) } ∧ Claims.CycleOf (ends [r]) [r] ∧ r.left = 0 + 2 ∧
      r.sample = some (0, smp)) ∧
    (∃ p q : Post, Claims.CycleOf (ends [lastOf .ve [] (some p)]) [lastOf .ve [] (some p)] ∧
      (nth (ends [lastOf .ve [] (some p)]).here.sems p.k).count.toNat + p.n.toNat ≤ (nth (ends [lastOf .ve [] (some p)]).here.sems p.k).ceil.toNat ∧
      ¬ ((nth (ends [lastOf .ve [] (some q)]).here.sems q.k).count.toNat + q.n.toNat ≤ (nth (ends [lastOf .ve [] (some q)]).here.sems q.k).ceil.toNat)) ∧
    (∀ r ∈ [lastOf .cc [.x 31 7], lastOf .ve [.vreg 31 7 (BitVec.allOnes 4096)]],
      let s := event fun t => { t with phase := .finish, flight := [r], stalled := some (.sem 5), seqs := t.seqs.map fun q => { q with stalled := some (.sem 5) } }
      s.here.phase = .finish ∧ s.here.flight = [r] ∧ r.timed = false ∧ s.here.cc.mode = .ready ∧ s.here.remote = [] ∧ s.reqs = [] ∧
        (if r.agent = .cc then s.here.stalled else (nth s.here.seqs r.agent.seqIx).stalled) = some (.sem 5)) ∧
    (∃ r : Req, r.of 0 0 = true ∧ r.captured = none ∧ r.due = 0 ∧ r.stage = .landed ∧ r.resp = { x := [(0, 7)] } ∧ r.post = none ∧ r.kind ≠ .ssync ∧
      r.kind ≠ .sstatStg ∧ busy.here.now = 0 ∧ busy.die = 0 ∧ busy.tile = 0 ∧ busy.here.phase = .start) := by
  refine ⟨fun e he => ?_, fun p hp => ?_, fun smp _ => ⟨_, rfl, ends_cycle _, rfl, rfl⟩, ⟨{ k := 5 }, { k := 4 }, ends_cycle _, by decide +kernel, by decide +kernel⟩,
    fun r hr => ?_, ⟨landed, by decide +kernel, rfl, rfl, rfl, rfl, rfl, by decide, by decide, rfl, rfl, rfl, rfl⟩⟩
  · have h : (effects.all fun e => (Claims.landed (ends [lastOf .cc [e]]).here e).isSome) = true := by decide +kernel
    obtain ⟨u, hu⟩ := Option.isSome_iff_exists.1 (List.all_eq_true.1 h e he)
    exact ⟨_, u, rfl, ends_cycle _, rfl, rfl, rfl, rfl, hu⟩
  · simp only [List.mem_cons, List.not_mem_nil, or_false] at hp
    rcases hp with rfl | rfl <;> exact ⟨_, _, rfl, rfl, ends_cycle _, by decide⟩
  · simp only [List.mem_cons, List.not_mem_nil, or_false] at hr
    rcases hr with rfl | rfl <;> exact ⟨rfl, rfl, rfl, rfl, rfl, rfl, by decide +kernel⟩

/-- A cycle that ends with a load landed, and due cycles without a fault and with one. -/
theorem witness_CyclesEnd :
    (let s : State := { (event fun t => { t with phase := .finish }) with reqs := [{ landed with due := 1, kind := .lyc 0 }] };
      s.here.phase = .finish ∧ ∀ r ∈ s.reqs, r.of s.die s.tile = true → r.captured = none → r.due = s.here.now + 1 → r.kind.lands = true → r.stage = .landed) ∧
    (∀ r ∈ [landed, { landed with resp := { fault := some ⟨0x21, 0⟩ } }], r.of busy.die busy.tile = true ∧ r.captured = none ∧ r.due = busy.here.now ∧
      r.stage = .landed) ∧ landed.resp.fault = none ∧ busy.here.phase = .start ∧ busy.here.stop = none := by decide +kernel

/-- A trap that stops the core, from outside and precise. -/
def stray (kind : TrapKind) : Trap := { code := 0x40, value := 5, kind, agent := none }

theorem witness_HandlerEntered :
    let s := event fun t => { t with phase := .finish, cc := { t.cc with mode := .entering 1 (stray .precise) 0x48, trap := { t.cc.trap with tstat := 0x18 } } }
    s.here.phase = .finish ∧ s.here.flight = [] ∧ s.here.remote = [] ∧ s.reqs = [] ∧ s.here.cc.mode = .entering 1 (stray .precise) 0x48 ∧
      (stray .precise).level = none ∧ s.here.cc.trap.tstat.toNat / 16 % 4 = 1 ∧ (stray .precise).kind = .precise := by decide +kernel

/-- At both depths, with results of the core and of an engine in flight, and a latch that waits for its first operation. -/
theorem witness_CutsTaken :
    ∀ tstat ∈ [0, 0x10], let s := event fun t => { t with
        stop := some (t.now, .handler (stray .asynchronous)), cc := { t.cc with trap := { t.cc.trap with tstat } }
        flight := [{ lastOf .cc [.x 3 4] with left := 3 }, { lastOf .ve [.vreg 1 2 allBits] with left := 4 }]
        inject := [{ agent := .cc, r := 1, issued := 0, effects := [.x 5 6] }] };
      s.here.stop = some (0, .handler (stray .asynchronous)) ∧ 0 ≤ s.here.now ∧ s.here.phase = .start ∧ (nth s.here.seqs 1).gap = 0 ∧ s.awaits = false ∧
        Claims.Handled s ∧ s.here.cc.mode = .ready ∧ (stray .asynchronous).kind ≠ .taskEnding ∧ (stray .asynchronous).level = none ∧
        s.here.cc.trap.tstat.toNat / 16 % 4 < 2 := by
  intro w hw
  simp only [List.mem_cons, List.not_mem_nil, or_false] at hw
  rcases hw with rfl | rfl <;> (unfold Claims.Handled; decide +kernel)

/-- Cuts at a cycle's start and among its turns: of a kill and of a task's end. -/
theorem witness_StopsComplete :
    (let s : State := event fun t => { t with stop := some (t.now, .discard none) };
      s.here.stop = some (0, .discard none) ∧ (nth s.here.seqs 1).gap = 0 ∧ s.here.phase = .start ∧ (s.cut 0 0 (.discard none)).awaits = false) ∧
    (let s : State := event fun t => { t with phase := .ve, stop := some (t.now, .ending 0 5 6) };
      s.here.stop = some (0, .ending 0 5 6) ∧ (nth s.here.seqs 1).gap = 0 ∧ s.here.phase = .ve ∧ (s.cut 0 0 (.ending 0 5 6)).awaits = false) := by decide +kernel

/-- A latch of a vector operation, and TSTAT. -/
def latched (tstat : Word) : State :=
  event fun t => { t with inject := [{ agent := .ve, r := 2, issued := 0, effects := [] }], cc := { t.cc with trap := { t.cc.trap with tstat } } }

/-- With HALT set; with HALT clear, for a latch, for what the cut left, and for a captured request. -/
theorem witness_LatchesReenter :
    (∀ s ∈ [latched 8, latched 0, { latched 0 with reqs := [{ landed with captured := some 0 }] }],
      s.here.phase = .start ∧ s.here.cc.mode = .ready ∧ s.here.stop = none ∧ s.here.mode = .running ∧ s.here.inject ≠ []) ∧
    (latched 8).here.cc.trap.tstat.toNat / 8 % 2 = 1 ∧ (latched 0).here.cc.trap.tstat.toNat / 8 % 2 = 0 ∧
    (∃ r ∈ ({ latched 0 with reqs := [{ landed with captured := some 0 }] } : State).reqs, (latched 0).isCaptured 0 0 r = true) := by decide +kernel

/-! ### Witnesses: links and die control registers -/

/-- The package with port 1 of die 0 changed; its other end is port 1 of die 1, or whichever the mesh says. -/
def linked (f : Port → Port) : State := live.modDie 0 fun x => { x with ports := upd x.ports 1 (f (nth x.ports 1)) }

/-- Every name of a command with its code, and the least and the greatest code of none. -/
theorem witness_LinkCommandsComplete :
    (∀ p ∈ [(Instr.linkNone 0 1 0, 0), (.linkPause 0 1 1, 1), (.linkResume 0 1 2, 2), (.linkRemap 0 1 3, 3), (.linkRetrain 0 1 4, 4), (.linkDegrade 0 1 5, 5),
        (.linkRestore 0 1 6, 6), (.lctlUnassignedCommand 0 1 7, 7), (.lctlUnassignedCommand 0 7 15, 15)],
      ∃ d q w named, Claims.linkCommand p.1 = some (d, q, w, named) ∧ named ∧ q ≠ 0 ∧ w.toNat % 16 = p.2) ∧
    -- accepted on a paused link, not accepted on one that is not, or is busy
    Claims.CommandAccepted 0 1 ((linked fun x => { x with paused := true }).portAt 0 1) 3 ∧ ¬ Claims.CommandAccepted 0 1 (live.portAt 0 1) 2 ∧
    ¬ Claims.CommandAccepted 0 1 ((linked fun x => { x with busy := true }).portAt 0 1) 1 ∧
    -- a remap of the I/O port of die 0
    Claims.CommandAccepted 0 7 { nth (live.dieAt 0).ports 7 with paused := true } 3 ∧
    -- commands that end: with one redundant lane of two used, and with both
    ((linked fun x => { x with command := some 3, lmap := 2 ^ 32 }).portAt 0 1).command = some 3 ∧ (lmapModule (2 ^ 32) 0).low = 1 ∧ (lmapModule (2 ^ 33) 0).low = 2 ∧
    (lmapModule (2 ^ 33) 0).width = 0 ∧ (lmapModule 2 0).width = 2 ∧
    -- a training of the I/O port of a live die that leaves no lane, and one that leaves a half
    live.dstate 0 = 2 ∧ nth ({ widths := upd (Vector.replicate 4 0) 0 3 } : Training).widths 0 = 3 ∧
    nth ({ widths := upd (Vector.replicate 4 0) 0 1 } : Training).widths 0 = 1 := by
  refine ⟨?_, ?_, ?_, ?_, ?_, by decide +kernel, by decide +kernel, by decide +kernel, by decide +kernel, by decide +kernel, by decide +kernel, by decide +kernel, by decide +kernel⟩
  · intro p hp
    simp only [List.mem_cons, List.not_mem_nil, or_false] at hp
    rcases hp with rfl | rfl | rfl | rfl | rfl | rfl | rfl | rfl | rfl <;>
      exact ⟨_, _, _, _, rfl, by decide +kernel, by decide +kernel, by decide +kernel⟩
  all_goals unfold Claims.CommandAccepted; decide +kernel

theorem witness_LinksCarryPackets :
    -- a packet that waits at the other end of port 1 of die 1: the first of an entry, its third and last, and one that is sent again
    (∀ h ∈ [({ req := 9, gen := 0, packets := 3 } : Egress), { req := 9, gen := 0, packets := 3, sent := some 4094, got := 2 },
        { req := 9, gen := 0, sent := some 4095, received := false }], ∃ e k n g, live.partner 1 1 = some (e, k) ∧ e = 0 ∧
      (let y := (live.modDie e fun x => { x with ports := upd x.ports k { egress := [h] } }).portAt e k
       y.nextEntry = some (n, g) ∧ g.lost = false ∧ y.paused = false ∧ y.down = false ∧ (y.egress.map fun h => h.got + if h.lost then 1 else 0).sum < 2048)) ∧
    -- one that leaves the package by the I/O port, which has no partner
    (live.partner 0 7 = none ∧ ((live.modDie 0 fun x => { x with ports := upd x.ports 7 { egress := [{ req := 9, gen := 0 }] } }).portAt 0 7).nextEntry =
      some (0, { req := 9, gen := 0 })) ∧
    -- an acknowledgement of the latest packet, whose number has just wrapped
    ((linked fun x => { x with egress := [{ req := 9, gen := 0, sent := some 4095, received := true }] }).portAt 0 1).egress =
      [{ req := 9, gen := 0, sent := some 4095, received := true }] ∧ ((0 : BitVec 12) - 4095).toNat < 2048 ∧
    -- the 256th replay in a row, which reaches the threshold
    (∃ g ∈ ((linked fun x => { x with egress := [{ req := 9, gen := 0, lost := true }], run := 255, replays := 6, threshold := 7, armed := true }).portAt 0 1).egress,
      g.lost = true) ∧
    -- a link that trains, with the expected neighbour and without
    (live.portAt 0 1).busy = false ∧ ({ partner := live.expectedId 0 1 } : Training).success = true ∧ live.expectedId 0 1 ≠ 0xFFF := by
  refine ⟨fun h hh => ?_, by decide +kernel, by decide +kernel, by decide +kernel, ⟨_, List.mem_singleton.2 rfl, rfl⟩, by decide +kernel, by decide +kernel, by decide +kernel⟩
  simp only [List.mem_cons, List.not_mem_nil, or_false] at hh
  rcases hh with rfl | rfl | rfl <;> exact ⟨0, 2, _, _, by decide +kernel, rfl, rfl, by decide +kernel⟩

/-- Page tables at 0x100000 of every die: addresses below 2^30 are DRAM of die 0 from 0 on, readable and writable; the next 2^30 are the same
bytes as code; then DRAM of the die with ID 0x100, windows of die 0, and host memory of die 0. -/
def tables : Mem :=
  [(0x100000, 0x01), (0x100002, 0x11), (0x110000, 0x0F), (0x110008, 0x17), (0x110010, 0x0F), (0x110016, 0x40), (0x110018, 0x0F), (0x11001C, 0x80),
    (0x110020, 0x0F), (0x110024, 0xC0)]

/-- A package of which every die holds context 1 in entry 0, resident, with those tables; tile 0 of die 0 runs a task of the context. -/
def world : State :=
  { live with
    dies := Vector.ofFn fun d => { Die.reset d with
      atmode := false, dram := tables, plist := BitVec.ofNat 4096 (2 ^ 0 + 2 ^ 0x100)
      ctxs := upd (Vector.replicate 16 {}) 0 { entry := { ctxid := 1, asid := 1, tickets := 1, state := 1, ptroot := 0x100001, sspart := 2 } }
      tiles := Vector.ofFn fun k =>
        if d = 0 ∧ k = 0 then { Tile.reset k with
          mode := .running, task := some { spent with ctxid := 1 }, cc := { (Tile.reset k).cc with ctxid := 1, asid := 1, level := .task }
          setA := { owner := 1 } }
        else Tile.reset k } }

/-- The same with die 0 changed. -/
def worldDie (f : Die → Die) : State := world.modDie 0 f
/-- The same with the entry of the context on die 0 changed. -/
def worldCtx (f : CtxDie → CtxDie) : State := world.modCtx 0 0 f

/-- The cut of a pre-emption of the task. -/
theorem witness_CutsComplete :
    let s := world.modHere fun t => { t with stop := some (t.now, .preempt none false) }
    s.here.stop = some (0, .preempt none false) ∧ 0 ≤ s.here.now ∧ (nth s.here.seqs 1).gap = 0 ∧ s.here.phase = .start ∧ s.here.task.isSome = true ∧
      (s.hereDie.findCtx s.here.cc.ctxid).isSome = true ∧ (s.cut 0 0 (.preempt none false)).awaits = false ∧
      (s.cut 0 0 (.preempt none true)).awaits = false := by decide +kernel

/-- An eret to what a stop interrupted, whose frame slot at 0x100000 lies in a poisoned sector, takes its trap. -/
theorem witness_PoisonedReturnTraps :
    let s := (world.modDie 0 fun x => { x with
        poison := [0x10000000 / 32], ctxs := upd x.ctxs 0 { nth x.ctxs 0 with entry := { (nth x.ctxs 0).entry with fbase := 1 } } }).modHere fun t =>
      { t with cc := { t.cc with level := .system, trap := { t.cc.trap with tstat := 0x18, tvec := 0x400 } } }
    (∃ o c v, Claims.trapRow s (.eret {}) = some (o, c, v) ∧ c = 0x0027) ∧ s.here.cc.trap.tstat.toNat / 16 % 4 ≠ 2 ∧ s.here.stop = none := by
  refine ⟨⟨_, _, _, rfl, ?_⟩, ?_, ?_⟩ <;> decide +kernel

/-- Each row with an accepted and a refused case where its rule has both. -/
theorem witness_DieRegistersWritten :
    (∀ i ∈ [Instr.irqcmd 0 0x10000, .irqcmd 0 63, .atmodeWrite 0 0, .sliceWriteback 0 5, .accessTableWrite 0 6 15 true 7, .accessTableWrite 0 0 0 false 1,
        .routeTableWrite 0 767 1, .routeTableWrite 0 768 1, .ditWrite 0 3 1023 1, .partitionWrite 0 64 1, .contextEntryWrite 0 0 1 0, .contextEntryWrite 0 0 2 3,
        .contextEntryWrite 0 15 7 1, .gqstatWrite 0 0 14, .submitGraph 0 0 1, .tccmdOtherOp 0 0, .dieRegisterWrite 0 0x3018 1,
        .dieRegisterWrite 0 0 1],
      ∃ d p x, Claims.registerRow world i = some (d, p, x) ∧ p ∧ world.lost d = false ∧ world.awaits = false) ∧
    (∃ d p x, Claims.registerRow (worldDie fun x => { x with wbbusy := true }) (.writebackComplete 0) = some (d, p, x) ∧ p) ∧
    -- a doorbell's write, the port of its die open; and a lost die, which discards what it would take
    ((nth (world.dieAt 0).ports 7).down = false ∧ (nth (world.dieAt 0).ports 7).paused = false) ∧
    (∀ i ∈ [Instr.irqcmd 0 0x10000, .precmdStop 0 1, .precmdResume 0 0x10001, .taskResume 0 1, .taskRerun 0 2, .tccmdOtherOp 0 0, .thresholdWrite 0 1 5],
      Claims.discarded i = some 0) ∧ ({ world with io := { world.io with dstate := upd world.io.dstate 0 3 } } : State).lost 0 = true := by
  refine ⟨?_, ?_, by decide +kernel, by decide +kernel, by decide +kernel⟩
  · intro i hi
    simp only [List.mem_cons, List.not_mem_nil, or_false] at hi
    rcases hi with rfl | rfl | rfl | rfl | rfl | rfl | rfl | rfl | rfl | rfl | rfl | rfl | rfl | rfl | rfl | rfl | rfl | rfl <;>
      exact ⟨_, _, _, rfl, by decide +kernel, by decide +kernel, by decide +kernel⟩
  · exact ⟨_, _, _, rfl, by decide +kernel⟩

/-- Double words of entry 0 and 1 that meet each outcome in turn: TICKETS of zero, a change that no rule allows, a CTXID that stands twice, a
foreign PARTID, a change of a resident context, a new context, the same context again. -/
theorem witness_ContextTablesWritten :
    let e (w : Word) (i : Fin 16) := Claims.entryOf (nth (world.dieAt 0).ctxs i).entry w
    (e 0x0001000000010001 0).tickets = 0 ∧
    ((e 0x0003000100010001 0).tickets = 1 ∧ (e 0x0003000100010001 0).state = 3 ∧ (nth (world.dieAt 0).ctxs 0).entry.state = 1) ∧
    ((e 0x0001000100010001 1).state = 1 ∧ (nth (world.dieAt 0).ctxs 1).entry.state = 0 ∧ (e 0x0001000100010001 1).ctxid = (nth (world.dieAt 0).ctxs 0).entry.ctxid) ∧
    ((e 0x0101000100020002 1).partid = 1 ∧ (world.dieAt 0).partid = 0) ∧
    ((e 0x0001000100020001 0).asid = 2 ∧ (e 0x0001000100020001 0).state = 1 ∧ (nth (world.dieAt 0).ctxs 0).entry.asid = 1) ∧
    ((e 0x0001000100020002 1).state = 1 ∧ (e 0x0001000100020002 1).ctxid = 2 ∧ (e 0x0001000100020002 1).partid = (world.dieAt 0).partid) ∧
    Claims.entryOf (nth (world.dieAt 0).ctxs 0).entry 0x0001000100010001 = (nth (world.dieAt 0).ctxs 0).entry ∧
    -- a list that is occupied, and one that is not
    Claims.Occupied (world.dieAt 0) ∧ ¬ Claims.Occupied (live.dieAt 0) ∧
    -- a task lives on for which the lottery keeps its ticket count; and a list of which a lost die, the barrier home, is cleared
    (worldCtx fun c => { c with live := some { gbase := 0, records := [{ state := .running }] } }).taskLives 1 = true ∧ world.taskLives 1 = false ∧
    (let s : State := { world with io := { world.io with dstate := upd world.io.dstate 0 3 } };
      s.findDie 0 = some 0 ∧ s.dstate 0 = 3 ∧ (s.dieAt 1).barrierId = some 0 ∧ s.lost 1 = false ∧ s.awaits = false) := by
  unfold Claims.Occupied; decide +kernel

/-- Commands on the resident context 1, on a context that is not there, while another command stands, and a resume before any stop; the tile runs a
task of the context. -/
theorem witness_PreemptionCommanded :
    (world.dieAt 0).findCtx 1 = some 0 ∧ (nth (world.dieAt 0).ctxs 0).entry.state = 1 ∧ (world.dieAt 0).findCtx 2 = none ∧ (world.dieAt 0).pbusy = false ∧
    ((0x10001 : Word).getLsbD 16 = true ∧ (nth (world.dieAt 0).ctxs 0).precmd = false) ∧
    (nth ((worldCtx fun c => { c with precmd := true }).dieAt 0).ctxs 0).precmd = true ∧
    ((world.tileAt 0 0).task.isSome = true ∧ (world.tileAt 0 0).cc.ctxid = 1 ∧ (world.tileAt 0 0).mode = .running) ∧
    (∀ k, (live.tileAt 0 k).mode ≠ .running ∧ (live.tileAt 0 k).mode ≠ .ending) ∧
    (world.lost 0 = false ∧ world.awaits = false ∧ ((worldCtx fun c => { c with precmd := true }).resumeTiles 0 0).awaits = false) := by
  refine ⟨by decide +kernel, by decide +kernel, by decide +kernel, by decide +kernel, by decide +kernel, by decide +kernel, by decide +kernel, ?_, ?_⟩ <;>
  decide +kernel

/-- Whether an answer is no failure. -/
def good {α β : Type} (x : Except α β) : Bool :=
  match x with
  | .ok _ => true
  | .error _ => false

theorem ok_of {α β : Type} {x : Except α β} (h : good x = true) : ∃ b, x = .ok b := by
  cases x with
  | ok b => exact ⟨b, rfl⟩
  | error c => exact absurd h (by simp [good])

theorem error_of {α β : Type} {x : Except α β} (h : good x = false) : ∃ c, x = .error c := by
  cases x with
  | ok b => exact absurd h (by simp [good])
  | error c => exact ⟨c, rfl⟩

/-- A live graph of one record in the state given, at address 0x1000, whose task ran on tile 0 of die 0. -/
def graph (r : Record) : State :=
  (worldCtx fun c => { c with live := some { gbase := 0x1000, records := [r] } }).modDie 0 fun x => { x with tcrec := 0x1000 }
/-- Its record. -/
def ran (state : TaskState) : Record := { state, task := some { spent with ctxid := 1, record := 0x1000 }, die := 0, tile := 0 }

/-- `Named` as a test. -/
def names (s : State) (w : Word) (r : Record) : Bool :=
  let va := (s.dieAt 0).tcrec &&& 0x00FFFFFFFFFFFFC0
  !(s.dieAt 0).tbusy && decide ((s.dieAt 0).findCtx (w.extractLsb' 16 16) = some 0) && decide ((s.ctxAt 0 0).entry.state = 1)
    && match s.deviceRead 0 0 .read va 64 with
      | (s1, .ok _) => !s1.awaits && decide (s1.recordAt (w.extractLsb' 16 16) va = some (0, 0, 0)) && decide ((s1.ctxAt 0 0).record 0 = some r)
      | _ => false

theorem named_of {s : State} {w : Word} {r : Record} (h : names s w r = true) : ∃ s1, Claims.Named s s1 0 w 0 0 0 r := by
  simp only [names, Bool.and_eq_true, decide_eq_true_eq, Bool.not_eq_true'] at h
  obtain ⟨⟨⟨h1, h2⟩, h3⟩, h4⟩ := h
  split at h4
  · rename_i s1 bs hx
    simp only [Bool.and_eq_true, decide_eq_true_eq, Bool.not_eq_true'] at h4
    obtain ⟨⟨h5, h6⟩, h7⟩ := h4
    exact ⟨s1, h1, ⟨0, h2, h3, bs, hx⟩, h5, h6, h7⟩
  · exact absurd h4 (by simp)

theorem pair_ok {σ α ε : Type} {x : σ × Except ε α} (h : good x.2 = true) : ∃ s a, x = (s, .ok a) := by
  obtain ⟨s, y⟩ := x
  obtain ⟨a, rfl⟩ := ok_of h
  exact ⟨s, a, rfl⟩

theorem witness_TaskCommandsComplete :
    (∀ st ∈ [TaskState.suspended, .faulted, .done, .running], ∃ s1, Claims.Named (graph (ran st)) s1 0 0x10001 0 0 0 (ran st)) ∧
    (∃ s1, Claims.Named (graph { ran .suspended with ranDie := 0x100 }) s1 0 0x10002 0 0 0 { ran .suspended with ranDie := 0x100 }) ∧
    ((0x500010001 : Word).extractLsb' 32 32 = 5 ∧ (0x10001 : Word).extractLsb' 32 32 = 0) ∧
    ((graph (ran .suspended)).tileAt 0 0).preload.toList ++ ((graph (ran .suspended)).tileAt 0 0).placed = [] ∧
    -- a record that no live graph holds, and an address that may not be read
    (world.recordAt 1 0x1000 = none ∧ ∃ s1 bs, world.deviceRead 0 0 .read 0x1000 64 = (s1, .ok bs)) ∧
    (good (world.deviceRead 0 0 .read 0xFFFFFFFF000000 64).2 = false ∧ (world.deviceRead 0 0 .read 0xFFFFFFFF000000 64).1.awaits = false) ∧
    world.lost 0 = false ∧ world.awaits = false ∧ ((world.tileAt 0 0).mode ≠ .halted ∧ (world.tileAt 0 0).task.isSome = true) := by
  refine ⟨fun st hst => named_of ?_, named_of (by decide +kernel), by decide +kernel, by decide +kernel,
    ⟨by decide +kernel, pair_ok (by decide +kernel)⟩, by decide +kernel, by decide +kernel, by decide +kernel, by decide +kernel⟩
  simp only [List.mem_cons, List.not_mem_nil, or_false] at hst
  rcases hst with rfl | rfl | rfl | rfl <;> decide +kernel

/-! ### Witnesses: boot, power, die states, host -/

/-- The package with another boot status and leaf index. -/
def booting (b : BootStatus) (leaf : Nat) : State := { State.reset with io := { State.reset.io with boot := b, leaf } }
/-- An image one byte too large. -/
def large : FirmwareImage := { bytes := List.replicate (32 * 2 ^ 20 + 1) 0 }

/-- The clause of a trusted image rests on what Config leaves open: it is met by every image that the signature scheme accepts. -/
theorem witness_BootEventsComplete :
    State.reset.io.boot = .off ∧ Claims.AwaitsImage (booting .waiting 0) ∧ Claims.AwaitsImage (booting .oldVersion 0) ∧ ¬ Claims.Trusted large ∧
    (∀ k s, Config.shake256 k Config.keyDigest.length = Config.keyDigest → Config.xmssVerify k [] s = true →
      Claims.Trusted { bytes := [], version := Config.minVersion, publicKey := k, signature := s }) ∧
    ((booting .running (2 ^ 20 - 1)).io.boot = .running ∧ (booting .running (2 ^ 20 - 1)).io.leaf < 2 ^ 20) ∧
    2 ^ 20 ≤ (booting .running (2 ^ 20)).io.leaf ∧ (booting .keyExhausted (2 ^ 20)).io.boot = .keyExhausted := by
  refine ⟨rfl, Or.inl rfl, Or.inr (Or.inr (Or.inr (Or.inr rfl))), fun h => ?_, fun k s h1 h2 => ⟨by simp, h1, h2, by simp⟩, ⟨rfl, ?_⟩, ?_, rfl⟩
  · have h1 := h.1
    rw [large, List.length_replicate] at h1
    omega
  · show 2 ^ 20 - 1 < 2 ^ 20; omega
  · show 2 ^ 20 ≤ 2 ^ 20; omega

/-- Live dies with activity and without, and one that is not live; measurements at the limits of the rule: with 111 tokens, 1776 is as much as is
allotted. -/
theorem witness_PowerAllotted :
    live.live 0 = true ∧ State.reset.live 0 = false ∧ (nth (live.dieAt 0).tiles 0).activity = (nth (live.dieAt 0).tiles 0).counted ∧
    nth ((on fun t => { t with activity := upd t.activity 0 5 }).tileAt 0 0).activity 0 - nth ((on fun t => { t with activity := upd t.activity 0 5 }).tileAt 0 0).counted 0 = 5 ∧
    16 * 111 = 1776 ∧ (live.dieAt 0).step = 15 ∧
    -- a live die whose I/O port is held down, which is not reached
    ((live.modDie 0 fun x => { x with ports := upd x.ports 7 { nth x.ports 7 with down := true } }).portAt 0 7).down = true := by decide +kernel

theorem witness_DieStatesChange : nth live.io.dstate 0 ≠ 0 ∧ nth live.io.dstate 0 ≠ 3 ∧ (2 : BitVec 2) ≠ 3 := by decide +kernel

/-- Die 0 lost, and a dirty sector in one of its slices. -/
def lost : State := { world with io := { world.io with dstate := upd world.io.dstate 0 3 } }
/-- Dirty sectors in slices of die 0, whose old bytes stood in a poisoned sector and in one with a flaw; and a task command that is busy. -/
def dirtied : State := worldDie fun x => { x with slices := [⟨2, some 7, true, false⟩, ⟨3, some 8, false, true⟩], tbusy := true }

/-- A reset that is refused, one of a lost die, one of a die without a resident context; dirty sectors, and a port with a partner and without. -/
theorem witness_DieResetActsAlone :
    (nth world.io.dstate 0 ≠ 3 ∧ (nth (world.dieAt 0).ctxs 0).entry.state = 1) ∧ nth lost.io.dstate 0 = 3 ∧
    (∀ q, (nth (live.dieAt 0).ctxs q).entry.state = 0) ∧ (dirtied.dieAt 0).slices = [⟨2, some 7, true, false⟩, ⟨3, some 8, false, true⟩] ∧
    (dirtied.dieAt 0).tbusy = true ∧ dirtied.partner 0 7 = none ∧ (dirtied.partner 0 2).isSome = true := by decide +kernel

/-- An entry of the host filter that allows granule 0x10 alone, and a read and a write of its last bytes. -/
def filtered (entry : BitVec 128) : State := { world with io := { world.io with filter := upd world.io.filter 0 entry } }

theorem witness_HostAccessesComplete :
    Claims.HostAllowed (filtered (7 + 0x10 * 2 ^ 24 + 0x10 * 2 ^ 64)) { addr := 0x10FFFE, data := [1, 2] } 0 0x10FFFE 2 ∧
    Claims.HostAllowed (filtered (7 + 0x10 * 2 ^ 24 + 0x10 * 2 ^ 64)) { addr := 0x10FFFE, data := [1, 2], write := true } 0 0x10FFFE 2 ∧
    (∀ e ∈ world.io.filter.toList, e.getLsbD 0 = false ∨ e.getLsbD 1 = false) ∧
    -- requests through the register aperture: a write of DRAMCE, one of what holds nothing, a read; and one to a window of no held end
    (world.awaits = false ∧ ∀ a ∈ [({ addr := 0x110, data := [0, 0, 0, 0, 0, 0, 0, 0], write := true, register := true } : HostAccess),
        { addr := 0x110, data := [0], write := true, register := true }, { addr := 0xC000000, data := [0], register := true },
        { addr := 0x8000000000, data := [0] }],
      world.meetsHeldEnd a = false ∧ ∀ d, world.hostPort a = some d → (world.portAt d 7).down = false ∧ (world.portAt d 7).paused = false) ∧
    ((world.hostArrives { addr := 0x110, data := [0, 0, 0, 0, 0, 0, 0, 0], write := true, register := true }).hostRegister
      { addr := 0x110, data := [0, 0, 0, 0, 0, 0, 0, 0], write := true, register := true }).isSome = true ∧
    ((world.hostArrives { addr := 0x110, data := [0], write := true, register := true }).hostRegister
      { addr := 0x110, data := [0], write := true, register := true }) = none := by
  refine ⟨⟨rfl, by decide +kernel, by decide +kernel, by decide +kernel, by decide +kernel, by decide +kernel, by decide +kernel, ?_, by decide +kernel, by decide +kernel, by decide +kernel⟩,
    ⟨rfl, by decide +kernel, by decide +kernel, by decide +kernel, by decide +kernel, by decide +kernel, by decide +kernel, ?_, by decide +kernel, by decide +kernel, by decide +kernel⟩, fun e he => ?_,
    ⟨by decide +kernel, fun a ha => ?_⟩, by decide +kernel, by decide +kernel⟩
  case refine_4 =>
    simp only [List.mem_cons, List.not_mem_nil, or_false] at ha
    rcases ha with rfl | rfl | rfl | rfl <;> decide +kernel
  case refine_3 =>
    have h : world.io.filter = Vector.replicate 16 0 := rfl
    rw [h] at he
    simp at he
    exact Or.inl (by rw [he]; decide)
  all_goals exact ⟨7 + 0x10 * 2 ^ 24 + 0x10 * 2 ^ 64, List.mem_of_getElem (i := 0) (h := by simp) (by decide +kernel), by decide +kernel⟩

/-! ### Witnesses: requests on their way and at their home -/

/-- Request 5 of tile 0 of die 0, in a stage, for one piece. -/
def req (kind : ReqKind) (stage : Stage) (ps : List Piece) : Req :=
  { id := 5, die := 0, tile := 0, agent := .cc, level := .task, ctxid := 1, asid := 1, issued := 0, due := 9, offs := 9, kind, d := [3], stage, pieces := ps }
/-- A package with this one request. -/
def with_ (s : State) (r : Req) : State := { s with reqs := [r] }
/-- Piece at an address of the first page, and its place in DRAM of die 0. -/
def at_ (va n : Nat) : Piece := { va := BitVec.ofNat 64 va, n, write := true, read := true, place := some { die := 0, local_ := va, leaf := 0xF, size := 2 ^ 30 } }
/-- A piece in the last bytes of a window's active bank set, tile 0 of die 0. -/
def inWindow (n : Nat) : Piece :=
  { va := 0xC0200000 - BitVec.ofNat 64 n, n, write := true, read := true
    place := some { die := 0, local_ := 0x8000200000 - n, leaf := 0x80000000F, size := 2 ^ 30 } }
/-- A piece in host memory. -/
def inHost : Piece := { va := 0x100000000, n := 4, write := true, read := true, place := some { die := 0, local_ := 0xC000000000, leaf := 0xF, size := 2 ^ 30 } }
/-- A load of a piece that has no place yet. -/
def fresh (va : Nat) : Req := req (.load .i32 (BitVec.ofNat 64 va)) .issued [{ va := BitVec.ofNat 64 va, n := 4, write := false, read := true }]
/-- What a translation of it answers. -/
def placed (va : Nat) : State × Except (Failed × Bool) (List Piece) := (with_ world (fresh va)).translateAll (fresh va) (fresh va).pieces true

theorem witness_RequestsTravel :
    (with_ world (fresh 0x2000)).findReq 5 = some (fresh 0x2000) ∧ (fresh 0x2000).stage = .issued ∧ (with_ world (fresh 0x2000)).needsWalk (fresh 0x2000) = true ∧
    (∃ s1 ps, placed 0x2000 = (s1, .ok ps)) ∧
    -- leaving for another die, once every piece is placed
    (let r := req (.load .i32 0x80000000) .issued [{ va := 0x80000000, n := 4, write := false, read := true, place := some { die := 0x100, local_ := 0, leaf := 0xF, size := 2 ^ 30 } }];
      (with_ world r).needsWalk r = false ∧ r.sampling = [] ∧ good ((with_ world r).translateAll r r.pieces true).2 = true ∧
        ((with_ world r).translateAll r r.pieces true).1.heldBack r = false ∧ (with_ world r).targetOf r = 1 ∧ r.die = 0) ∧
    -- in the fabric: arrived, to go on after 63 hops, and dropped after 64
    (let r := { req (.load .i32 0) (.fabric 0 63) [] with target := 1 };
      r.stage = .fabric 0 63 ∧ r.target ≠ 0 ∧ r.back = false ∧ world.live r.target = true ∧
        (∃ p, world.nextPort 0 (world.dieAt r.die).id (world.dieAt r.target).id = some p ∧ (world.partner 0 p).isSome = true ∧ (world.portAt 0 p).egress = [])) ∧
    (let r := req (.load .i32 0x2000) (.ingress 0) [at_ 0x2000 4];
      (with_ world r).findReq 5 = some r ∧ good ((with_ world r).targetAll r r.pieces true).2 = true) := by
  refine ⟨by decide +kernel, by decide +kernel, by decide +kernel, pair_ok (by decide +kernel), ?_, ?_, ?_⟩
  · decide +kernel
  · exact ⟨rfl, by decide +kernel, rfl, by decide +kernel, 1, by decide +kernel, by decide +kernel, by decide +kernel⟩
  · decide +kernel

/-- Arrived, dropped, and on its way past port 7; and a flow of which no packet is in flight. -/
theorem witness_PacketsTravel :
    (let r := { req (.load .i32 0) (.fabric 1 2) [] with target := 1 };
      (with_ world r).findReq 5 = some r ∧ r.stage = .fabric 1 2 ∧ (if r.back then r.die else r.target) = 1 ∧ r.away = none) ∧
    (let r := { req (.load .i32 0) (.fabric 0 64) [] with target := 1 };
      (with_ world r).findReq 5 = some r ∧ r.back = false ∧ r.away = none ∧ r.target ≠ 0) ∧
    (let r := req (.load .i32 0x100000000) .home [inHost];
      r.stage = .home ∧ r.crossed = false ∧ ((with_ world r).hostVa r).isSome = true ∧ ((with_ world r).portAt r.target 7).egress.length < 512) ∧
    (let r := { req (.load .i32 0) .issued [] with target := 1 };
      (with_ world r).flows = [] ∧ r.back = false ∧ r.away = none ∧ r.via = none ∧ (world.dieAt r.die).id ≠ (world.dieAt r.target).id) := by
  decide +kernel

/-- What the events of a request's way wait for: a walk, an empty hold, a port with room, checks at the target, port 7. -/
theorem witness_RequestsMoveOn :
    ((with_ world (fresh 0x2000)).findReq 5 = some (fresh 0x2000) ∧ (with_ world (fresh 0x2000)).needsWalk (fresh 0x2000) = true) ∧
    (let r := req (.load .i32 0x2000) .issued [at_ 0x2000 4];
      (with_ world r).findReq 5 = some r ∧ r.stage = .issued ∧ r.sampling = [] ∧ (with_ world r).needsWalk r = false ∧ (with_ world r).heldBack r = false) ∧
    (let r := { req (.load .i32 0) (.fabric 0 63) [] with target := 1 };
      (with_ world r).findReq 5 = some r ∧ ∃ p, ((with_ world r).flowOf r).portAt 0 = some p ∧ ((with_ world r).portAt 0 p).egress.length < 512) ∧
    (let r := req (.load .i32 0x2000) (.ingress 7) [at_ 0x2000 4]; (with_ world r).findReq 5 = some r ∧ r.stage = .ingress 7) := by
  refine ⟨by decide +kernel, by decide +kernel, ⟨by decide +kernel, 1, by decide +kernel, by decide +kernel⟩, by decide +kernel⟩

/-- `AtTarget` for the one request of a package. -/
theorem target_of {s : State} {r : Req} {p : Piece} {x : Place} {d : DieIx} (h1 : s.reqs.find? (fun q => decide (q.id = 5)) = some r) (h2 : r.stage = .home)
    (ha : r.away = none) (hl : s.pastPort r = true) (h3 : s.inTurn r = true) (h4 : r.pieces = [p]) (h5 : p.place = some x) (h6 : s.findDie x.die = some d)
    (h7 : s.awaits = false := by rfl) : Claims.AtTarget s 5 r p x d :=
  ⟨h1, h2, ha, hl, h3, h4, h5, h6, h7⟩

/-- A request at its home in DRAM, 0x2000. -/
def homed (kind : ReqKind) (n : Nat) : State := with_ world (req kind .home [at_ 0x2000 n])

/-- `AtUnit` for the one request of a package. -/
theorem unit_of {s : State} {r : Req} {u : Unit_} (h1 : s.reqs.find? (fun q => decide (q.id = 5)) = some r) (h2 : r.stage = .home) (h3 : r.unit = u)
    (h4 : s.inTurn r = true) (h5 : s.pastPort r = true) (h6 : ∀ p ∈ r.pieces, s.windowBusy p = false) : Claims.AtUnit s 5 r u := ⟨h1, h2, h3, h4, h5, h6⟩

/-- An item of 512 bytes of class H from the scratchpad to memory. -/
def hosted : CopyItem :=
  (copying .se 0).copyItem ⟨0xA0, 0⟩ { cops with a := .ag 1, d := .ag 0, sub := 9 } cslots
    (Claims.copyIteration (copying .se 0) (.cpy { cops with a := .ag 1, d := .ag 0, sub := 9 } cslots) { cops with a := .ag 1, d := .ag 0, sub := 9 } cslots ⟨0xA0, 0⟩) 0

/-- A request at each unit; one that begins, with a line to leave the slice and without; and one of host memory. -/
theorem witness_RequestsArePerformed :
    (let r := req (.load .i32 0x2000) .home [at_ 0x2000 4];
      Claims.AtUnit (with_ world r) 5 r .home ∧ (with_ world r).mayBegin r = true ∧ (∀ k ∈ ([] : List Nat), ∃ c ∈ (world.dieAt 0).slices, c.sector = k) ∧
        (((with_ world r).evictAll 0 []).awayElse r (((with_ world r).evictAll 0 []).performHome r)).awaits = false) ∧
    (let r := req (.load .i32 0) .home [inWindow 4]; Claims.AtUnit (with_ world r) 5 r .bank) ∧
    (let r := req (.atom 0 (.rmw .swap 32 7)) .home [inWindow 4]; Claims.AtUnit (with_ world r) 5 r .atomicUnit ∧ ∀ p ∈ r.pieces, (with_ world r).bankBusy p = false) ∧
    (let r := req (.atom 0 (.rmw .swap 32 7)) .home [at_ 0x2000 4]; Claims.AtUnit (with_ world r) 5 r .near) ∧
    (let r := { req (.load .i32 0x100000000) .home [inHost] with crossed := true };
      Claims.AtUnit (with_ world r) 5 r .home ∧ ((with_ world r).hostVa r).isSome = true) ∧
    -- an item of class H at host memory, whose page is resident or not
    (let r := { req (.copy hosted) .home [{ inHost with n := 512 }] with crossed := true };
      Claims.AtUnit (with_ world r) 5 r .home ∧ hosted.op.cls = 2 ∧ ((with_ world r).performHome r).awaits = false ∧
        (((with_ world r).performCopy r hosted (some (0x0022, 0x100000000))).close 0).awaits = false) := by
  refine ⟨⟨unit_of (by decide +kernel) rfl (by decide +kernel) (by decide +kernel) (by decide +kernel) (by decide +kernel), by decide +kernel, by simp, by decide +kernel⟩,
    unit_of (by decide +kernel) rfl (by decide +kernel) (by decide +kernel) (by decide +kernel) (by decide +kernel),
    ⟨unit_of (by decide +kernel) rfl (by decide +kernel) (by decide +kernel) (by decide +kernel) (by decide +kernel), by decide +kernel⟩,
    unit_of (by decide +kernel) rfl (by decide +kernel) (by decide +kernel) (by decide +kernel) (by decide +kernel),
    ⟨unit_of (by decide +kernel) rfl (by decide +kernel) (by decide +kernel) (by decide +kernel) (by decide +kernel), by decide +kernel⟩,
    unit_of (by decide +kernel) rfl (by decide +kernel) (by decide +kernel) (by decide +kernel) (by decide +kernel), by decide +kernel⟩

theorem dram_range (s : State) (d : DieIx) (l n : Nat) (h1 : 0 < n ∧ l + n ≤ 0x0BE0000000) (h2 : (s.dieAt d).poison = []) (h3 : (s.dieAt d).dram.wf = true) :
    Claims.DramRange s d l n := ⟨h1.1, h1.2, fun k hk => (by rw [h2] at hk; exact absurd hk (List.not_mem_nil)), h3⟩

/-- A load and a store at the first home, one each at a window, an atomic at both. -/
theorem witness_HomePerformsAccesses :
    (Claims.AtTarget (homed (.load .i32 0x2000) 4) 5 (req (.load .i32 0x2000) .home [at_ 0x2000 4]) (at_ 0x2000 4) ⟨0, 0x2000, 0xF, 2 ^ 30⟩ 0 ∧
      Claims.DramRange (homed (.load .i32 0x2000) 4) 0 0x2000 4 ∧ Claims.NoRecords (homed (.load .i32 0x2000) 4) 0 ⟨0, 0x2000, 0xF, 2 ^ 30⟩ ∧
      (⟨0, 0x2000, 0xF, 2 ^ 30⟩ : Place).isKey = false) ∧
    -- the last bytes of DRAM that an access may reach
    Claims.DramRange world 0 (0x0BE0000000 - 4) 4 ∧
    (let r := req (.load .i32 0) .home [inWindow 4];
      Claims.AtTarget (with_ world r) 5 r (inWindow 4) ⟨0, 0x80001FFFFC, 0x80000000F, 2 ^ 30⟩ 0 ∧
        Claims.WindowRange (with_ world r) r (inWindow 4) ⟨0, 0x80001FFFFC, 0x80000000F, 2 ^ 30⟩ 0 0 0x1FFFFC ∧ (with_ world r).bankBusy (inWindow 4) = false) ∧
    -- a comparison that fails has no bytes to write, and an exchange has as many as it read
    (∀ bs, ((AtomKind.cas 32 1 2).perform [0, 0, 0, 0]).2 = some bs → bs.length = 4) ∧ (∀ bs, ((AtomKind.rmw .swap 32 7).perform [0, 0, 0, 0]).2 = some bs → bs.length = 4) := by
  refine ⟨⟨target_of (by decide +kernel) rfl rfl (by decide +kernel) (by decide +kernel) rfl rfl (by decide +kernel), dram_range _ _ _ _ (by decide) (by decide +kernel) (by decide +kernel),
    Or.inl (by decide +kernel), by decide +kernel⟩, dram_range _ _ _ _ (by decide) (by decide +kernel) (by decide +kernel),
    ⟨target_of (by decide +kernel) rfl rfl (by decide +kernel) (by decide +kernel) rfl (by decide +kernel) (by decide +kernel), ⟨⟨0x1FFFFC, by decide +kernel, by decide +kernel⟩, by decide +kernel, by decide +kernel, Or.inr (by decide +kernel), by decide +kernel⟩, by decide +kernel⟩, ?_, ?_⟩
  · intro bs h
    have h1 : ((AtomKind.cas 32 1 2).perform [0, 0, 0, 0]).2 = none := by decide +kernel
    rw [h1] at h; cases h
  · intro bs h
    have h1 : ((AtomKind.rmw .swap 32 7).perform [0, 0, 0, 0]).2 = some [7, 0, 0, 0] := by decide +kernel
    rw [h1] at h; cases h; rfl

/-- A list queue at 0x2000 of HEAD, TAIL and CAP, and RES. -/
def queue (head tail cap res : Nat) : State :=
  (homed (.lenq 0x2000 7) 32).modDie 0 fun x => { x with dram := x.dram.write 0x2000 (bytesOf 8 head ++ bytesOf 8 tail ++ bytesOf 2 cap ++ bytesOf 14 res) }

/-- Malformed, full, with the last place that is free, and empty; the indices wrap. -/
theorem witness_ListQueuesPerformed :
    (Claims.AtTarget (queue 0 3 4 0) 5 (req (.lenq 0x2000 7) .home [at_ 0x2000 32]) (at_ 0x2000 32) ⟨0, 0x2000, 0xF, 2 ^ 30⟩ 0 ∧
      Claims.NoRecords (queue 0 3 4 0) 0 ⟨0, 0x2000, 0xF, 2 ^ 30⟩ ∧ Claims.DramRange (queue 0 3 4 0) 0 0x2000 32 ∧
      Claims.DramRange (queue 0 3 4 0) 0 (0x2000 + 32 + 8 * 3) 8) ∧
    (let m := ((queue (2 ^ 64 - 1) 3 4 0).dieAt 0).dram;
      m.value 0x2000 8 = 2 ^ 64 - 1 ∧ m.value 0x2008 8 = 3 ∧ (3 + 2 ^ 64 - (2 ^ 64 - 1)) % 2 ^ 64 = m.value 0x2010 2) ∧
    ((queue 0 0 0 0).dieAt 0).dram.value 0x2010 2 = 0 ∧ ((queue 0 0 4 1).dieAt 0).dram.value 0x2012 14 = 1 ∧
    ((queue 5 5 4 0).dieAt 0).dram.value 0x2000 8 = ((queue 5 5 4 0).dieAt 0).dram.value 0x2008 8 := by
  refine ⟨⟨target_of (by decide +kernel) rfl rfl (by decide +kernel) (by decide +kernel) rfl rfl (by decide +kernel), Or.inl (by decide +kernel),
    dram_range _ _ _ _ (by decide) (by decide +kernel) (by decide +kernel), dram_range _ _ _ _ (by decide) (by decide +kernel) (by decide +kernel)⟩, ?_, ?_, ?_, ?_⟩ <;>
  decide +kernel

/-- A barrier object at 0x2000 as its 16 bytes hold it. -/
def barred (v : Nat) : State := world.modDie 0 fun x => { x with dram := x.dram.write 0x2000 (bytesOf 16 v) }

/-- EXPECTED 5: with 4 arrived the next one flips, with OVF and past EXPECTED it does not; EXPECTED of 2^48 - 1 is the greatest. -/
theorem witness_BarrierObjectsPerformed :
    (let s := with_ (barred (5 + 4 * 2 ^ 64)) (req (.barinit 0x2000 0xFFFFFFFFFFFF) .home [at_ 0x2000 16]);
      Claims.AtTarget s 5 (req (.barinit 0x2000 0xFFFFFFFFFFFF) .home [at_ 0x2000 16]) (at_ 0x2000 16) ⟨0, 0x2000, 0xF, 2 ^ 30⟩ 0 ∧
        Claims.DramRange s 0 0x2000 16 ∧ Claims.NoRecords s 0 ⟨0, 0x2000, 0xF, 2 ^ 30⟩) ∧
    (0xFFFFFFFFFFFF : Word).toNat = 2 ^ 48 - 1 ∧
    barrierOf (((barred (5 + 4 * 2 ^ 64)).dieAt 0).dram.value 0x2000 16) = { arrived := 4, phase := false, ovf := false, expected := 5 } ∧
    barrierOf (((barred (5 + 2 ^ 62 + 4 * 2 ^ 64)).dieAt 0).dram.value 0x2000 16) = { arrived := 4, phase := false, ovf := true, expected := 5 } ∧
    barrierOf (((barred (2 ^ 63 + 4 * 2 ^ 64)).dieAt 0).dram.value 0x2000 16) = { arrived := 4, phase := true, ovf := false, expected := 0 } ∧
    -- an item of one byte that is still to be added
    (∃ i : CopyItem, i.bytes = 1 ∧ (req (.copy i) .adding [at_ 0x2000 16]).stage = .adding ∧
      (with_ (barred (5 + 4 * 2 ^ 64)) (req (.copy i) .adding [at_ 0x2000 16])).findReq 5 = some (req (.copy i) .adding [at_ 0x2000 16]) ∧
      Claims.Room (with_ (barred (5 + 4 * 2 ^ 64)) (req (.copy i) .adding [at_ 0x2000 16])) 0 ∧
      (with_ (barred (5 + 4 * 2 ^ 64)) (req (.copy i) .adding [at_ 0x2000 16])).linkedTo 0 0 = true) := by
  refine ⟨⟨target_of (by decide +kernel) rfl rfl (by decide +kernel) (by decide +kernel) rfl rfl (by decide +kernel),
    dram_range _ _ _ _ (by decide) (by decide +kernel) (by decide +kernel), Or.inl (by decide +kernel)⟩, by decide +kernel, by decide +kernel, by decide +kernel, by decide +kernel,
    { (copying .le 0).copyItem ⟨0xA0, 0⟩ cops cslots (Claims.iteration (copying .le 0) (.cpy cops cslots) cslots) 0 with bytes := 1 }, rfl, rfl, rfl, Or.inl rfl, by decide +kernel⟩

/-- A crust at 0x3000 of two channels: of values, and with a NaN as the minimum of channel 0; the last channel widens. -/
def crusted (mn : Nat) (chan : Nat) (value : BitVec 16) : State :=
  { (world.modDie 0 fun x => { x with dram := x.dram.write 0x3000 (bytesOf 2 mn) }) with widen := [{ req := none, die := 0, crust := 0x3000, dh := 2, chan, value }] }

/-- A widening whose home is linked and has room, and its bytes. -/
theorem witness_CrustWidens :
    ∃ w, (crusted 0 1 0x3F80).widen[0]? = some w ∧ w.chan < w.dh ∧ (crusted 0 1 0x3F80).linkedTo w.home ((crusted 0 1 0x3F80).dieAt w.die).id = true ∧
      Claims.Room (crusted 0 1 0x3F80) w.die ∧ Claims.DramRange (crusted 0 1 0x3F80) w.die (w.crust + 2 * w.chan) 2 ∧
      Claims.DramRange (crusted 0 1 0x3F80) w.die (w.crust + 2 * w.dh + 2 * w.chan) 2 :=
  ⟨_, rfl, by decide, by decide +kernel, Or.inl (by decide +kernel), dram_range _ _ _ _ (by decide) (by decide +kernel) (by decide +kernel),
    dram_range _ _ _ _ (by decide) (by decide +kernel) (by decide +kernel)⟩

/-- Requests that their homes answer: a change of a trigger counter, an arrival at the superstep barrier, a contribution, an addition to a barrier
object, a response, and a fence whose condition holds. -/
theorem witness_HomesAnswer :
    (let r := req (.tcrd 0) .home []; (with_ world r).findReq 5 = some r ∧ (with_ world r).linkedTo 0 0 = true) ∧
    (let r := req .ssync .home []; Claims.AtUnit (with_ world r) 5 r .arrival ∧
      ∀ h, (with_ world r).barrierHome r.die = some h → (with_ world r).linkedTo r.die ((with_ world r).dieAt h).id = true) ∧
    ((copying .le 0).copyItem ⟨0xA0, 0⟩ cops cslots (Claims.iteration (copying .le 0) (.cpy cops cslots) cslots) 0).cmd.isCred = false ∧
    (∃ i : CopyItem, i.cmd.isCred = true ∧ (with_ world (req (.copy i) .home [])).inTurn (req (.copy i) .home []) = true ∧
      ((with_ world (req (.copy i) .home [])).contribute (req (.copy i) .home []) i 0).awaits = false) ∧
    (((with_ world (req (.tcrd 0) .home [])).performCounter (req (.tcrd 0) .home []) 0 0 none).awaits = false) ∧
    (∃ i : CopyItem, (with_ world (req (.copy i) .adding [at_ 0x2000 16])).linkedTo 0 0 = true ∧ i.bytes = 1) ∧
    ((with_ world (req (.load .i32 0) .done [])).widen = [] ∧ (req (.load .i32 0) .done []).stage = .done) ∧
    (let r := req (.fence 1) .issued []; (with_ world r).fenceDone r 1 = true) := by
  refine ⟨by decide +kernel, ⟨unit_of (by decide +kernel) rfl (by decide +kernel) (by decide +kernel) (by decide +kernel) (by decide +kernel), ?_⟩, by decide +kernel, ?_, by decide +kernel, ?_,
    by decide +kernel, by decide +kernel⟩
  · intro h hh
    have h1 : (with_ world (req .ssync .home [])).barrierHome (req .ssync .home []).die = some 0 := by decide +kernel
    rw [h1] at hh
    cases hh
    decide +kernel
  · exact ⟨(copying .le 0).copyItem ⟨0xA8, 1⟩ cops cslots (Claims.iteration (copying .le 0) (.cpy cops cslots) cslots) 0, by decide +kernel, by decide +kernel, by decide +kernel⟩
  · exact ⟨{ (copying .le 0).copyItem ⟨0xA0, 0⟩ cops cslots (Claims.iteration (copying .le 0) (.cpy cops cslots) cslots) 0 with bytes := 1 }, by decide +kernel, rfl⟩

theorem witness_ResponsesReturn :
    -- a response that lands, and one of a task that has ended
    (with_ world (req (.load .i32 0) .done [])).findReq 5 = some (req (.load .i32 0) .done []) ∧
    ((with_ world (req (.load .i32 0) .done [])).widen = [] ∧ (req (.load .i32 0) .done []).orphan = false ∧ (req (.load .i32 0) .done []).captured = none) ∧
    ({ req (.load .i32 0) .done [] with orphan := true }).orphan = true ∧
    -- a load, and an item of class H, that wait for a page of the host
    (let r := req (.load .i32 0x100000000) .home [inHost];
      (with_ world r).inTurn r = true ∧ r.pieces = [inHost] ∧ inHost.place = some ⟨0, 0xC000000000, 0xF, 2 ^ 30⟩ ∧ (with_ world r).windowBusy inHost = false ∧
        r.away = none ∧ (with_ world { r with crossed := true }).pastPort { r with crossed := true } = true ∧ (with_ world { r with crossed := true }).inTurn { r with crossed := true } = true) ∧
    (let r := { req (.copy hosted) .home [{ inHost with n := 512 }] with crossed := true };
      hosted.op.cls = 2 ∧ r.unit = .home ∧ (with_ world r).inTurn r = true ∧ (with_ world r).pastPort r = true ∧ (with_ world r).windowBusy inHost = false ∧
        (with_ world r).awaits = false ∧ ((with_ world r).performHome r).awaits = false ∧ hosted.engine = .se ∧ hosted.indexVa = none ∧ hosted.keyFail = 0 ∧
        hosted.cmd.isKgath = false ∧ hosted.blk 16 8 = 0 ∧ hosted.moves (hosted.index.getD 0) ≠ []) ∧
    -- widenings: the last channel, a bound that is a NaN, a value that is a NaN
    ((crusted 0 1 0x3F80).widen[0]?.map (·.chan) = some 1 ∧ (crusted 0 1 0x3F80).widen[0]?.map (·.dh) = some 2) ∧
    ElemType.bf16.fmt.value (((crusted 0x7FC0 0 0).dieAt 0).dram.value 0x3000 2) = .nan ∧ ElemType.bf16.fmt.value 0x7FC0 = .nan ∧ ElemType.bf16.fmt.value 0x3F80 ≠ .nan := by
  decide +kernel

/-- Die 0 with race records of sector 0x100, written by tile 1, which is in segment 0. -/
def racing (rc : RaceRec) (r : Req) : State := (with_ world r).modDie 0 fun x => { x with races := [(0x100, rc)] }

theorem witness_RaceRecordsServe :
    live.live 0 = true ∧
    (let s := racing { writer := some (1, 0) } (req (.load .i32 0x2000) .home [at_ 0x2000 4]);
      Claims.AtTarget s 5 (req (.load .i32 0x2000) .home [at_ 0x2000 4]) (at_ 0x2000 4) ⟨0, 0x2000, 0xF, 2 ^ 30⟩ 0 ∧ Claims.DramRange s 0 0x2000 4 ∧
        (s.dieAt 0).slices.length + 8 < 32768 ∧ s.tracks 0 ⟨0, 0x2000, 0xF, 2 ^ 30⟩ = true ∧ 0x2000 / 32 = 0x100 ∧ (0x2000 + 4 - 1) / 32 = 0x100 ∧ ((s.dieAt 0).race 0x100).published = none ∧
        ((s.dieAt 0).race 0x100).writer = some (1, 0) ∧ s.openSegment 1 0 = true ∧ 1 ≠ tileId (s.dieAt 0).id 0) ∧
    (let s := racing { readers := [(1, 0)] } (req (.store 0x2000 [1, 2, 3, 4]) .home [at_ 0x2000 4]);
      ((s.dieAt 0).race 0x100).readers = [(1, 0)] ∧ s.openSegment 1 0 = true) := by
  refine ⟨by decide +kernel, ⟨target_of (by decide +kernel) rfl rfl (by decide +kernel) (by decide +kernel) rfl rfl (by decide +kernel),
    dram_range _ _ _ _ (by decide) (by decide +kernel) (by decide +kernel), ?_⟩, ?_⟩ <;> decide +kernel

/-! ### Witnesses: tasks, graphs, swaps, collectives -/

/-- A task of context 1 whose code stands at 0x40002000, with an image of one block. -/
def work : Task := { spent with ctxid := 1, entry := 0x40002000, image := 0x3000, imglen := 1, record := 0x1000 }
/-- World with tile 1 of die 0 changed, which is idle. -/
def idleTile (f : Tile → Tile) : State := worldDie fun x => { x with tiles := upd x.tiles 1 (f (nth x.tiles 1)) }
/-- World with tile 0 of die 0 changed, which runs. -/
def runTile (f : Tile → Tile) : State := worldDie fun x => { x with tiles := upd x.tiles 0 (f (nth x.tiles 0)) }

/-- A line that the tile waits for and its fetch: one that is code, and one that is not. -/
theorem witness_CodeLinesLand :
    let wants (pc : Word) := runTile fun t => { t with cc := { t.cc with pc } };
    (((wants 0x40002010).tileAt 0 0).wantsLine 0x40002000 = true ∧ good ((wants 0x40002010).fetchLine 0 0 0x40002000).2 = true ∧
      ((wants 0x40002010).fetchLine 0 0 0x40002000).1.awaits = false ∧ (wants 0x40002010).lost 0 = false) ∧
    (((wants 0x10).tileAt 0 0).wantsLine 0 = true ∧ good ((wants 0x10).fetchLine 0 0 0).2 = false ∧ ((wants 0x10).fetchLine 0 0 0).1.awaits = false) ∧
    (0x40002040 ∈ ((runTile fun t => { t with fetch := [0x40002040] }).tileAt 0 0).fetch ∧
      ((runTile fun t => { t with fetch := [0x40002040] }).tileAt 0 0).wantsLine 0x40002040 = false) := by
  refine ⟨by decide +kernel, by decide +kernel, List.mem_singleton.2 rfl, by decide +kernel⟩

/-- A gang of one record, on tile 1 of die 0. -/
def ganged : State :=
  worldCtx fun c => { c with live := some { gbase := 0x1000, gang := true, records := [{ ran .placed with ssp := true, tile := 1, task := some { work with ssp := true } }] } }

/-- The gang of the live graph of context 1 waits no more. -/
def begun (s : State) : State := s.modCtx 0 0 fun c => { c with live := c.live.map fun g => { g with gang := false } }

theorem witness_TasksAreTold :
    ((worldCtx fun c => { c with forwarded := [(1, { task := work })] }).ctxAt 0 0).forwarded[0]? = some (1, { task := work }) ∧
    (∃ g i task h k hq l, (ganged.ctxAt 0 0).live = some g ∧ g.gang = true ∧ ganged.gang 0 0 = [(i, task, h, k, hq)] ∧ ganged.mayStart h k hq = true ∧
      ganged.shadowFree h k = true ∧
      (((begun ganged).discardPreload h k).loadTask h hq task).2 = .ok l ∧
      (((begun ganged).startParticipant (i, task, h, k, hq)).settleGraph 0 0).awaits = false) ∧
    ((idleTile fun t => { t with signal := true }).tileAt 0 1).signal = true ∧ ((worldCtx fun c => { c with ssnews := true }).ctxAt 0 0).ssnews = true := by
  refine ⟨by decide +kernel, ?_, by decide +kernel, by decide +kernel⟩
  have h : good (((begun ganged).discardPreload 0 1).loadTask 0 0 { work with ssp := true }).2 = true := by decide +kernel
  obtain ⟨l, hl⟩ := ok_of h
  exact ⟨_, 0, { work with ssp := true }, 0, 1, 0, l, rfl, rfl, by decide +kernel, by decide +kernel, by decide +kernel, hl, by decide +kernel⟩

/-- A tile-independent request of tile 0, which waits. -/
def waiting (kind : ReqKind) : Req := req kind .waiting []

/-- Context 1 on die 0 in another state of its entry, with its frames from 0x10000000 on, and a request of tile 0 that waits. -/
def swapping (state : BitVec 2) (kind : ReqKind) : State :=
  { (worldCtx fun c => { c with entry := { c.entry with state, fbase := 1 }, parked := [(1, { task := work })] }).modDie 0
      (fun x => { x with dram := x.dram.write 0x10100000 (bytesOf 8 0x0101) }) with reqs := [waiting kind] }

/-- Context 1 in another state of its entry with no task on any tile, and a request of no context that waits. -/
def quiet (state : BitVec 2) (kind : ReqKind) : State :=
  with_ ((worldCtx fun c => { c with entry := { c.entry with state } }).modDie 0 fun x => { x with tiles := upd x.tiles 0 (Tile.reset 0) })
    { waiting kind with ctxid := 0 }

/-- A barrier home in another package of two in the first dimension, and a participant of the context that waits for its signal. -/
theorem witness_AwayBarrierTells :
    let s := (worldDie fun x => { x with homeId := some 0x200 }).modHere fun t => { t with
      task := some { spent with ctxid := 1, ssp := true }, super := some { s := 0 }, posn := 2 ^ 21 };
    s.homeAway 0 = true ∧ s.expecting 0 0 = true ∧ (s.tileAt 0 0).super.isSome = true ∧ s.lost 0 = false := by decide +kernel

/-- A graph whose record 0 runs on tile 0 of die 0, with record 1 as its successor, which waits for it alone: its successor list
at 0x3000 and record 1 at 0x1040, for that tile with code at 0x40002000. -/
def chained (succ : Word) : State :=
  (worldCtx fun c => { c with live := some { gbase := 0x1000, records := [{ ran .running with nsucc := 1, succ }, { state := .waiting, wait := 1 }] } }).modDie 0
    fun x => { x with
      dram := (x.dram.write 0x1040 (bytesOf 64 (0x40002000 + 2 ^ 256 + 2 ^ 336))).write 0x3000 (bytesOf 4 1)
      tiles := upd x.tiles 0 { nth x.tiles 0 with task := some { spent with ctxid := 1, record := 0x1000 }, chain := some (0, 0, 1) } }

/-- The successor is preloaded; a task of which it is the successor completes; and one whose list cannot be read. -/
theorem witness_ChainsRun :
    (let s := chained 0x3000;
      s.live 0 = true ∧ (s.tileAt 0 0).preload = none ∧ (s.tileAt 0 0).mode ≠ .halted ∧ s.gangHold 0 0 = false ∧ s.shadowFree 0 0 = true ∧
        (s.tileAt 0 0).drawn = none ∧ s.candidates 0 0 = [] ∧ ∃ p, s.chainFor 0 0 = some (0, p) ∧
        (s.tileAt 0 0).chain = some (p.task.home, p.task.q, p.task.index) ∧
        good ((s.recordBytes p.task.home p.task.q p.task.index).1.loadPlaced 0 0 0 p).2 = true ∧
        ((s.recordBytes p.task.home p.task.q p.task.index).1.loadPlaced 0 0 0 p).1.awaits = false) ∧
    (∀ succ ∈ [0x3000, 0xFFFFFFFF000000],
      let s := (chained succ).modHere fun t => { t with mode := .ending };
      s.taskOver 0 0 = true ∧ (((s.leaveTile 0 0).closeSegment 0 0).retireDone 0 0 0 0).awaits = false ∧
        good (((((s.leaveTile 0 0).closeSegment 0 0).writeRecord 0 0 0 44 (bytesOf 4 0)).changeRecord 0 0 0 fun r =>
          { r with state := .done, cause := 0 }).successors 0 0 0).2 = decide (succ = 0x3000)) ∧ (chained 0x3000).graphSize 0 0 = 2 := by
  refine ⟨?_, fun w hw => ?_, by decide +kernel⟩
  · refine ⟨by decide +kernel, by decide +kernel, by decide +kernel, by decide +kernel, by decide +kernel, by decide +kernel, by decide +kernel, ?_⟩
    have h : ((chained 0x3000).chainFor 0 0).any (fun z => decide (z.1 = 0)
        && decide (((chained 0x3000).tileAt 0 0).chain = some (z.2.task.home, z.2.task.q, z.2.task.index))
        && good (((chained 0x3000).recordBytes z.2.task.home z.2.task.q z.2.task.index).1.loadPlaced 0 0 0 z.2).2
        && !(((chained 0x3000).recordBytes z.2.task.home z.2.task.q z.2.task.index).1.loadPlaced 0 0 0 z.2).1.awaits) = true := by decide +kernel
    cases hz : (chained 0x3000).chainFor 0 0 with
    | none => rw [hz] at h; exact absurd h (by simp)
    | some z =>
      rw [hz] at h
      simp only [Option.any_some, Bool.and_eq_true, decide_eq_true_eq, Bool.not_eq_true'] at h
      obtain ⟨⟨⟨h1, h2⟩, h3⟩, h4⟩ := h
      exact ⟨z.2, by rw [← h1], h2, h3, h4⟩
  · simp only [List.mem_cons, List.not_mem_nil, or_false] at hw
    rcases hw with rfl | rfl <;> decide +kernel

/-- A task that is resumed from its frame on tile 1, whose draw is made already. -/
def resumed : Placed := { task := work, resume := true }
def resuming : State := (swapping 1 (.kill 9)).modTile 0 1 fun t => { t with preload := some resumed, redraw := some 0 }

theorem resuming_ways : (resuming.startTask 0 1 0 resumed).awaits = false := by
  rw [State.awaits, State.ways_startAgain (y := { task := work }) (w := 0) rfl (by decide +kernel) (by decide +kernel) rfl rfl]
  decide +kernel

/-- A record whose first line is no code, and a task that is resumed from its frame slot. -/
theorem witness_TasksFailAndResume :
    (let p : Placed := { task := { work with entry := 0x10 } };
      let s := (graph { ran .placed with tile := 1 }).modDie 0 fun x => { x with
        tiles := upd x.tiles 1 { nth x.tiles 1 with placed := [p], drawn := some 0 } };
      s.nextOf 0 1 0 = some p ∧ good (s.loadPlaced 0 1 0 p).2 = false ∧ (s.preloadPlaced 0 1 0 p).awaits = false ∧
        ((s.ctxAt 0 0).record 0).isSome = true ∧ (s.candidates 0 1).contains 0 = true ∧ s.shadowFree 0 1 = true) ∧
    ((resuming.tileAt 0 1).preload = some resumed ∧ (resuming.dieAt 0).findCtx resumed.task.ctxid = some 0 ∧ resuming.mayStart 0 1 0 true = true ∧
      resumed.chain = false ∧ resuming.gangHold 0 1 = false ∧ (resuming.startTask 0 1 0 resumed).awaits = false ∧
      (resuming.validSlot 0 1 0).isSome = true) := by
  rw [resuming_ways]
  decide +kernel

theorem witness_TasksRun :
    -- a record that is drawn, one that is preloaded and one that has ended
    (let s := idleTile fun t => { t with placed := [{ task := work }], drawn := some 0 };
      s.live 0 = true ∧ (s.tileAt 0 1).preload = none ∧ (s.tileAt 0 1).mode ≠ .halted ∧ s.gangHold 0 1 = false ∧ s.shadowFree 0 1 = true ∧
        (s.tileAt 0 1).drawn = some 0 ∧ (s.candidates 0 1).contains 0 = true ∧ s.nextOf 0 1 0 = some { task := work } ∧
        good (s.loadPlaced 0 1 0 { task := work }).2 = true ∧ (s.preloadPlaced 0 1 0 { task := work }).awaits = false) ∧
    (let s := idleTile fun t => { t with preload := some { task := work } };
      (s.tileAt 0 1).preload = some { task := work } ∧ (s.dieAt 0).findCtx work.ctxid = some 0 ∧ s.mayStart 0 1 0 = true ∧ s.gangHold 0 1 = false ∧ s.reqs = [] ∧
        (s.startTask 0 1 0 { task := work }).awaits = false) ∧
    (let s := runTile fun t => { t with mode := .ending, seg := 1022 };
      (s.tileAt 0 0).task = some { spent with ctxid := 1 } ∧ s.live 0 = true ∧ (s.tileAt 0 0).mode = .ending ∧ (s.tileAt 0 0).phase = .start ∧ (s.tileAt 0 0).stop = none ∧
        (s.tileAt 0 0).refused = [] ∧ s.taskOver 0 0 = true ∧ (s.tileAt 0 0).segmentsFull = false ∧
        (((s.leaveTile 0 0).closeSegment 0 0).retireDone 0 0 0 0).awaits = false) ∧
    -- its record, which has no successors
    ((graph (ran .running)).ctxAt 0 0).record 0 = some (ran .running) ∧ (ran .running).nsucc = 0 ∧ (ran .running).ssp = false := by decide +kernel

/-- A gang of two records, on tiles 1 and 2 of die 0, both free. -/
theorem witness_GangsStart :
    let x (k : TileIx) : Record := { ran .placed with ssp := true, tile := k, task := some { work with ssp := true, index := k.val - 1 } }
    let s := worldCtx fun c => { c with live := some { gbase := 0x1000, gang := true, records := [x 1, x 2] } };
    (s.gang 0 0).length = 2 ∧ ∀ m ∈ s.gang 0 0, s.mayStart m.2.2.1 m.2.2.2.1 m.2.2.2.2 = true ∧ s.shadowFree m.2.2.1 m.2.2.2.1 = true ∧
      m.2.1.home = 0 ∧ m.2.1.q = 0 ∧ m.2.1.index = m.1 ∧ (((s.gang 0 0).foldl State.startParticipant (begun s)).settleGraph 0 0).awaits = false := by
  decide +kernel

theorem witness_LinksCarry : world.linkedTo work.home (world.dieAt 0).id = true ∧ world.homeLinked 0 = true := by decide +kernel

theorem witness_GraphsAreTaken :
    let s := worldCtx fun c => { c with queue := [0x10000000000001000] };
    (s.ctxAt 0 0).queue = [0x10000000000001000] ∧ s.live 0 = true ∧ (s.ctxAt 0 0).entry.state = 1 ∧ (s.ctxAt 0 0).live = none ∧ (s.ctxAt 0 0).gq.frz = false ∧
      (s.takeGraph 0 0 0x10000000000001000 []).awaits = false := by
  decide +kernel

theorem swapping_ways (b : Bool) : ((swapping 3 (.ctxsw 1 0 1)).takeIn 0 1 0 { task := work } b).awaits = false := by
  rw [State.awaits, State.ways_takeIn]
  cases b <;> decide +kernel

theorem witness_WaitingWorkEnds :
    -- a context that is being swapped in, with a valid frame slot for tile 1, which is idle
    (swapping 3 (.ctxsw 1 0 1)).incoming 0 1 = some (0, { task := work }) ∧ ((swapping 3 (.ctxsw 1 0 1)).tileAt 0 1).mode = .idle ∧
    (∀ b, ((swapping 3 (.ctxsw 1 0 1)).takeIn 0 1 0 { task := work } b).awaits = false) ∧
    (swapping 3 (.ctxsw 1 0 1)).awaits = false ∧
    ((quiet 3 (.ctxsw 1 0 1)).endIn 0 1).awaits = false ∧ (((quiet 3 (.ctxsw 2 1 2)).endOut 0 2).endIn 0 1).awaits = false ∧
    -- an invalidation of a partition without older entries, and with one of this generation
    ((swapping 1 (.tlbinv 0 0 2)).findReq 5 = some (waiting (.tlbinv 0 0 2)) ∧ (waiting (.tlbinv 0 0 2)).stage = .waiting ∧
      ((swapping 1 (.tlbinv 0 0 2)).portAt 0 1).egress = []) ∧
    -- a kill of a context of which nothing is left, a swap-out and a swap-in that are done
    ((quiet 1 (.kill 1)).drained 0 1 = true ∧ (quiet 1 (.kill 1)).presences 0 1 = [(0, 0), (1, 0)]) ∧ (quiet 3 (.ctxsw 1 0 0)).outDone 0 1 = true ∧
    (quiet 3 (.ctxsw 1 0 1)).inDone 0 1 = true := by
  simp only [swapping_ways]
  decide +kernel

/-- A tile whose task an exchange takes out, for the parked task of context 1; and an exchange that is done. -/
theorem witness_SwapRestoresTile :
    (let s := { (swapping 3 (.ctxsw 2 1 2)) with reqs := [{ waiting (.ctxsw 2 1 2) with tile := 5 }] }.modTile 0 1 fun t =>
        { t with mode := .halted, task := some { work with ctxid := 2 }, cc := { t.cc with ctxid := 2 } };
      (s.incoming 0 1).isSome = true ∧ s.live 0 = true ∧ s.leaving (s.ctxAt 0 0).entry.ctxid = some 2 ∧ (s.tileAt 0 1).mode = .halted ∧
        (s.tileAt 0 1).runs 2 = true ∧ s.tileQuiet 0 1 2 = true ∧ (s.tileAt 0 1).segmentsFull = false) ∧
    ((quiet 3 (.ctxsw 2 1 2)).outDone 0 2 = true ∧ (quiet 3 (.ctxsw 2 1 2)).inDone 0 1 = true) ∧
    -- a task that is resumed from its frame
    (let s := swapping 1 (.kill 9);
      (s.validSlot 0 1 0).isSome = true ∧ (s.dieAt 0).findCtx work.ctxid = some 0 ∧ s.mayStart 0 1 0 = true ∧ s.gangHold 0 1 = false) := by decide +kernel

/-- A completed participant's arrival: SSPART is 2. -/
def arriving (ssarr : BitVec 18) (arrived : Bool) : State :=
  { (graph { ran .running with arrived, ssp := true }).modCtx 0 0 fun c => { c with ssarr } with reqs := [req .ssync .home []] }

theorem witness_CountersAdvance :
    (∀ p ∈ [((0 : BitVec 18), false), (1, false), (0, true)],
      let s := arriving p.1 p.2;
      s.findReq 5 = some (req .ssync .home []) ∧ s.inTurn (req .ssync .home []) = true ∧ s.barrierHome 0 = some 0 ∧ s.linkedTo 0 (s.dieAt 0).id = true ∧ s.findDie (s.dieAt 0).id = some 0 ∧ (s.dieAt 0).findCtx 1 = some 0 ∧
        (s.tileAt 0 0).cc.ctxid = 1 ∧ (s.tileAt 0 0).task = some { spent with ctxid := 1 } ∧
        (s.ctxAt 0 0).record 0 = some { ran .running with arrived := p.2, ssp := true } ∧ (s.ctxAt 0 0).ssarr = p.1 ∧ (s.ctxAt 0 0).entry.sspart = 2 ∧ (s.ctxAt 0 0).ssdone = 0 ∧
        (s.dieAt 0).plist.getLsbD 0 = true ∧ s.live 0 = true) ∧
    -- the last counter of die 0 with the greatest operand, a selector that names none, an operand that is none, and a lost die
    ((7 : Word) &&& 0xFFFFFFFFF000FFF8 = 0 ∧ (world.dieAt 0).plist.getLsbD ((7 : Word).extractLsb' 16 12).toNat = true ∧ world.findDie 0 = some 0 ∧
      (0xFFFFFFFF : Word).toNat < 2 ^ 32 ∧ (8 : Word) &&& 0xFFFFFFFFF000FFF8 ≠ 0 ∧ (0x100000000 : Word).toNat = 2 ^ 32) ∧
    (∀ k, (nth (world.ctxAt 0 0).triggers k).armed = false) ∧
    (with_ world (req (.tcadd 7 0xFFFFFFFF false) .home [])).findReq 5 = some (req (.tcadd 7 0xFFFFFFFF false) .home []) ∧
    (with_ world (req (.tcrd 7) .home [])).findReq 5 = some (req (.tcrd 7) .home []) ∧ (lost.findDie 0 = some 0 ∧ lost.live 0 = false) ∧
    world.linkedTo 0 ((7 : Word).extractLsb' 16 12) = true ∧ lost.linkedTo 0 0 = true ∧ lost.isAway 0 = false := by
  refine ⟨fun p hp => ?_, ?_⟩
  · simp only [List.mem_cons, List.not_mem_nil, or_false] at hp
    rcases hp with rfl | rfl | rfl <;> decide +kernel
  · decide +kernel

/-- A contribution of 128 elements of f32 to slot 0, whose grain is n. -/
def contribution (n : Nat) : CopyItem :=
  { (copying .se 0).copyItem ⟨0xA8, 1⟩ cops cslots (Claims.iteration (copying .se 0) (.cred cops cslots) cslots) 0 with
    dst := 0x2000, t := n, data := List.replicate 512 0 }
/-- A slot for two grains to the elements from 0x2000 on, of this type. -/
def slotOf (et : Byte) (next : Nat) : RedSlot := { tbase := 0x2000, tlen := 128, et, g := 2, next }
/-- Die 0 with that slot and the contribution's request. -/
def contributing (x : RedSlot) (n : Nat) : State :=
  { worldCtx fun c => { c with red := [(0, x)] } with reqs := [req (.copy (contribution n)) .home [at_ 0x2000 512]] }

theorem witness_ContributionsArrive :
    -- in turn, early, late, and of another type
    (∀ p ∈ [(slotOf 13 0, 0), (slotOf 13 0, 1), (slotOf 13 1, 0), (slotOf 9 0, 0)],
      let s := contributing p.1 p.2;
      let r := req (.copy (contribution p.2)) .home [at_ 0x2000 512];
      s.findReq 5 = some r ∧ (contribution p.2).cmd.isCred = true ∧ s.inTurn r = true ∧ (contribution p.2).blk 16 8 = 0 ∧
        (∃ s1, s.trackPieces r .syncWrite r.pieces = .ok s1) ∧ (contribution p.2).blk 24 4 = 0 ∧ (contribution p.2).bytes = 512 ∧
        (contribution p.2).op.et.code = 13 ∧ (s.ctxAt 0 0).red = [(0, p.1)] ∧ r.away = none ∧ (s.ctxAt 0 0).waitingCount = 0 ∧
        (match s.trackPieces r .syncWrite r.pieces with
          | .ok s1 => (s1.contribute r (contribution p.2) 0).awaits
          | .error _ => true) = false) ∧
    -- the one chunk of two that has arrived, and the last one
    (∀ step ∈ [0, 1],
      let x : ChunkSlot := { op := 0, et := 13, chunk := 1, ring := [0, 0x100], pos := 0, run := some (0, 0x2000, 0x3000, 0), step
                             inbox := [(1, none, List.replicate 64 0)] };
      (nth ((world.modCtx 0 0 fun c => { c with chunks := upd c.chunks 0 x }).ctxAt 0 0).chunks 0).run = some (0, 0x2000, 0x3000, 0) ∧
        world.findDie (x.ring.getD ((x.pos + 1) % x.ring.length) 0) = some 1 ∧ 2 ≤ x.ring.length ∧ x.op.toNat ≤ 3 ∧ world.chunkLinked 0 x = true ∧ world.live 0 = true ∧
        ((world.modCtx 0 0 fun c => { c with chunks := upd c.chunks 0 { x with inbox := [], step := x.step + 1 } }).writeChunk 0 0 0 1
          (x.taken 1 none (List.replicate 64 0)).1 (x.taken 1 none (List.replicate 64 0)).2).awaits = false) := by
  refine ⟨fun p hp => ?_, fun k hk => ?_⟩
  · simp only [List.mem_cons, List.not_mem_nil, or_false] at hp
    rcases hp with rfl | rfl | rfl | rfl <;>
      exact ⟨by decide +kernel, by decide +kernel, by decide +kernel, by decide +kernel, ok_of (by decide +kernel), by decide +kernel, by decide +kernel, by decide +kernel, by decide +kernel, by decide +kernel, by decide +kernel⟩
  · simp only [List.mem_cons, List.not_mem_nil, or_false] at hk
    rcases hk with rfl | rfl <;> decide +kernel

/-- A re-shard between two one-shard layouts at 0 and at 0x4000: 128 elements, one row. -/
def thresher : Thresher :=
  { q := 0, ctxid := 1, src := BitVec.ofNat 512 layout128, dst := BitVec.ofNat 512 (layout128 + 0x4000), cursor := 0x5000, bar := 0
    plan := planOf (layoutOf (BitVec.ofNat 512 layout128)) (layoutOf (BitVec.ofNat 512 (layout128 + 0x4000))) [0] [0] 0 1
    transfer := 0, row := 0, sent := [], nextT := 0, nextR := 0, tile := 0, level := .task, seg := 0 }
/-- Die 0 with a thresher. -/
def threshing (th : Thresher) : State := worldDie fun x => { x with thresher := some th }

/-- The first row of a thresher acknowledged, before whose end nothing waits: the cause of its addition to BAR. -/
def acked (th : Thresher) : Option (Option (BitVec 16)) :=
  let s := (threshing { th with sent := [(0, 0, none)] }).modDie 0 fun x => { x with dram := x.dram.write 0x6000 (bytesOf 16 1) }
  let last := decide (th.plan.length ≤ 1)
  let th' := { th with transfer := 1, row := 0, sent := [] }
  let r := s.threshReq 0 { th with sent := [(0, 0, none)] }
  match (s.cursorState 0 th' (if last then 3 else 1) 0 ((16, 24) :: if last then [(8, 1)] else [])).barPlace r th.bar with
  | (s2, .ok b) =>
    let a := s2.addBytes r b th.bar (((th.plan[0]?).map fun t => t.rowBytes (layoutOf th.src)).getD 0)
    if a.1.awaits || ((a.1.idleThresher 0).resumeNext 0).awaits || a.2.any (fun c => ((a.1.failThresher 0 th' c).resumeNext 0).awaits)
    then none else some a.2
  | (_, .error _) => none

/-- A re-shard paused at its first row, after whose thresher the next re-shard is taken up. -/
def pausedAt : State :=
  (worldCtx fun c => { c with paused := some thresher }).modDie 0 fun x => { x with dram := x.dram.write 0x5000 (bytesOf 32 (2 * 2 ^ 64)) }

theorem witness_ThresherGoesOn :
    -- acknowledged: the last row, one before, and one whose addition is too much for its barrier object
    acked thresher = some none ∧ acked { thresher with plan := thresher.plan ++ thresher.plan } = some none ∧
    acked { thresher with bar := 0x6000 } = some (some 0x0015) ∧
    -- failed, and swapped out
    (let th := { thresher with sent := [(0, 0, some 0x21)] };
      let s := threshing th;
      (match (s.cursorState 0 th 4 0x21 [(0, 64)]).barPlace (s.threshReq 0 th) th.bar with
      | (s2, .ok b) => (((s2.addBytes (s.threshReq 0 th) b th.bar (Claims.bytesLeft th 0 0)).1.idleThresher 0).resumeNext 0).awaits
      | (_, .error _) => true) = false) ∧
    (let s := (threshing thresher).modCtx 0 0 fun c => { c with entry := { c.entry with state := 3 } };
      ((((s.cursorState 0 thresher 2 0 [(0, 64)]).idleThresher 0).modCtx 0 0 fun c => { c with paused := some thresher }).resumeNext 0).awaits = false) ∧
    -- paused
    (pausedAt.ctxAt 0 0).entry.state = 1 ∧ (pausedAt.ctxAt 0 0).paused = some thresher ∧
    (let v := pausedAt.modCtx 0 0 fun c => { c with paused := none };
      (match v.freeRead (v.threshReq 0 thresher) thresher.cursor .read 64 with
      | .ok (_, cur) => decide (cursorPosition thresher.plan cur = some (0, 0)) && decide (part cur 8 1 = 2)
      | .error _ => false) = true) := by decide +kernel

theorem witness_ThresherMoves :
    -- a row to send; a row acknowledged, the last and one before; a row failed; a swap-out
    (∃ tr, thresher.plan[0]? = some tr ∧ tr.rows = 1 ∧ 
      (((threshing thresher).threshRoutes 0 ((threshing thresher).stepRoutes 0 tr.s)).sendRow 0 thresher tr 0).1.awaits = false) ∧
    ((threshing thresher).live 0 = true ∧ ((threshing thresher).ctxAt 0 0).entry.state = 1) ∧ thresher.plan.length = 1 ∧
    ((threshing { thresher with sent := [(0, 0, none)] }).dieAt 0).thresher = some { thresher with sent := [(0, 0, none)] } ∧
    ({ thresher with plan := thresher.plan ++ thresher.plan } : Thresher).plan.length = 2 ∧
    ((threshing { thresher with sent := [(0, 0, some 0x21)] }).dieAt 0).thresher = some { thresher with sent := [(0, 0, some 0x21)] } ∧
    (((threshing thresher).modCtx 0 0 fun c => { c with entry := { c.entry with state := 3 } }).dieAt 0).thresher = some thresher ∧
    (((threshing thresher).modCtx 0 0 fun c => { c with entry := { c.entry with state := 3 } }).ctxAt 0 0).entry.state = 3 := by
  refine ⟨⟨{ s := 0, b := 0, a := 0, lo := [0, 0, 0, 0, 0], size := [128, 1, 1, 1, 1] }, by decide +kernel, by decide +kernel, by decide +kernel⟩, by decide +kernel, by decide +kernel, by decide +kernel, by decide +kernel, by decide +kernel,
    by decide +kernel, by decide +kernel⟩

/-! ### Witnesses: encoding, steps, invariants -/

/-- Fields at the ends of their ranges. -/
theorem witness_DecodeInvertsEncode :
    (Instr.add { d := .srseed, a := .x 31, lsel := .b, lit := 0xFFFFFFFF, sw := some 15, sp := some 15 }).wellFormedFor .cc = true ∧
    (Instr.vld { et := .f32, d := .s 7, a := .ag 2, pq := some 7, sw := some 15, sp := some 15 }
      { t0 := 0xFFFF, t1 := 0xFFFF, t2 := 0xFFFF, t3 := 0xFFFF, ag2 := { bsel := 15, off := 0xFFFFF, str0 := 0x3FFFF, str3 := 0x20000 }
        ctl := { wlvl := 6, plvl := 6 } }).wellFormedFor .ve = true := by decide +kernel

theorem witness_DecodingLosesNothing :
    decodeWord (wordOfFields [(0x38, 0), (0x03, 8)]) = .ok (.eret {}) ∧
    decodeRecord .me (recordOfFields [(0x80, 0), (1, 8)]) = .ok (.mflip {} {}) := by decide +kernel

/-- Tile 0 of a live package, at the turn of its control core, with a line at PC 0 that begins with this word. -/
def fetched (w : BitVec 128) : State :=
  on fun t => { t with mode := .running, phase := .cc, icache := [(0, w.setWidth 512)] }
/-- The same at the turn of the vector engine, with this record at 0 of the scratchpad in its queue. -/
def queued (w : BitVec 512) : State :=
  on fun t => { t with
    mode := .running, phase := .ve, setA := { t.setA with bytes := Mem.write [] 0 (bytesOf 64 w.toNat) }
    seqs := upd t.seqs 0 { nth t.seqs 0 with queue := [{ off := 0, count := 1 }] } }

/-- Whether an answer is a freeze, for an agent. -/
def turned (ag : Agent) (o : Out) : Bool :=
  match o with
  | .next t => decide (t.here.phase ≠ ag.phase)
  | _ => true

theorem has_turn {ag : Agent} {o : Out} (h : turned ag o = true) : Claims.HasTurn ag o := by
  intro t ht
  subst ht
  simpa [turned] using h

/-- add x3, x4, 12, and a word of no meaning. -/
theorem witness_StepRunsWord :
    (∀ w ∈ [Claims.word 0x2000000403000001 0x000000000000000C, 0xF0],
      Claims.Moves (fetched w) (fetched w) ∧ Claims.TurnOf .cc (fetched w) ∧ (fetched w).here.cc.mode = .ready ∧ (fetched w).here.stalled = none ∧
        (fetched w).here.freshTrap = false ∧ (fetched w).here.overrun = false ∧ (fetched w).here.wordAt = some w) ∧
    -- the agenda names the tile
    Claims.Moves { fetched 0xF0 with agenda := [.run 0 0], die := 7, tile := 63 } (fetched 0xF0) ∧
    (∃ i, decodeWord (Claims.word 0x2000000403000001 0x000000000000000C) = .ok i ∧
      Claims.HasTurn .cc (exec i { fetched (Claims.word 0x2000000403000001 0x000000000000000C) with agent := .cc })) ∧
    ∃ f, decodeWord 0xF0 = .bad f := by
  refine ⟨fun w hw => ?_, Or.inl ⟨0, 0, [], rfl, rfl⟩, ⟨.add { d := .x 3, a := .x 4, lsel := .b, lit := 12 }, by decide +kernel, has_turn (by decide +kernel)⟩,
    ⟨0, 1⟩, by decide +kernel⟩
  simp only [List.mem_cons, List.not_mem_nil, or_false] at hw
  rcases hw with rfl | rfl <;>
    exact ⟨Or.inr ⟨by decide +kernel, by decide +kernel, rfl⟩, ⟨by decide +kernel, Or.inl (by decide +kernel), by decide +kernel⟩, by decide +kernel, by decide +kernel,
      by decide +kernel, by decide +kernel, by decide +kernel⟩

/-- vmov.f32 v1, v2, an endloop without a loop, and a record of no meaning. -/
theorem witness_StepRunsRecord :
    (∀ w ∈ [encodeRecord (.vmov { et := .f32, d := .v 1, a := .v 2 } {}), encodeRecord (.endloop {} {}), 0xF0],
      Claims.Moves (queued w) (queued w) ∧ Claims.TurnOf .ve (queued w) ∧ (queued w).here.cutDue = false ∧ (queued w).slotTrap .ve = none ∧
        (queued w).here.seqReady (nth (queued w).here.seqs 0) = true ∧ (queued w).here.recordAt (nth (queued w).here.seqs 0) = some (0, 0, 1, w)) ∧
    (∃ i, decodeRecord .ve (encodeRecord (.vmov { et := .f32, d := .v 1, a := .v 2 } {})) = .ok i ∧
      loopsBroken (nth (queued (encodeRecord (.vmov { et := .f32, d := .v 1, a := .v 2 } {}))).here.seqs 0) i 0 1 = false ∧
      (queued (encodeRecord (.vmov { et := .f32, d := .v 1, a := .v 2 } {}))).slotTurn .ve (slotArrival i) = .go ∧
      Claims.HasTurn .ve (exec i { (queued (encodeRecord i)).modHere (fun t => t.setSeq .ve ((nth t.seqs 0).holding 0 (encodeRecord i) i)) with agent := .ve })) ∧
    (∃ i, decodeRecord .ve (encodeRecord (.endloop {} {})) = .ok i ∧ loopsBroken (nth (queued (encodeRecord (.endloop {} {}))).here.seqs 0) i 0 1 = true) ∧
    (∃ f, decodeRecord .ve 0xF0 = .bad f) ∧
    -- a slot that has not come
    (world.modHere fun t => { t with
        super := some { s := 10, clen := 20, inComm := true, started := true }, seqs := t.seqs.map fun q => { q with phase := some ({ off := 0, count := 1 }, 0) } }).slotTurn .le 1 = .early := by
  refine ⟨fun w hw => ?_, ⟨.vmov { et := .f32, d := .v 1, a := .v 2 } {}, by decide +kernel, by decide +kernel, by decide +kernel, has_turn (by decide +kernel)⟩,
    ⟨.endloop {} {}, by decide +kernel, by decide +kernel⟩, ⟨⟨0, 1⟩, by decide +kernel⟩, by decide +kernel⟩
  simp only [List.mem_cons, List.not_mem_nil, or_false] at hw
  rcases hw with rfl | rfl | rfl <;>
    exact ⟨Or.inr ⟨by decide +kernel, by decide +kernel, rfl⟩, ⟨by decide +kernel, Or.inl (by decide +kernel), by decide +kernel⟩, by decide +kernel, by decide +kernel,
      by decide +kernel, by decide +kernel⟩

/-- A scheduled record without a slot in the last cycle of its phase; and a record of which nothing was read before. -/
theorem witness_StepStopsRecord :
    let w := encodeRecord (.cpy { et := .f32, d := .ag 1, a := .ag 0, lit := 900 } { t0 := 2 });
    (let s := world.modHere fun t => { t with
        phase := .le, now := 19, super := some { s := 0, clen := 20, inComm := true, started := true }
        setA := { t.setA with bytes := Mem.write [] 0 (bytesOf 64 w.toNat) }
        seqs := upd t.seqs 2 { nth t.seqs 2 with queue := [{ off := 0, count := 1 }], phase := some ({ off := 0, count := 1 }, 0) } };
      Claims.TurnOf .le s ∧ (s.slotTrap .le).isSome = true) ∧
    (let s := queued w; ∃ i, decodeRecord .ve 0xF0 = .bad i ∧ (s.here.reread .ve 0 w) = s.here) := by
  refine ⟨⟨⟨by decide +kernel, Or.inl (by decide +kernel), by decide +kernel⟩, by decide +kernel⟩, ⟨0, 1⟩, by decide +kernel, by decide +kernel⟩

theorem witness_AgendaRunsEvents :
    (Instr.powerGood.coded = none ∧ ofCycle .powerGood = false) ∧ (Instr.add {}).coded.isSome = true ∧ ofCycle .resultWriteback = true ∧
    ({ live with agenda := [.event .powerGood] } : State).agenda = [.event .powerGood] := by decide +kernel

/-- Whether an answer is a next state. -/
def goesOn (o : Out) : Bool :=
  match o with
  | .next _ => true
  | _ => false

theorem next_of {o : Out} (h : goesOn o = true) : ∃ t, o = .next t := by
  cases o with
  | next t => exact ⟨t, rfl⟩
  | fault f => exact absurd h (by simp [goesOn])
  | refused r => exact absurd h (by simp [goesOn])

theorem witness_MemoryStaysCanonical :
    (fetched (Claims.word 0x2000000403000001 0x000000000000000C)).memOk = true ∧ ∃ t, step (fetched (Claims.word 0x2000000403000001 0x000000000000000C)) = .next t :=
  ⟨by decide +kernel, next_of (by decide +kernel)⟩

/-! ### Values that the manual writes out, or that follow from it by hand -/

/-- What the operation leaves in flight, on a state whose x4, x5 and x7 hold these words. -/
def leaves (a b c : Word) (i : Instr) : Option (List Effect) :=
  let s := live.modHere fun t => { t with cc := { t.cc with x := upd (upd (upd t.cc.x 4 a) 7 b) 5 c } }
  match exec i s with
  | .next t => t.here.flight.head?.map (·.effects)
  | _ => none
/-- Operands of those: x8 from x4, x7 and x5. -/
def abc : Op := { d := .x 8, a := .x 4, b := .x 7, c := .x 5 }

/-- The table of R120. -/
theorem test_division_corners :
    leaves 7 0 0 (.div abc) = some [.x 8 0xFFFFFFFFFFFFFFFF] ∧ leaves 7 0 0 (.rem abc) = some [.x 8 7] ∧ leaves 7 0 0 (.divn abc) = some [.x 8 0xFFFFFFFFFFFFFFFF] ∧
    leaves 7 0 0 (.remn abc) = some [.x 8 7] ∧ leaves 0x8000000000000000 0xFFFFFFFFFFFFFFFF 0 (.div abc) = some [.x 8 0x8000000000000000] ∧
    leaves 0x8000000000000000 0xFFFFFFFFFFFFFFFF 0 (.rem abc) = some [.x 8 0] := by decide +kernel

/-- R119: truncation toward zero, a remainder with the sign of the dividend, shifts by the low six bits, a rotation by none, the upper product. -/
theorem test_integer_values :
    leaves (-7) 2 0 (.div abc) = some [.x 8 (-3)] ∧ leaves (-7) 2 0 (.rem abc) = some [.x 8 (-1)] ∧ leaves 1 65 0 (.sll abc) = some [.x 8 2] ∧
    leaves (-8) 1 0 (.sra abc) = some [.x 8 (-4)] ∧ leaves 5 64 0 (.rotl abc) = some [.x 8 5] ∧ leaves (-1) (-1) 0 (.mulh abc) = some [.x 8 0] ∧
    leaves (-1) (-1) 0 (.mulhn abc) = some [.x 8 0xFFFFFFFFFFFFFFFE] ∧ leaves 0 0 0 (.clz abc) = some [.x 8 64] ∧ leaves 1 0 0 (.clz abc) = some [.x 8 63] ∧
    leaves 8 0 0 (.ctz abc) = some [.x 8 3] ∧ leaves 1 2 0 (.lea { abc with sub := 4, lit := 0xFFFFFFFF }) = some [.x 8 32] ∧
    leaves (-1) 1 0 (.cmp { abc with sub := 2 }) = some [.x 8 1] ∧ leaves (-1) 1 0 (.cmp { abc with sub := 6 }) = some [.x 8 0] := by decide +kernel

/-- R122 by IEEE 754: 1 + 2^-24 is a tie that stays 1, 1 + 3 * 2^-24 one that goes up; 1 / 0 is infinity, 0 / 0 a NaN, the root of -0 is -0. -/
theorem test_float_values :
    leaves 0x3F800000 0x33800000 0 (.fadd { abc with et := .f32 }) = some [.x 8 0x3F800000] ∧
    leaves 0x3F800001 0x33800000 0 (.fadd { abc with et := .f32 }) = some [.x 8 0x3F800002] ∧
    leaves 0xBF800000 0 0 (.fdiv { abc with et := .f32 }) = some [.x 8 0xFF800000] ∧ leaves 0 0 0 (.fdiv { abc with et := .f32 }) = some [.x 8 0x7FC00000] ∧
    leaves 0x80000000 0 0 (.fsqrt { abc with et := .f32 }) = some [.x 8 0x80000000] ∧ leaves 0x40400000 0x3F800000 0 (.fsub { abc with et := .f32 }) = some [.x 8 0x40000000] ∧
    leaves 0x3FC00000 0x40000000 0x3F800000 (.ffma { abc with et := .f32 }) = some [.x 8 0x40800000] := by decide +kernel

/-- R102: 1000 in e4m3 is NaN without SAT and 448 with it. -/
theorem test_overflow_e4m3 :
    leaves 1000 0 0 (.fcvt { abc with et := .e4m3, sub := 7 }) = some [.x 8 0x7F] ∧ leaves 1000 0 0 (.fcvt { abc with et := .e4m3, mod := 8, sub := 7 }) = some [.x 8 0x7E] := by
  decide +kernel

/-- What a record leaves in flight first, on vectors v1, v2 and v3. -/
def leavesV (a b c : Vec) (i : Instr) : Option (List Effect) :=
  let s := { (live.modHere fun t => { t with ve := { t.ve with v := upd (upd (upd t.ve.v 1 a) 2 b) 3 c } }) with agent := .ve }
  match exec i s with
  | .next t => t.here.flight.head?.map (·.effects)
  | _ => none
/-- Whether a register is written with a vector of these bits, wherever the mask lets it. -/
def writes (r : Option (List Effect)) (v : Vec) : Bool :=
  match r with
  | some [.vreg _ x _] => decide (x = v)
  | _ => false

/-- R160: LUT 0xE8 is the majority, 0x96 the exclusive or of three. -/
theorem test_lop3 :
    writes (leavesV 0b1100 0b1010 0b0110 (.vlop3 { et := .n32, d := .v 4, a := .v 1, b := .v 2, c := .v 3, sub := 0xE8 } {})) 0b1110 = true ∧
    writes (leavesV 0b1100 0b1010 0b0110 (.vlop3 { et := .n32, d := .v 4, a := .v 1, b := .v 2, c := .v 3, sub := 0x96 } {})) 0 = true := by decide +kernel

/-- R162: a shift by the width or more, in element 0 of n8; the sign fills from the left. -/
theorem test_shifts :
    writes (leavesV 0x81 8 0 (.vshl { et := .n8, d := .v 4, a := .v 1, b := .v 2 } {})) 0 = true ∧
    writes (leavesV 0x81 7 0 (.vshl { et := .n8, d := .v 4, a := .v 1, b := .v 2 } {})) 0x80 = true ∧
    writes (leavesV 0x81 9 0 (.vsra { et := .n8, d := .v 4, a := .v 1, b := .v 2 } {})) 0xFF = true := by decide +kernel

/-- R168: 1*2 + 3*4 + (-1)*5 + 0*6 + 100 = 109. -/
theorem test_dot4 :
    writes (leavesV 0x00FF0301 0x06050402 100 (.vdot4 { et := .i8, d := .v 4, a := .v 1, b := .v 2, c := .v 3 } {})) 109 = true := by decide +kernel

/-- R172: the sum of a group of four elements; what lies above the groups' results is zero. -/
theorem test_reduction :
    writes (leavesV 0x00000004000000030000000200000001 0 0 (.vred { et := .i32, d := .v 4, a := .v 1, sub := 2 } {})) 10 = true := by decide +kernel

/-- R45 by hand: granule 1 gives 0x9E3779B1 times one, whose upper half is 0; granule 2^12 gives 0x9E3. -/
theorem test_interleave : interleaveIndex 0x10000 = 0 ∧ interleaveIndex 0x10000000 = 0x9E3 := by decide +kernel

/-- R361: an empty record is stamped 0xA5C3 with V, whose bit is the highest of bytes 6 and 7. -/
theorem test_stamp : layoutStamp 0 = 0x25C3 := by decide +kernel

/-- R399: the last byte that is expected flips the phase. -/
theorem test_barrier_flip :
    ({ arrived := 5, phase := false, ovf := false, expected := 5 } : Barrier).flip = { arrived := 0, phase := true, ovf := false, expected := 5 } := by decide +kernel

/-- An instruction placed where the machine fetches runs as the first after reset: a word and a record. -/
theorem test_first_instruction :
    goesOn (step (State.reset.withFetchWord 128 (fields [(0x02, 0), (0x04, 8), (0x01, 24), (0x02, 32), (0x03, 40)]))) = true ∧
    goesOn (step (State.reset.withFetchWord 512 (fields [(0x80, 0), (1, 8)]))) = true := by decide +kernel

end Sys2Proof.Tests
end

section
/-!
PROOFS. A step of the package is the turn of the tile that moves, and the turn of an agent is the meaning of what it has
fetched (R29, R30, R71, R80, R127).
-/
namespace Sys2Proof.Machine

/-! ### The tile that moves -/

/-- A tile in the turn of an agent lets nothing else go first. -/
theorem Tile.yields_of_agentPhase {t : Tile} {ag : Agent} (h : t.phase = ag.phase) : t.yields = false := by
  cases ag <;> simp [Tile.yields, h, Agent.phase]

/-- With an empty agenda the moving tile moves, unless it waits for a scan or yields. -/
theorem step_of_emptyAgenda {s : State} {o : Out} (ha : s.agenda = []) (hu : s.unswept = none) (hy : s.here.yields = false)
    (ht : s.tileTurn exec = some o) : step s = o := by
  simp [step, State.turn, ha, State.progress, hu, hy, ht]

/-- The agenda's head names the tile that moves. -/
theorem step_of_agendaRun {s : State} {d : DieIx} {k : TileIx} {rest : List Turn} {o : Out} (ha : s.agenda = .run d k :: rest)
    (ht : State.tileTurn exec { s with agenda := rest, die := d, tile := k } = some o) : step s = o := by
  simp only [step, State.turn, ha, ht, Option.getD_some]

/-- A step is the turn of the tile that moves, in the turn of one of its agents. -/
theorem step_of_moves {s s1 : State} {ag : Agent} {o : Out} (hm : Claims.Moves s s1) (hp : s1.here.phase = ag.phase)
    (ht : s1.tileTurn exec = some o) : step s = o := by
  rcases hm with ⟨d, k, rest, ha, rfl⟩ | ⟨ha, hu, rfl⟩
  · exact step_of_agendaRun ha ht
  · exact step_of_emptyAgenda ha hu (Tile.yields_of_agentPhase hp) ht

/-- A running tile on a live die is neither idle nor halted. -/
theorem tileTurn_guard {ag : Agent} {s : State} (h : Claims.TurnOf ag s) :
    (!s.live s.die || !(decide (s.here.mode = .running) || decide (s.here.mode = .ending))) = false := by
  rcases h.runs with hr | hr <;> simp [h.live, hr]

theorem tileTurn_cc {s : State} (h : Claims.TurnOf .cc s) (hf : s.here.freshTrap = false) :
    s.tileTurn exec = s.ccTurn exec := by
  have hp : s.here.phase = .cc := h.phase
  simp only [State.tileTurn, tileTurn_guard h, hp, hf, Bool.false_and, Bool.false_eq_true, if_false]

theorem tileTurn_seq {ag : Agent} {s : State} (h : Claims.TurnOf ag s) (hne : ag ≠ .cc)
    (hc : ag = .ve → s.here.cutDue = false) : s.tileTurn exec = s.seqTurn exec ag := by
  have hp := h.phase
  cases ag with
  | cc => exact absurd rfl hne
  | ve => simp only [State.tileTurn, tileTurn_guard h, hp, hc, Agent.phase, Bool.false_eq_true, if_false]
  | me | le | se => simp only [State.tileTurn, tileTurn_guard h, hp, Agent.phase, Bool.false_eq_true, if_false]

/-- An outcome with the agent's turn over is the outcome of the turn. -/
theorem took_of_hasTurn {ag : Agent} {s : State} {o : Out} (hp : s.here.phase = ag.phase) (ho : Claims.HasTurn ag o) :
    s.took o = some o := by
  cases o with
  | next t => simp [State.took, hp, ho t rfl]
  | fault | refused => rfl

/-! ### The turn of the control core -/

section
variable {s : State} {w : BitVec 128} (hm : s.here.cc.mode = .ready) (hs : s.here.stalled = none)
  (ho : s.here.overrun = false) (hw : s.here.wordAt = some w)
include hm hs ho hw

theorem ccTurn_of_decoded {i : Instr} (hi : decodeWord w = .ok i) : s.ccTurn exec = s.took (exec i { s with agent := .cc }) := by
  simp [State.ccTurn, hm, hs, ho, hw, hi]

theorem ccTurn_of_bad {f : Failure} (hf : decodeWord w = .bad f) :
    s.ccTurn exec = some (.next (s.preciseTrap 0x0001 f.tval)) := by
  simp [State.ccTurn, hm, hs, ho, hw, hf]

end

/-! ### The turn of a sequencer -/

@[simp] theorem Tile.reread_phase (t : Tile) (ag : Agent) (off : Nat) (w : BitVec 512) : (t.reread ag off w).phase = t.phase := by
  simp only [Tile.reread]
  split
  · split <;> rfl
  · rfl

section
variable {s : State} {ag : Agent} {off k n : Nat} {w : BitVec 512}
  (hr : s.here.seqReady (nth s.here.seqs ag.seqIx) = true)
  (hw : s.here.recordAt (nth s.here.seqs ag.seqIx) = some (off, k, n, w))
include hr hw

theorem issueTurn_of_bad {f : Failure} (hf : decodeRecord ag w = .bad f) :
    s.issueTurn exec ag = some (.next ((s.modHere fun t => t.reread ag off w).seqTrap ag 0x0001 f.tval none off 0)) := by
  simp only [State.issueTurn, hr, hw, if_true, hf]

theorem issueTurn_of_loopsBroken {i : Instr} (hi : decodeRecord ag w = .ok i)
    (hb : loopsBroken (nth (s.modHere fun t => t.reread ag off w).here.seqs ag.seqIx) i k n = true) :
    s.issueTurn exec ag =
      some (.next ((s.modHere fun t => t.reread ag off w).seqTrap ag 0x0001 (Failure.tval ⟨0, 11⟩) none off 0)) := by
  simp only [State.issueTurn, hr, hw, if_true, hi, hb]

theorem issueTurn_of_early {i : Instr} (hi : decodeRecord ag w = .ok i)
    (hb : loopsBroken (nth (s.modHere fun t => t.reread ag off w).here.seqs ag.seqIx) i k n = false)
    (he : (s.modHere fun t => t.reread ag off w).slotTurn ag (slotArrival i) = .early) :
    s.issueTurn exec ag = some (.next (s.modHere fun t => t.reread ag off w).pass) := by
  simp only [State.issueTurn, hr, hw, if_true, hi, hb, he, Bool.false_eq_true, if_false]

theorem issueTurn_of_go {i : Instr} (hi : decodeRecord ag w = .ok i)
    (hb : loopsBroken (nth (s.modHere fun t => t.reread ag off w).here.seqs ag.seqIx) i k n = false)
    (hg : (s.modHere fun t => t.reread ag off w).slotTurn ag (slotArrival i) = .go) :
    let s2 := s.modHere fun t => t.reread ag off w
    let q := nth s2.here.seqs ag.seqIx
    s.issueTurn exec ag = s2.took (exec i { s2.modHere (fun t => t.setSeq ag (q.holding off w i)) with agent := ag }) := by
  simp only [State.issueTurn, hr, hw, if_true, hi, hb, hg, Bool.false_eq_true, if_false]

end

/-! ### The agenda -/

/-- A row of a tile's own cycle is no word. -/
theorem coded_of_ofCycle {i : Instr} (h : ofCycle i = true) : i.coded = none := by
  unfold ofCycle at h
  split at h
  case h_14 => cases h
  all_goals rfl

end Sys2Proof.Machine

namespace Sys2Proof.Claims

open Sys2Proof.Machine

theorem stepRunsWord : StepRunsWord := by
  intro s s1 w hm ht hmode hst hfresh hover hw
  have turn := tileTurn_cc ht hfresh
  refine ⟨fun i hi ho => step_of_moves hm ht.phase ?_, fun f hf => step_of_moves hm ht.phase ?_⟩
  · rw [turn, ccTurn_of_decoded hmode hst hover hw hi]
    exact took_of_hasTurn ht.phase ho
  · rw [turn, ccTurn_of_bad hmode hst hover hw hf]

theorem stepRunsRecord : StepRunsRecord := by
  intro s s1 ag off k n w hm hne ht hcut
  have turn := tileTurn_seq ht hne hcut
  refine ⟨fun v x hx => step_of_moves hm ht.phase ?_, fun hx hr hw => ?_⟩
  · simp only [turn, State.seqTurn, hx]
  have issue : s1.tileTurn exec = s1.issueTurn exec ag := by simp only [turn, State.seqTurn, hx]
  have hp : (s1.modHere fun t => t.reread ag off w).here.phase = ag.phase := by simp [ht.phase]
  refine ⟨fun i hi hb hg => ?_, fun i hi hb => ?_, fun i hi hb he => ?_, fun f hf => ?_⟩
  · intro s3 ho
    exact step_of_moves hm ht.phase ((issue.trans (issueTurn_of_go hr hw hi hb hg)).trans (took_of_hasTurn hp ho))
  · exact step_of_moves hm ht.phase (issue.trans (issueTurn_of_loopsBroken hr hw hi hb))
  · exact step_of_moves hm ht.phase (issue.trans (issueTurn_of_early hr hw hi hb he))
  · exact step_of_moves hm ht.phase (issue.trans (issueTurn_of_bad hr hw hf))

theorem agendaRunsEvents : AgendaRunsEvents := by
  intro s i rest ha
  refine ⟨fun hc ho => ?_, fun hc => ?_, fun ho => ?_⟩
  · simp [step, State.turn, ha, hc, ho]
  · simp [step, State.turn, ha, hc]
  · simp [step, State.turn, ha, coded_of_ofCycle ho, ho]

end Sys2Proof.Claims

open Sys2Proof Sys2Proof.Machine

/-- Settles O58: a step is the turn of the tile that moves, whose agent gives what it has fetched its meaning. -/
theorem stepRunsDecoded : Obligations.StepRunsDecoded :=
  ⟨Claims.stepRunsWord, Claims.stepRunsRecord, Claims.agendaRunsEvents⟩
end

section
/-!
PROOFS. The ports of the package and the two ends of a link: what a change of one port leaves alone (R18, R20, R348, R350).
-/
namespace Sys2Proof.Machine

/-! ### One port changed -/

/-- Port p of die d replaced. -/
def State.setPort (s : State) (d : DieIx) (p : Fin 8) (x : Port) : State := s.modPort d p fun _ => x

theorem State.modPort_eq_setPort (s : State) (d : DieIx) (p : Fin 8) (f : Port → Port) :
    s.modPort d p f = s.setPort d p (f (s.portAt d p)) := rfl

@[simp] theorem State.setPort_reqs (s : State) (d : DieIx) (p : Fin 8) (x : Port) : (s.setPort d p x).reqs = s.reqs := rfl
@[simp] theorem State.setPort_io (s : State) (d : DieIx) (p : Fin 8) (x : Port) : (s.setPort d p x).io = s.io := rfl

theorem State.portAt_setPort (s : State) (d : DieIx) (p : Fin 8) (x : Port) (e : DieIx) (k : Fin 8) :
    (s.setPort d p x).portAt e k = if e = d ∧ k = p then x else s.portAt e k := by
  simp only [State.portAt, State.setPort, State.modPort, State.dieAt_modDie]
  by_cases h : e = d
  · subst h; simp [nth_upd]
  · simp [h]

@[simp] theorem State.portAt_setPort_same (s : State) (d : DieIx) (p : Fin 8) (x : Port) : (s.setPort d p x).portAt d p = x := by
  simp [State.portAt_setPort]

@[simp] theorem State.setPort_setPort (s : State) (d : DieIx) (p : Fin 8) (x y : Port) :
    (s.setPort d p x).setPort d p y = s.setPort d p y := by
  simp [State.setPort, State.modPort, State.modDie, State.setDie, State.dieAt]

/-- What a change of a port leaves of a die. -/
theorem State.dieAt_setPort (s : State) (d : DieIx) (p : Fin 8) (x : Port) (e : DieIx) :
    (s.setPort d p x).dieAt e = { s.dieAt e with ports := ((s.setPort d p x).dieAt e).ports } := by
  simp only [State.setPort, State.modPort, State.dieAt_modDie]
  split
  · subst_vars; rfl
  · rfl

@[simp] theorem State.torus_setPort (s : State) (d : DieIx) (p : Fin 8) (x : Port) (e : DieIx) (k : Nat) :
    ((s.setPort d p x).dieAt e).torus k = (s.dieAt e).torus k := by
  rw [State.dieAt_setPort]; rfl

@[simp] theorem State.partner_setPort (s : State) (d : DieIx) (p : Fin 8) (x : Port) (e : DieIx) (k : Fin 8) :
    (s.setPort d p x).partner e k = s.partner e k := by
  simp [State.partner]

@[simp] theorem State.leaves_setPort (s : State) (d : DieIx) (p : Fin 8) (x : Port) (e : DieIx) (k : Fin 8) :
    (s.setPort d p x).leaves e k = s.leaves e k := by
  simp [State.leaves]

@[simp] theorem State.findReq_setPort (s : State) (d : DieIx) (p : Fin 8) (x : Port) (q : Nat) :
    (s.setPort d p x).findReq q = s.findReq q := rfl

/-! ### Requests found and replaced -/

theorem State.findReq_id {s : State} {q : Nat} {r : Req} (h : s.findReq q = some r) : r.id = q := by
  simpa using List.find?_some h

/-- Replacing a request leaves every other, and puts it where one of its number stands. -/
theorem State.findReq_setReq (s : State) (r : Req) (q : Nat) :
    (s.setReq r).findReq q = if q = r.id then (s.findReq q).map fun _ => r else s.findReq q := by
  unfold State.findReq State.setReq
  induction s.reqs with
  | nil => simp
  | cons a l ih =>
    simp only [List.map_cons, List.find?_cons]
    by_cases ha : a.id = r.id
    · by_cases hq : r.id = q <;> simp_all [eq_comm]
    · by_cases hq : a.id = q <;> simp_all [eq_comm]

theorem State.findReq_setReq_ne (s : State) (r : Req) {q : Nat} (h : q ≠ r.id) : (s.setReq r).findReq q = s.findReq q := by
  rw [State.findReq_setReq, if_neg h]

theorem State.findReq_setReq_of_found {s : State} {r u : Req} {q : Nat} (h : s.findReq q = some u) (hr : r.id = q) :
    (s.setReq r).findReq q = some r := by
  rw [State.findReq_setReq, if_pos hr.symm, h, Option.map_some]

/-! ### Beside the ports -/

theorem onlyPorts_refl (s : State) : Claims.OnlyPorts s s := ⟨fun _ => rfl, rfl⟩

theorem onlyPorts_trans {s t u : State} (h : Claims.OnlyPorts s t) (k : Claims.OnlyPorts t u) : Claims.OnlyPorts s u := by
  refine ⟨fun e => ?_, ?_⟩
  · rw [k.1 e, h.1 e]
  · rw [k.2, h.2]

theorem onlyPorts_setPort (s : State) (d : DieIx) (p : Fin 8) (x : Port) : Claims.OnlyPorts s (s.setPort d p x) :=
  ⟨s.dieAt_setPort d p x, rfl⟩

theorem onlyPorts_setReq (s : State) (r : Req) : Claims.OnlyPorts s (s.setReq r) := ⟨fun _ => rfl, rfl⟩

theorem onlyPorts_report (s : State) {r : Report} (h : r.toHost = false) : Claims.OnlyPorts s (s.report r) := by
  refine ⟨fun _ => rfl, ?_⟩
  simp [State.report, h]

/-! ### The ends of a link -/

/-- The port at the other end of a link stands on another die. -/
theorem State.partner_ne {s : State} {d e : DieIx} {p k : Fin 8} (h : s.partner d p = some (e, k)) : e ≠ d := by
  have other : ∀ d : DieIx, ∀ p : Fin 8, p.val ≠ 0 → p.val ≠ 7 →
      (Fin.ofNat 8 (if localCoord d (portDim p) = 0 then d.val + 2 ^ portDim p else d.val - 2 ^ portDim p) : DieIx) ≠ d := by
    decide
  simp only [State.partner] at h
  split at h
  · cases h
  next hp =>
    split at h
    · cases h
      exact other d p (fun h0 => hp (Or.inl h0)) fun h7 => hp (Or.inr h7)
    · cases h

theorem State.partner_seven (s : State) (d : DieIx) : s.partner d 7 = none := rfl

/-- A port without a partner that is neither the local port nor the I/O port leads out of the package. -/
theorem State.leaves_eq (s : State) (d : DieIx) {p : Fin 8} (h0 : p ≠ 0) (h7 : p ≠ 7) :
    s.leaves d p = (s.partner d p).isNone := by
  have h0' : p.val ≠ 0 := fun h => h0 (Fin.ext h)
  have h7' : p.val ≠ 7 := fun h => h7 (Fin.ext h)
  simp [State.leaves, h0', h7']

theorem linkBecomes_setPort (s : State) (d : DieIx) (p : Fin 8) (x : Port) : Claims.LinkBecomes s (s.setPort d p x) d p x id where
  near := s.portAt_setPort_same d p x
  far e k h := by simp [State.portAt_setPort, State.partner_ne h]
  others e k h _ := by
    rw [State.portAt_setPort, if_neg fun hk => ?_]
    rcases h with h | h
    · exact h hk.1
    · exact h hk.2
  rest := onlyPorts_setPort s d p x

/-- A change of both ends is one at either end. -/
theorem linkBecomes_modLink (s : State) (d : DieIx) (p : Fin 8) (f : Port → Port) :
    Claims.LinkBecomes s (s.modLink d p f) d p (f (s.portAt d p)) f := by
  have near := linkBecomes_setPort s d p (f (s.portAt d p))
  unfold State.modLink
  rw [State.modPort_eq_setPort]
  cases hp : s.partner d p with
  | none => exact { near with far := fun e k h => by rw [hp] at h; cases h }
  | some ek =>
    obtain ⟨e, k⟩ := ek
    have hne : e ≠ d := State.partner_ne hp
    have far : (s.setPort d p (f (s.portAt d p))).portAt e k = s.portAt e k := near.far e k hp
    show Claims.LinkBecomes s ((s.setPort d p (f (s.portAt d p))).modPort e k f) d p (f (s.portAt d p)) f
    rw [State.modPort_eq_setPort, far]
    refine { near := ?_, far := fun e' k' h' => ?_, others := fun e' k' h1 h2 => ?_, rest := onlyPorts_trans near.rest (onlyPorts_setPort ..) }
    · rw [State.portAt_setPort, if_neg fun h => hne h.1.symm, near.near]
    · rw [hp] at h'
      cases h'
      simp
    · rw [State.portAt_setPort, if_neg fun h => h2 (by rw [hp, h.1, h.2]), near.others e' k' h1 h2]

theorem linkBecomes_report {s t : State} {d : DieIx} {p : Fin 8} {x : Port} {f : Port → Port} {r : Report}
    (h : Claims.LinkBecomes s t d p x f) (hr : r.toHost = false) : Claims.LinkBecomes s (t.report r) d p x f :=
  { h with rest := onlyPorts_trans h.rest (onlyPorts_report t hr) }

@[simp] theorem State.modLink_reqs (s : State) (d : DieIx) (p : Fin 8) (f : Port → Port) : (s.modLink d p f).reqs = s.reqs := by
  unfold State.modLink; cases s.partner d p <;> rfl

@[simp] theorem State.modLink_io (s : State) (d : DieIx) (p : Fin 8) (f : Port → Port) : (s.modLink d p f).io = s.io := by
  unfold State.modLink; cases s.partner d p <;> rfl

@[simp] theorem State.report_reqs (s : State) (r : Report) : (s.report r).reqs = s.reqs := rfl
@[simp] theorem State.report_reports (s : State) (r : Report) : (s.report r).io.reports = s.io.reports ++ [r] := rfl
@[simp] theorem State.report_dstate (s : State) (r : Report) : (s.report r).io.dstate = s.io.dstate := rfl
@[simp] theorem State.portAt_report (s : State) (r : Report) (d : DieIx) (p : Fin 8) : (s.report r).portAt d p = s.portAt d p := rfl

end Sys2Proof.Machine
end

section
/-!
PROOFS. Packets of a link: reception in order, acknowledgements and replays (R348 to R350, R412).
-/
namespace Sys2Proof.Machine

/-! ### Reception -/

theorem reception_accepted {wanted n : BitVec 12} {good : Bool} (h : good = true ∧ n = wanted) :
    reception wanted n good = .accepted := by
  simp [reception, h]

theorem reception_duplicate {wanted n : BitVec 12} {good : Bool} (ha : ¬ (good = true ∧ n = wanted))
    (hd : good = true ∧ (wanted - n).toNat ≤ 2048) : reception wanted n good = .duplicate := by
  have hne : n ≠ wanted := fun h => ha ⟨hd.1, h⟩
  simp only [reception, hd.1, Bool.not_true, Bool.false_eq_true, if_false, if_neg hne, if_pos hd.2]

theorem reception_replay {wanted n : BitVec 12} {good : Bool}
    (h : ¬ ((good = true ∧ n = wanted) ∨ (good = true ∧ (wanted - n).toNat ≤ 2048))) : reception wanted n good = .replay := by
  cases good
  · rfl
  · have hn : n ≠ wanted ∧ ¬ (wanted - n).toNat ≤ 2048 := by simpa only [not_or, true_and] using h
    simp only [reception, Bool.not_true, Bool.false_eq_true, if_false, if_neg hn.1, if_neg hn.2]

/-- The sender whose packets reach a port: its partner, or the port itself for what leaves the package by it. -/
theorem State.sender_eq {s : State} {d e : DieIx} {p k : Fin 8} (hp : p ≠ 0)
    (h : s.partner d p = some (e, k) ∨ (s.partner d p = none ∧ e = d ∧ k = p)) : s.sender d p = some (e, k) := by
  have hp' : p.val ≠ 0 := fun h => hp (Fin.ext h)
  rcases h with h | ⟨h, rfl, rfl⟩ <;> simp [State.sender, hp', h]

/-- An entry that is next has not been received. -/
theorem Port.nextEntry_received {y : Port} {n : Nat} {g : Egress} (h : y.nextEntry = some (n, g)) : g.received = false := by
  obtain ⟨⟨g', n'⟩, hf, he⟩ := Option.map_eq_some_iff.mp h
  cases he
  simpa using List.find?_some hf

/-- A sender's port after packet `number` of its entry n, which has become g. -/
def Port.sentEntry (y : Port) (n : Nat) (number : BitVec 12) (g : Egress) : Port :=
  { y with egress := y.egress.set n g, seqOut := if number = y.seqOut then y.seqOut + 1 else y.seqOut }

/-- The next packet of a link may be sent: its entry, its number, and that nothing keeps it back. -/
structure Sends (s : State) (d : DieIx) (p : Fin 8) (e : DieIx) (k : Fin 8) (n : Nat) (g : Egress) (number : BitVec 12) : Prop where
  sender : s.sender d p = some (e, k)
  entry : (s.portAt e k).nextEntry = some (n, g)
  numbered : (s.portAt e k).nextNumber g = number
  free : (!(s.portAt e k).open_ || g.lost || !(s.portAt e k).maySend number) = false

/-- The request of an entry, if it is still there, has crossed the link to port p of die d. -/
def State.goesOn (s : State) (q : Nat) (d : DieIx) (p : Fin 8) : State :=
  match s.findReq q with
  | some r => s.setReq (s.crossLink r d p)
  | none => s

theorem modify_set_same {α : Type} (l : List α) (n : Nat) (a : α) (f : α → α) : (l.set n a).modify n f = l.set n (f a) := by
  induction l generalizing n with
  | nil => simp
  | cons b l ih => cases n <;> simp [ih]

section
variable {s : State} {d e : DieIx} {p k : Fin 8} {n : Nat} {g : Egress} {number : BitVec 12} {good : Bool}

/-- A packet out of order: everything is dropped until the replay. -/
theorem linkPacketReceive_replay (h : Sends s d p e k n g number) (hr : reception (s.portAt d p).seqIn number good = .replay) :
    exec (.linkPacketReceive d p good) s = .next (s.setPort e k ((s.portAt e k).sentEntry n number
      { g with sent := some (number - BitVec.ofNat 12 g.got), lost := true })) := by
  show execLinkPacketReceive d p good s = _
  simp only [execLinkPacketReceive, h.sender, h.entry, h.numbered, hr, if_neg (Bool.eq_false_iff.mp h.free)]
  rfl

/-- A packet accepted before: it counts as got, and nothing else comes of it. -/
theorem linkPacketReceive_duplicate (h : Sends s d p e k n g number) (hr : reception (s.portAt d p).seqIn number good = .duplicate) :
    exec (.linkPacketReceive d p good) s = .next (s.setPort e k ((s.portAt e k).sentEntry n number
      { g with sent := some (number - BitVec.ofNat 12 g.got), got := g.got + 1, received := decide (g.packets ≤ g.got + 1) })) := by
  show execLinkPacketReceive d p good s = _
  simp only [execLinkPacketReceive, h.sender, h.entry, h.numbered, hr, if_neg (Bool.eq_false_iff.mp h.free),
    State.modPort_eq_setPort, State.portAt_setPort_same, State.setPort_setPort, modify_set_same]
  rfl

/-- The ports after a packet that is accepted. -/
def State.afterPacket (s : State) (d : DieIx) (p : Fin 8) (e : DieIx) (k : Fin 8) (n : Nat) (g : Egress) (number : BitVec 12) : State :=
  let s1 := s.setPort e k { (s.portAt e k).sentEntry n number
    { g with sent := some (number - BitVec.ofNat 12 g.got), got := g.got + 1, received := decide (g.packets ≤ g.got + 1) } with run := 0 }
  s1.setPort d p { s1.portAt d p with seqIn := number + 1 }

/-- A packet that is accepted: with the last of its entry the request goes on. -/
theorem linkPacketReceive_accepted (h : Sends s d p e k n g number) (hr : reception (s.portAt d p).seqIn number good = .accepted) :
    exec (.linkPacketReceive d p good) s = .next (if g.packets ≤ g.got + 1
      then (s.afterPacket d p e k n g number).goesOn g.req d p else s.afterPacket d p e k n g number) := by
  show execLinkPacketReceive d p good s = _
  simp only [execLinkPacketReceive, h.sender, h.entry, h.numbered, hr, if_neg (Bool.eq_false_iff.mp h.free),
    State.modPort_eq_setPort, State.portAt_setPort_same, State.setPort_setPort, modify_set_same]
  rfl

end

/-! ### Where a request goes on -/

theorem onlyPorts_goesOn (s : State) (q : Nat) (d : DieIx) (p : Fin 8) : Claims.OnlyPorts s (s.goesOn q d p) := by
  unfold State.goesOn
  split
  · exact onlyPorts_setReq s _
  · exact onlyPorts_refl s

@[simp] theorem State.goesOn_io (s : State) (q : Nat) (d : DieIx) (p : Fin 8) : (s.goesOn q d p).io = s.io := by
  unfold State.goesOn; split <;> rfl

@[simp] theorem State.portAt_goesOn (s : State) (q : Nat) (d : DieIx) (p : Fin 8) (e : DieIx) (k : Fin 8) :
    (s.goesOn q d p).portAt e k = s.portAt e k := by
  unfold State.goesOn; split <;> rfl

@[simp] theorem State.crossLink_id (s : State) (r : Req) (d : DieIx) (p : Fin 8) : (s.crossLink r d p).id = r.id := by
  unfold State.crossLink
  split
  · split
    · rfl
    · split
      · rfl
      · split <;> rfl
  · rfl

theorem State.findReq_goesOn_ne {s : State} {q q' : Nat} {d : DieIx} {p : Fin 8} (h : q' ≠ q) :
    (s.goesOn q d p).findReq q' = s.findReq q' := by
  unfold State.goesOn
  split
  next r hr => exact State.findReq_setReq_ne s _ (by rw [State.crossLink_id, State.findReq_id hr]; exact h)
  next => rfl

theorem State.findReq_goesOn {s : State} {q : Nat} {r : Req} (d : DieIx) (p : Fin 8) (h : s.findReq q = some r) :
    (s.goesOn q d p).findReq q = some (s.crossLink r d p) := by
  have he : s.goesOn q d p = s.setReq (s.crossLink r d p) := by simp only [State.goesOn, h]
  rw [he]
  exact State.findReq_setReq_of_found h (by rw [State.crossLink_id, State.findReq_id h])

/-- A request whose packet was in an egress queue stands one hop further. -/
theorem State.crossLink_of_egress (s : State) (r : Req) (d : DieIx) {p : Fin 8} (hp : p ≠ 0) {e : DieIx} {k : Fin 8} {h : Nat}
    (hr : r.stage = .egress e k h) :
    s.crossLink r d p = if p = 7 then { r with stage := .home, crossed := true }
      else if (s.partner d p).isSome then { r with stage := .fabric d (h + 1) }
      else { r with stage := if r.away.isSome then .home else if r.back then .done else .ingress r.target } := by
  simp only [State.crossLink, hr]
  by_cases h7 : p = 7
  · subst h7; rfl
  · have h7' : p.val ≠ 7 := fun h => h7 (Fin.ext h)
    rw [if_neg h7', if_neg h7, State.leaves_eq s d hp h7]
    cases s.partner d p <;> cases r.away <;> rfl

@[simp] theorem State.partner_afterPacket (s : State) (d : DieIx) (p : Fin 8) (e : DieIx) (k : Fin 8) (n : Nat) (g : Egress)
    (number : BitVec 12) (d' : DieIx) (p' : Fin 8) : (s.afterPacket d p e k n g number).partner d' p' = s.partner d' p' := by
  simp [State.afterPacket]

/-! ### The ports after a packet -/

theorem State.portAt_afterPacket (s : State) (d : DieIx) (p : Fin 8) (e : DieIx) (k : Fin 8) (n : Nat) (g : Egress)
    (number : BitVec 12) (e' : DieIx) (k' : Fin 8) :
    let a := if e' = e ∧ k' = k then { (s.portAt e k).sentEntry n number { g with
          sent := some (number - BitVec.ofNat 12 g.got), got := g.got + 1, received := decide (g.packets ≤ g.got + 1) } with run := 0 }
      else s.portAt e' k'
    (s.afterPacket d p e k n g number).portAt e' k' = if e' = d ∧ k' = p then { a with seqIn := number + 1 } else a := by
  intro a
  simp only [State.afterPacket, State.portAt_setPort]
  split
  next h => obtain ⟨rfl, rfl⟩ := h; rfl
  next => rfl

theorem onlyPorts_afterPacket (s : State) (d : DieIx) (p : Fin 8) (e : DieIx) (k : Fin 8) (n : Nat) (g : Egress)
    (number : BitVec 12) : Claims.OnlyPorts s (s.afterPacket d p e k n g number) :=
  onlyPorts_trans (onlyPorts_setPort ..) (onlyPorts_setPort ..)

/-! ### Acknowledgements -/

/-- Whether an acknowledgement covers the last packet of an entry that has been received. -/
def Egress.coveredBy (upto : BitVec 12) (h : Egress) : Bool :=
  h.received && h.sent.any fun n => decide ((upto - (n + BitVec.ofNat 12 (h.packets - 1))).toNat < 2048)

theorem execLinkAck_eq (d : DieIx) (p : Fin 8) (upto : BitVec 12) (s : State) :
    execLinkAck d p upto s = if ((s.portAt d p).egress.head?.map (Egress.coveredBy upto)).getD false
      then .next (s.modPort d p fun x => { x with egress := x.egress.dropWhile (Egress.coveredBy upto) })
      else .fault .notEnabled := by
  have by_test (f : Egress → Bool) (hf : f = Egress.coveredBy upto) :
      (if ((s.portAt d p).egress.head?.map f).getD false
        then .next (s.modPort d p fun x => { x with egress := x.egress.dropWhile f }) else .fault .notEnabled : Out) =
      if ((s.portAt d p).egress.head?.map (Egress.coveredBy upto)).getD false
        then .next (s.modPort d p fun x => { x with egress := x.egress.dropWhile (Egress.coveredBy upto) })
        else .fault .notEnabled := by rw [hf]
  refine by_test _ (funext fun g => ?_)
  unfold Egress.coveredBy
  cases g.sent <;> rfl

/-- R350: an acknowledgement that covers the first entry removes it, and those after it that are covered. -/
theorem linkAck_covered {s : State} {d : DieIx} {p : Fin 8} {upto : BitVec 12} {g : Egress} {rest : List Egress}
    (he : (s.portAt d p).egress = g :: rest) (hc : g.coveredBy upto = true) :
    exec (.linkAck d p upto) s =
      .next (s.setPort d p { s.portAt d p with egress := rest.dropWhile (Egress.coveredBy upto) }) := by
  show execLinkAck d p upto s = _
  rw [execLinkAck_eq, State.modPort_eq_setPort, he]
  simp [hc]

/-! ### Replays -/

/-- The port after a replay: nothing is lost any more, one more replay is counted, and the threshold's report is made once. -/
def Port.replayed (x : Port) : Port :=
  let count := if x.replays = 0xFFFFFFFF then x.replays else x.replays + 1
  { x with
    egress := x.egress.map (fun g => { g with lost := false }), replays := count, run := min 256 (x.run + 1)
    down := decide (255 ≤ x.run), armed := x.armed && decide (¬ (x.armed = true ∧ x.threshold ≤ count)) }

/-- The same port before the threshold is looked at. -/
def Port.countedReplay (x : Port) : Port :=
  { x with
    egress := x.egress.map (fun g => { g with lost := false })
    replays := if x.replays = 0xFFFFFFFF then x.replays else x.replays + 1, run := min 256 (x.run + 1)
    down := decide (255 ≤ x.run) }

theorem linkBecomes_setPort_again {s t : State} {d : DieIx} {p : Fin 8} {x : Port} (h : Claims.LinkBecomes s t d p x id) (y : Port) :
    Claims.LinkBecomes s (t.setPort d p y) d p y id where
  near := t.portAt_setPort_same d p y
  far e k hk := by rw [State.portAt_setPort, if_neg fun hc => State.partner_ne hk hc.1, h.far e k hk]
  others e k h1 h2 := by
    rw [State.portAt_setPort, if_neg (fun hc => h1.elim (· hc.1) (· hc.2)), h.others e k h1 h2]
  rest := onlyPorts_trans h.rest (onlyPorts_setPort ..)

/-- A threshold that REPLAYS has reached is reported, and is reported once. -/
theorem linkEvent_spec {s t : State} {d : DieIx} {p : Fin 8} {x : Port} (h : Claims.LinkBecomes s t d p x id) :
    (t.linkEvent d p).reqs = t.reqs ∧
    Claims.LinkBecomes s (t.linkEvent d p) d p { x with armed := x.armed && decide (¬ (x.armed = true ∧ x.threshold ≤ x.replays)) } id ∧
    (t.linkEvent d p).io.reports = t.io.reports ++ (if x.armed = true ∧ x.threshold ≤ x.replays then [.linkEvent d p] else []) := by
  have hx : t.portAt d p = x := h.near
  by_cases he : x.armed = true ∧ x.threshold ≤ x.replays
  · have ht : t.linkEvent d p = (t.setPort d p { x with armed := false }).report (.linkEvent d p) := by
      simp only [State.linkEvent, hx, he, decide_true, Bool.and_self, if_true, State.modPort_eq_setPort]
    have hl := linkBecomes_report (linkBecomes_setPort_again h { x with armed := false }) (r := .linkEvent d p) rfl
    rw [ht]
    exact ⟨rfl, by simpa [he] using hl, by simp [he]⟩
  · have ht : t.linkEvent d p = t := by
      have hb : (x.armed && decide (x.threshold ≤ x.replays)) = false := by simpa using he
      simp only [State.linkEvent, hx, hb, Bool.false_eq_true, if_false]
    rw [ht]
    exact ⟨rfl, by simpa [he] using h, by simp [he]⟩

/-- A port whose replay has been counted: the 256th in a row is reported (R350). -/
def State.replayCounted (s : State) (d : DieIx) (p : Fin 8) : State :=
  if 255 ≤ (s.portAt d p).run then (s.setPort d p (s.portAt d p).countedReplay).report (.linkDown d p)
  else s.setPort d p (s.portAt d p).countedReplay

theorem replayCounted_spec (s : State) (d : DieIx) (p : Fin 8) :
    (s.replayCounted d p).reqs = s.reqs ∧ Claims.LinkBecomes s (s.replayCounted d p) d p (s.portAt d p).countedReplay id ∧
      (s.replayCounted d p).io.reports = s.io.reports ++ (if 255 ≤ (s.portAt d p).run then [.linkDown d p] else []) := by
  have counted := linkBecomes_setPort s d p (s.portAt d p).countedReplay
  unfold State.replayCounted
  split
  · exact ⟨rfl, linkBecomes_report counted rfl, rfl⟩
  · exact ⟨rfl, counted, (List.append_nil _).symm⟩

/-- R350, R412: a replay sends again what was dropped; the 256th in a row holds the link down, and a threshold that is reached is
reported once. -/
theorem linkReplay_open {s : State} {d : DieIx} {p : Fin 8} (hl : ∃ g ∈ (s.portAt d p).egress, g.lost = true)
    (hp : (s.portAt d p).paused = false) (hd : (s.portAt d p).down = false) :
    let x := s.portAt d p
    let count := if x.replays = 0xFFFFFFFF then x.replays else x.replays + 1
    let excess := x.armed = true ∧ x.threshold ≤ count
    ∃ t, exec (.linkReplay d p) s = .next t ∧ t.reqs = s.reqs ∧ Claims.LinkBecomes s t d p x.replayed id ∧
      t.io.reports = s.io.reports ++ (if 255 ≤ x.run then [.linkDown d p] else []) ++ (if excess then [.linkEvent d p] else []) := by
  intro x count excess
  have hany : (x.egress.any (fun g => g.lost) && x.open_) = true := by
    simpa [Port.open_, x, hp, hd] using hl
  have h256 : min 256 (x.run + 1) = 256 ↔ 255 ≤ x.run := by omega
  obtain ⟨hreqs, ht, hreports⟩ := replayCounted_spec s d p
  obtain ⟨h1, h2, h3⟩ := linkEvent_spec ht
  refine ⟨(s.replayCounted d p).linkEvent d p, ?_, h1.trans hreqs, h2, by rw [h3, hreports]; rfl⟩
  show execLinkReplay d p s = _
  simp only [execLinkReplay, show s.portAt d p = x from rfl, hany, if_true, State.countReplay, State.modPort_eq_setPort,
    State.portAt_setPort_same, State.setPort_setPort, hd, h256, Bool.false_or, Bool.not_false, and_true, State.replayCounted, Port.countedReplay, x]

end Sys2Proof.Machine

namespace Sys2Proof.Claims

open Sys2Proof.Machine

theorem linkPacketsMove : LinkPacketsMove := by
  intro d p s
  refine ⟨?_, ?_, ?_⟩
  · -- the next packet, by the three ways in which the receiver takes it
    intro e k n g hp hends hnext hpaused hdown hlost y wanted number hroom good accepted known
    have hsend : (s.portAt e k).maySend number = true := by
      simp only [Port.maySend, Bool.or_eq_true, decide_eq_true_eq]
      exact hroom
    have hS : Sends s d p e k n g number :=
      ⟨State.sender_eq hp hends, hnext, rfl, by rw [hsend]; simp [Port.open_, hpaused, hdown, hlost]⟩
    have hrec := Port.nextEntry_received hnext
    by_cases ha : accepted
    · have hk : known := Or.inl ha
      refine ⟨_, linkPacketReceive_accepted hS (reception_accepted ha), ?_, ?_, ?_, ?_, ?_⟩
      · split <;> simp [State.afterPacket]
      · split
        · exact onlyPorts_trans (onlyPorts_afterPacket ..) (onlyPorts_goesOn ..)
        · exact onlyPorts_afterPacket ..
      · intro e' k'
        have hport := State.portAt_afterPacket s d p e k n g number e' k'
        have ht : ∀ q, (if g.packets ≤ g.got + 1 then (s.afterPacket d p e k n g number).goesOn q d p
            else s.afterPacket d p e k n g number).portAt e' k' = (s.afterPacket d p e k n g number).portAt e' k' := by
          intro q; split <;> simp
        rw [ht, hport]
        simp [ha, hk, hlost, Port.sentEntry, y]
      · intro hn
        rw [if_neg fun h => hn ⟨ha, h⟩]
        rfl
      · rintro ⟨-, hlast⟩
        rw [if_pos hlast]
        refine ⟨fun q hq => State.findReq_goesOn_ne hq, fun r e' k' h hr hst => ?_⟩
        rw [State.findReq_goesOn d p (show (s.afterPacket d p e k n g number).findReq g.req = some r from hr),
          State.crossLink_of_egress _ r d hp hst, State.partner_afterPacket]
    · by_cases hk : known
      · have hd : good = true ∧ (wanted - number).toNat ≤ 2048 := hk.resolve_left ha
        refine ⟨_, linkPacketReceive_duplicate hS (reception_duplicate ha hd), rfl, onlyPorts_setPort .., fun e' k' => ?_,
          fun _ => rfl, fun h => absurd h.1 ha⟩
        simp [State.portAt_setPort, ha, hk, hlost, Port.sentEntry, y]
      · refine ⟨_, linkPacketReceive_replay hS (reception_replay hk), rfl, onlyPorts_setPort .., fun e' k' => ?_,
          fun _ => rfl, fun h => absurd h.1 ha⟩
        simp [State.portAt_setPort, ha, hk, hrec, Port.sentEntry, y]


  · intro upto g rest covered he hc
    exact ⟨_, linkAck_covered he hc, rfl, rfl, linkBecomes_setPort ..⟩
  · intro hl hp hd
    exact linkReplay_open hl hp hd

end Sys2Proof.Claims
end

section
/-!
PROOFS. What an access to memory leaves alone: the requests in flight and the states of the dies, whatever it reads or
writes (R249, R258, R267, R306).
-/
namespace Sys2Proof.Machine

/-! ### Only the dies -/

/-- Beside its dies the package is as before. -/
def OnlyDies (s t : State) : Prop := t = { s with dies := t.dies }

theorem OnlyDies.refl (s : State) : OnlyDies s s := rfl

theorem OnlyDies.trans {s t u : State} (h : OnlyDies s t) (k : OnlyDies t u) : OnlyDies s u := by
  unfold OnlyDies at *; rw [k, h]

theorem OnlyDies.reqs {s t : State} (h : OnlyDies s t) : t.reqs = s.reqs := by rw [h]
theorem OnlyDies.io {s t : State} (h : OnlyDies s t) : t.io = s.io := by rw [h]
theorem OnlyDies.widen {s t : State} (h : OnlyDies s t) : t.widen = s.widen := by rw [h]

theorem onlyDies_modDie (s : State) (d : DieIx) (f : Die → Die) : OnlyDies s (s.modDie d f) := rfl

theorem onlyDies_modCtx (s : State) (d : DieIx) (q : Fin 16) (f : CtxDie → CtxDie) : OnlyDies s (s.modCtx d q f) := rfl

/-! ### Slices and race records -/

theorem onlyDies_spillSector {s t : State} {d : DieIx} {k : Nat} (h : s.spillSector d k = some t) : OnlyDies s t := by
  simp only [State.spillSector] at h
  split at h
  · cases h; exact OnlyDies.refl s
  · split at h
    · cases h; exact onlyDies_modDie ..
    · split at h
      · cases h
      · cases h; exact (onlyDies_modDie ..).trans (onlyDies_modDie ..)

theorem onlyDies_evictLine {s t : State} {d : DieIx} {line : Nat} (h : s.evictLine d line = some t) : OnlyDies s t := by
  obtain ⟨s2, h2, rfl⟩ := Option.map_eq_some_iff.mp h
  obtain ⟨s1, h1, h2⟩ := Option.bind_eq_some_iff.mp h2
  exact ((onlyDies_spillSector h1).trans (onlyDies_spillSector h2)).trans (onlyDies_modDie ..)

theorem onlyDies_makeRoom {s t : State} {d : DieIx} {line : Nat} (h : s.makeRoom d line = some t) : OnlyDies s t := by
  simp only [State.makeRoom] at h
  split at h
  · cases h; exact OnlyDies.refl s
  · obtain ⟨l, -, hl⟩ := List.exists_of_findSome?_eq_some h
    exact onlyDies_evictLine hl

theorem onlyDies_roomFor {s t : State} {d : DieIx} {va : Word} {l : Nat} {ks : List Nat} (h : s.roomFor d va l ks = .ok t) :
    OnlyDies s t := by
  induction ks generalizing s with
  | nil => cases h; exact OnlyDies.refl _
  | cons k ks ih =>
    simp only [State.roomFor] at h
    split at h
    · cases h
    next s1 h1 => exact (onlyDies_makeRoom h1).trans (ih h)

theorem onlyDies_raceSector {s t : State} {d : DieIx} {me : TileId} {seg : BitVec 11} {op : RaceOp} {k : Nat}
    (h : s.raceSector d me seg op k = .ok t) : OnlyDies s t := by
  simp only [State.raceSector] at h
  split at h
  · cases h
  · split at h
    · cases h; exact onlyDies_modDie ..
    · split at h
      · cases h
      · cases h; exact (onlyDies_modDie ..).trans (onlyDies_modDie ..)

theorem onlyDies_raceAccess {s t : State} {d : DieIx} {me : TileId} {seg : BitVec 11} {op : RaceOp} {ks : List Nat}
    (h : s.raceAccess d me seg op ks = .ok t) : OnlyDies s t := by
  induction ks generalizing s with
  | nil => cases h; exact OnlyDies.refl _
  | cons k ks ih =>
    simp only [State.raceAccess] at h
    split at h
    · cases h
    next s1 h1 => exact (onlyDies_raceSector h1).trans (ih h)

theorem onlyDies_track {s t : State} {d : DieIx} {k : Tracked} {p : Place} {va : Word} {n : Nat} {op : RaceOp}
    (h : s.track d k p va n op = .ok t) : OnlyDies s t := by
  simp only [State.track] at h
  split at h
  · cases h; exact OnlyDies.refl s
  · split at h
    next h1 => cases h; exact onlyDies_raceAccess h1
    · cases h

/-! ### DRAM -/

theorem onlyDies_walked (s : State) (d : DieIx) (asid : BitVec 16) (va : Word) : OnlyDies s (s.walked d asid va) := by
  simp only [State.walked]
  split
  · exact OnlyDies.refl s
  · split
    · exact OnlyDies.refl s
    · exact onlyDies_modDie ..

theorem onlyDies_dramRead {s t : State} {d : DieIx} {va : Word} {l n : Nat} {bs : List Byte}
    (h : s.dramRead d va l n = .ok (t, bs)) : OnlyDies s t := by
  simp only [State.dramRead] at h
  split at h
  · cases h
  · cases h1 : s.roomFor d va l (sectorsOf l n) with
    | error f => rw [h1] at h; cases h
    | ok s1 => rw [h1] at h; cases h; exact (onlyDies_roomFor h1).trans (onlyDies_modDie ..)

theorem onlyDies_dramWrite {s t : State} {d : DieIx} {va : Word} {l : Nat} {bs : List Byte}
    (h : s.dramWrite d va l bs = .ok t) : OnlyDies s t := by
  simp only [State.dramWrite] at h
  split at h
  · cases h
  · cases h1 : s.roomFor d va l (sectorsOf l bs.length) with
    | error f => rw [h1] at h; cases h
    | ok s1 => rw [h1] at h; cases h; exact (onlyDies_roomFor h1).trans (onlyDies_modDie ..)

/-! ### Accesses at a place -/

/-- The requests in flight and the states of the dies are as before. -/
structure Accessed (s t : State) : Prop where
  reqs : t.reqs = s.reqs
  dstate : t.io.dstate = s.io.dstate

theorem Accessed.refl (s : State) : Accessed s s := ⟨rfl, rfl⟩

theorem Accessed.trans {s t u : State} (h : Accessed s t) (k : Accessed t u) : Accessed s u :=
  ⟨k.reqs.trans h.reqs, k.dstate.trans h.dstate⟩

theorem OnlyDies.accessed {s t : State} (h : OnlyDies s t) : Accessed s t := ⟨h.reqs, by rw [h.io]⟩

theorem accessed_targetCheck (s : State) (src : DieIx) (w : Who) (a : Access) (va : Word) (x : Place) (phys : Bool) :
    Accessed s (s.targetCheck src w a va x phys).1 := by
  simp only [State.targetCheck]
  split
  · exact .refl s
  · split
    · exact .refl s
    · split
      · split <;> exact .refl s
      · split
        · exact .refl s
        · split
          · split <;> exact .refl s
          · split
            · exact .refl s
            · dsimp only
              exact ((onlyDies_walked ..).trans (onlyDies_modDie ..)).accessed

theorem accessed_fullCheck (s : State) (d : DieIx) (w : Who) (a : Access) (va : Word) : Accessed s (s.fullCheck d w a va).1 := by
  have h := (onlyDies_walked s d w.asid va).accessed
  delta State.fullCheck
  dsimp only
  split
  · exact h
  · split
    · exact h.trans (accessed_targetCheck ..)
    · exact h.trans ⟨rfl, rfl⟩

theorem accessed_overOshel (s : State) (d : DieIx) : Accessed s (s.overOshel d) := ⟨rfl, rfl⟩

theorem accessed_placeRead {s t : State} {k : Tracked} {p : Place} {va : Word} {n : Nat} {op : RaceOp} {bs : List Byte}
    (h : s.placeRead k p va n op = .ok (t, bs)) : Accessed s t := by
  simp only [State.placeRead] at h
  split at h
  · split at h
    · cases ha : s.awayRead k va n with
      | error f => rw [ha] at h; cases h
      | ok b => rw [ha] at h; cases h; exact .refl s
    · cases h
  · split at h
    · split at h
      · cases h
      next s1 bs1 h1 =>
        split at h
        · cases h
        next s2 h2 => cases h; exact ((onlyDies_dramRead h1).trans (onlyDies_track h2)).accessed
    · split at h
      · cases h
      · cases h; exact .refl s
    · split at h
      · cases h; exact .refl s
      · cases h
    · cases h; exact accessed_overOshel ..
    · cases h

theorem accessed_placeWrite {s t : State} {k : Tracked} {p : Place} {va : Word} {bs : List Byte} {op : RaceOp}
    (h : s.placeWrite k p va bs op = .ok t) : Accessed s t := by
  simp only [State.placeWrite] at h
  split at h
  · split at h
    · cases ha : s.awayRead k va 0 with
      | error f => rw [ha] at h; cases h
      | ok b => rw [ha] at h; cases h; exact .refl s
    · cases h
  · split at h
    · split at h
      · cases h
      next s1 h1 =>
        split at h
        · cases h
        next s2 h2 =>
          cases h
          exact ((onlyDies_dramWrite h1).trans (onlyDies_track h2)).accessed.trans ⟨rfl, rfl⟩
    · split at h
      · cases h
      · cases h; exact .refl s
    · simp only [State.windowWrite] at h
      split at h
      · cases h
      · cases h; exact ⟨rfl, rfl⟩
    · cases h; exact (accessed_overOshel ..).trans ⟨rfl, rfl⟩
    · cases h

end Sys2Proof.Machine
end

section
/-!
PROOFS. What follows from the loss of a die leaves the states of the dies alone (R229, R307, R323, R324, R403, R415): requests
that fail, records that end, and the supersteps and graphs that these settle.
-/
namespace Sys2Proof.Machine

/-- A chain of steps of which each leaves the states of the dies. -/
theorem foldl_dstate {α : Type} {f : State → α → State} (hf : ∀ s a, (f s a).io.dstate = s.io.dstate) (l : List α) (s : State) :
    (l.foldl f s).io.dstate = s.io.dstate := by
  induction l generalizing s with
  | nil => rfl
  | cons a l ih => rw [List.foldl_cons, ih, hf]

/-! ### Requests that fail -/

@[simp] theorem State.setReq_dstate (s : State) (r : Req) : (s.setReq r).io.dstate = s.io.dstate := rfl
@[simp] theorem State.atOnce_dstate (s : State) : s.atOnce.io.dstate = s.io.dstate := rfl
@[simp] theorem State.rejoin_dstate (s u : State) : (u.rejoin s).io.dstate = u.io.dstate := rfl

@[simp] theorem State.markRun_dstate (s : State) (r : Req) : (s.markRun r).io.dstate = s.io.dstate := by
  unfold State.markRun
  split
  · split <;> rfl
  · rfl

@[simp] theorem State.placePiece_dstate (s : State) (r : Req) (first : Bool) (p : Piece) :
    (s.placePiece r first p).1.io.dstate = s.io.dstate := by
  have h := (accessed_fullCheck s r.die (r.who s) p.access p.va).dstate
  unfold State.placePiece
  split
  next he => rw [he] at h; exact h
  next he => rw [he] at h; exact h

@[simp] theorem State.placeBar_dstate (s : State) (r : Req) (i : CopyItem) : (s.placeBar r i).1.io.dstate = s.io.dstate := by
  unfold State.placeBar
  split
  · rfl
  · simp only [State.placePiece_dstate]

@[simp] theorem State.sourceFailure_dstate (s : State) (r : Req) (f : Failed) (bar : Bool) :
    (s.sourceFailure r f bar).1.io.dstate = s.io.dstate := by
  unfold State.sourceFailure
  split
  next i _ =>
    have h := State.placeBar_dstate s.atOnce r i
    split
    · rfl
    · split
      next he => rw [he] at h; exact h
      next he => rw [he] at h; exact h
  · rfl

@[simp] theorem State.failAlone_dstate (s : State) (r : Req) (h : DieIx) (f : Failed) (bar : Bool) :
    (s.failAlone r h f bar).io.dstate = s.io.dstate := by
  simp [State.failAlone]

@[simp] theorem State.discardBehind_dstate (s : State) (r : Req) (f : Failed) : (s.discardBehind r f).io.dstate = s.io.dstate :=
  foldl_dstate (fun s q => by simp) _ s

@[simp] theorem State.failReq_dstate (s : State) (r : Req) (h : DieIx) (f : Failed) (bar : Bool) :
    (s.failReq r h f bar).io.dstate = s.io.dstate := by
  unfold State.failReq
  split <;> simp

@[simp] theorem State.scheduleFault_dstate (s : State) (r : Req) (h : DieIx) (slot : Nat) :
    (s.scheduleFault r h slot).io.dstate = s.io.dstate := rfl

/-! ### Accesses of the device -/

@[simp] theorem State.deviceCheck_dstate (s : State) (d : DieIx) (q : Fin 16) (a : Access) (va : Word) :
    (s.deviceCheck d q a va).1.io.dstate = s.io.dstate := by
  have h := (accessed_fullCheck s d (s.deviceWho d q) a va).dstate
  unfold State.deviceCheck
  split
  next he => rw [he] at h; exact h
  next => exact h

@[simp] theorem State.deviceReadIn_dstate (s : State) (d : DieIx) (q : Fin 16) (a : Access) (va : Word) (n : Nat) :
    (s.deviceReadIn d q a va n).1.io.dstate = s.io.dstate := by
  have h := State.deviceCheck_dstate s d q a va
  unfold State.deviceReadIn
  split
  next he => rw [he] at h; exact h
  next he =>
    rw [he] at h
    split
    · exact h
    · split
      next hr => exact ((accessed_placeRead hr).dstate).trans h
      next => exact h

/-- A device read leaves the states of the dies. -/
@[simp] theorem State.deviceRead_dstate (s : State) (d : DieIx) (q : Fin 16) (a : Access) (va : Word) (n : Nat) :
    (s.deviceRead d q a va n).1.io.dstate = s.io.dstate := by
  unfold State.deviceRead
  split
  · rfl
  · refine List.foldlRecOn (motive := fun x : State × Except (BitVec 16) (List Byte) => x.1.io.dstate = s.io.dstate) _ _ rfl fun x hx g _ => ?_
    obtain ⟨u, c | bs⟩ := x
    · exact hx
    · have hr := State.deviceReadIn_dstate u d q a g.1 g.2
      dsimp only
      rw [hr]
      exact hx

theorem State.deviceWrite_dstate {s t : State} {d : DieIx} {q : Fin 16} {va : Word} {bs : List Byte}
    (h : s.deviceWrite d q va bs = some t) : t.io.dstate = s.io.dstate := by
  have hc := State.deviceCheck_dstate s.atOnce d q .write va
  unfold State.deviceWrite at h
  split at h
  · cases h
  next he =>
    rw [he] at hc
    split at h
    next hw => cases h; exact ((accessed_placeWrite hw).dstate).trans hc
    next => cases h

/-! ### Records -/

@[simp] theorem State.writeRecord_dstate (s : State) (d : DieIx) (q : Fin 16) (i off : Nat) (bs : List Byte) :
    (s.writeRecord d q i off bs).io.dstate = s.io.dstate := by
  unfold State.writeRecord
  split
  · rfl
  · split
    next h => exact State.deviceWrite_dstate h
    next => rfl

@[simp] theorem State.changeRecord_dstate (s : State) (d : DieIx) (q : Fin 16) (i : Nat) (f : Record → Record) :
    (s.changeRecord d q i f).io.dstate = s.io.dstate := by
  unfold State.changeRecord
  split <;> simp

@[simp] theorem State.freezeQueue_dstate (s : State) (d : DieIx) (q : Fin 16) (c : BitVec 16) (i : Nat) :
    (s.freezeQueue d q c i).io.dstate = s.io.dstate := rfl

@[simp] theorem State.successors_dstate (s : State) (d : DieIx) (q : Fin 16) (i : Nat) :
    (s.successors d q i).1.io.dstate = s.io.dstate := by
  unfold State.successors
  split
  · rfl
  · split
    · rfl
    · exact State.deviceRead_dstate ..

/-! ### The superstep barrier -/

@[simp] theorem State.dropContributions_dstate (s : State) (d : DieIx) (q : Fin 16) :
    (s.dropContributions d q).io.dstate = s.io.dstate :=
  foldl_dstate (fun s x => foldl_dstate (fun s w => by split <;> rfl) _ s) _ s

@[simp] theorem State.fireOn_dstate (s : State) (d : DieIx) (q : Fin 16) : (s.fireOn d q).io.dstate = s.io.dstate :=
  State.dropContributions_dstate s d q

@[simp] theorem State.fireBarrier_dstate (s : State) (d : DieIx) (q : Fin 16) : (s.fireBarrier d q).io.dstate = s.io.dstate := by
  have fires (s : State) (p : DieIx × Fin 16) : (s.fireOn p.1 p.2).io.dstate = s.io.dstate := State.fireOn_dstate s p.1 p.2
  simp only [State.fireBarrier, State.modCtx_io]
  exact foldl_dstate fires _ s

@[simp] theorem State.fireIfFull_dstate (s : State) (d : DieIx) (q : Fin 16) : (s.fireIfFull d q).io.dstate = s.io.dstate := by
  unfold State.fireIfFull
  simp only
  split <;> simp

@[simp] theorem State.participantDone_dstate (s : State) (d : DieIx) (q : Fin 16) (i : Nat) :
    (s.participantDone d q i).io.dstate = s.io.dstate := by
  unfold State.participantDone
  split
  · rfl
  · split
    · rfl
    · split
      · rfl
      · split
        · rfl
        · simp

@[simp] theorem State.endRecord_dstate (s : State) (d : DieIx) (q : Fin 16) (i : Nat) (st : TaskState) (c : BitVec 16) :
    (s.endRecord d q i st c).io.dstate = s.io.dstate := by
  simp [State.endRecord]

/-! ### Error tokens and graphs -/

@[simp] theorem State.tokenStep_dstate (s : State) (d : DieIx) (q : Fin 16) (i : Nat) :
    (s.tokenStep d q i).1.io.dstate = s.io.dstate := by
  have h := State.successors_dstate s d q i
  unfold State.tokenStep
  split
  next he => rw [he] at h; exact h
  next he =>
    rw [he] at h
    refine List.foldlRecOn (motive := fun x : State × List Nat => x.1.io.dstate = s.io.dstate) _ _ h fun x hx j _ => ?_
    split
    · exact (State.endRecord_dstate ..).trans hx
    · exact hx

@[simp] theorem State.tokenWalk_dstate (s : State) (d : DieIx) (q : Fin 16) (n : Nat) (todo : List Nat) :
    (s.tokenWalk d q n todo).io.dstate = s.io.dstate := by
  induction n generalizing s todo with
  | zero => cases todo <;> rfl
  | succ n ih =>
    cases todo with
    | nil => rfl
    | cons i todo => exact (ih ..).trans (State.tokenStep_dstate s d q i)

@[simp] theorem State.dropChains_dstate (s : State) (d : DieIx) (q : Fin 16) : (s.dropChains d q).io.dstate = s.io.dstate := by
  simp only [State.dropChains]
  exact foldl_dstate (fun s p => by rw [State.modTile_io]) _ s

@[simp] theorem State.faultRecord_dstate (s : State) (d : DieIx) (q : Fin 16) (i : Nat) (c : BitVec 16) (quiet : Bool) :
    (s.faultRecord d q i c quiet).io.dstate = s.io.dstate := by
  cases quiet <;> simp [State.faultRecord, State.errorToken]

@[simp] theorem State.stallGraph_dstate (s : State) (d : DieIx) (q : Fin 16) : (s.stallGraph d q).io.dstate = s.io.dstate := by
  simp only [State.stallGraph]
  split
  · rfl
  · split
    · rfl
    · split
      · rfl
      · exact foldl_dstate (fun _ _ => State.endRecord_dstate ..) _ s

@[simp] theorem State.completeGraph_dstate (s : State) (d : DieIx) (q : Fin 16) : (s.completeGraph d q).io.dstate = s.io.dstate := by
  simp only [State.completeGraph]
  split
  · rfl
  · split
    · split <;> rfl
    · rfl

@[simp] theorem State.settleGraph_dstate (s : State) (d : DieIx) (q : Fin 16) : (s.settleGraph d q).io.dstate = s.io.dstate := by
  simp [State.settleGraph]

/-! ### The loss of a die -/

@[simp] theorem State.failTo_dstate (s : State) (d : DieIx) : (s.failTo d).io.dstate = s.io.dstate :=
  foldl_dstate (fun s r => by split <;> simp) _ s

@[simp] theorem State.idleThresher_dstate (s : State) (d : DieIx) : (s.idleThresher d).io.dstate = s.io.dstate := by
  rw [State.idleThresher, State.modDie_io]

@[simp] theorem State.tellTiles_dstate (s : State) (h : DieIx) (q : Fin 16) (id : BitVec 12) :
    (s.tellTiles h q id).io.dstate = s.io.dstate := rfl

@[simp] theorem State.faultPlaced_dstate (s : State) (h : DieIx) (q : Fin 16) (id : BitVec 12) :
    (s.faultPlaced h q id).io.dstate = s.io.dstate :=
  foldl_dstate (fun _ _ => State.faultRecord_dstate ..) _ s

/-- A die that is declared lost is lost (R415), whatever then comes of it. -/
theorem State.loseDie_dstate (s : State) (d : DieIx) : (s.loseDie d).io.dstate = upd s.io.dstate d 3 := by
  simp only [State.loseDie]
  refine (foldl_dstate (fun s h => ?_) _ _).trans ?_
  · split
    · rfl
    · refine foldl_dstate (fun s q => ?_) _ s
      split <;> simp
  · rw [State.idleThresher_dstate, State.failTo_dstate]
    rfl

theorem State.dstate_loseDie (s : State) (d : DieIx) : (s.loseDie d).dstate d = 3 := by
  simp [State.dstate, State.loseDie_dstate]

end Sys2Proof.Machine
end

section
/-!
PROOFS. The training of a link: the widths that LMAP holds after it, and what becomes of the two ends (R20, R21, R415, R428).
-/
namespace Sys2Proof.Machine

/-! ### LMAP -/

/-- A module's values fit their fields in LMAP. -/
def Module.Fits (x : Module) : Prop := x.width < 4 ∧ x.low < 4 ∧ x.high < 4

theorem noLane_fits : (⟨3, 0, 0⟩ : Module).Fits := ⟨by decide, by decide, by decide⟩

theorem lmapModule_fits (v : BitVec 64) (m : Nat) : (lmapModule v m).Fits :=
  ⟨Nat.mod_lt _ (by decide), Nat.mod_lt _ (by decide), Nat.mod_lt _ (by decide)⟩

/-- A module's byte among the widths of LMAP, and its half byte among the redundant lanes. -/
def Module.byte (x : Module) : Nat := x.width + (x.low + x.high) * 4
def Module.lanes (x : Module) : Nat := x.low + x.high * 4

theorem Module.Fits.byte_lt {x : Module} (h : x.Fits) : x.byte < 256 ∧ x.byte % 4 = x.width := by
  obtain ⟨h1, h2, h3⟩ := h
  unfold Module.byte
  omega

theorem Module.Fits.lanes_lt {x : Module} (h : x.Fits) : x.lanes < 16 ∧ x.lanes % 4 = x.low ∧ x.lanes / 4 = x.high := by
  obtain ⟨h1, h2, h3⟩ := h
  unfold Module.lanes
  omega

/-- The low digit of a number is taken off by the division with its base. -/
theorem div_of_digit {v a b r : Nat} (h : v = a + b * r) (ha : a < b) : v / b = r := by
  rw [h, Nat.add_mul_div_left _ _ (by omega), Nat.div_eq_of_lt ha, Nat.zero_add]

theorem digit_lt {a b r n : Nat} (ha : a < b) (hr : r < n) : a + b * r < b * n :=
  calc a + b * r < b + b * r := by omega
    _ = b * (r + 1) := by rw [Nat.mul_succ, Nat.add_comm]
    _ ≤ b * n := Nat.mul_le_mul_left b hr

/-- The same after a division by c. -/
theorem div_mul_of_digit {v c q a b r : Nat} (hq : v / c = q) (h : q = a + b * r) (ha : a < b) : v / (c * b) = r := by
  rw [← Nat.div_div_eq_div_mul, hq, div_of_digit h ha]

/-- A module's part of LMAP: its byte and its half byte at their places. -/
theorem Module.part_eq (x : Module) (m : Nat) :
    (x.width + (x.low + x.high) * 4) * 2 ^ (8 * m) + x.low * 2 ^ (32 + 4 * m) + x.high * 2 ^ (34 + 4 * m) =
      x.byte * 2 ^ (8 * m) + x.lanes * 2 ^ (32 + 4 * m) := by
  have high : x.high * 2 ^ (34 + 4 * m) = x.high * 4 * 2 ^ (32 + 4 * m) := by
    rw [show 34 + 4 * m = 2 + (32 + 4 * m) by omega, Nat.pow_add, show 2 ^ 2 = 4 from rfl, Nat.mul_assoc]
  rw [high, Module.byte, Module.lanes, Nat.add_mul x.low (x.high * 4), Nat.add_assoc]

theorem sum_of_digits (b l : Nat → Nat) :
    ((List.range 4).map fun m => b m * 2 ^ (8 * m) + l m * 2 ^ (32 + 4 * m)).sum =
      b 0 + 256 * (b 1 + 256 * (b 2 + 256 * (b 3 + 256 * (l 0 + 16 * (l 1 + 16 * (l 2 + 16 * l 3)))))) := by
  have four (g : Nat → Nat) : ((List.range 4).map g).sum = g 0 + (g 1 + (g 2 + g 3)) := by simp [List.range_succ]
  rw [four]
  simp only [Nat.reduceMul, Nat.reduceAdd, Nat.reducePow]
  omega

/-- LMAP from its lowest digit up: the bytes of the four modules, and then their half bytes. -/
theorem lmapOf_toNat {f : Nat → Module} (hf : ∀ m, m < 4 → (f m).Fits) :
    (lmapOf f).toNat = (f 0).byte + 256 * ((f 1).byte + 256 * ((f 2).byte + 256 * ((f 3).byte + 256 *
      ((f 0).lanes + 16 * ((f 1).lanes + 16 * ((f 2).lanes + 16 * (f 3).lanes)))))) := by
  obtain ⟨a, -⟩ := (hf 0 (by decide)).byte_lt
  obtain ⟨b, -⟩ := (hf 1 (by decide)).byte_lt
  obtain ⟨c, -⟩ := (hf 2 (by decide)).byte_lt
  obtain ⟨d, -⟩ := (hf 3 (by decide)).byte_lt
  obtain ⟨a', -⟩ := (hf 0 (by decide)).lanes_lt
  obtain ⟨b', -⟩ := (hf 1 (by decide)).lanes_lt
  obtain ⟨c', -⟩ := (hf 2 (by decide)).lanes_lt
  obtain ⟨d', -⟩ := (hf 3 (by decide)).lanes_lt
  have parts : (lmapOf f).toNat =
      ((List.range 4).map fun m => (f m).byte * 2 ^ (8 * m) + (f m).lanes * 2 ^ (32 + 4 * m)).sum % 2 ^ 64 := by
    simp only [← Module.part_eq]
    rw [lmapOf, BitVec.toNat_ofNat]
  rw [parts, sum_of_digits, Nat.mod_eq_of_lt]
  exact Nat.lt_of_lt_of_le (digit_lt a (digit_lt b (digit_lt c (digit_lt d (digit_lt a' (digit_lt b' (digit_lt c' d'))))))) (by decide)

/-- Each module reads back from the LMAP that four of them make. -/
theorem lmapModule_lmapOf {f : Nat → Module} (hf : ∀ m, m < 4 → (f m).Fits) {k : Nat} (hk : k < 4) :
    lmapModule (lmapOf f) k = f k := by
  obtain ⟨a, -⟩ := (hf 0 (by decide)).byte_lt
  obtain ⟨b, -⟩ := (hf 1 (by decide)).byte_lt
  obtain ⟨c, -⟩ := (hf 2 (by decide)).byte_lt
  obtain ⟨d, -⟩ := (hf 3 (by decide)).byte_lt
  obtain ⟨a', -⟩ := (hf 0 (by decide)).lanes_lt
  obtain ⟨b', -⟩ := (hf 1 (by decide)).lanes_lt
  obtain ⟨c', -⟩ := (hf 2 (by decide)).lanes_lt
  have q0 := lmapOf_toNat hf
  have q1 := div_of_digit q0 a
  have q2 := div_mul_of_digit q1 rfl b
  have q3 := div_mul_of_digit q2 rfl c
  have q4 := div_mul_of_digit q3 rfl d
  have q5 := div_mul_of_digit q4 rfl a'
  have q6 := div_mul_of_digit q5 rfl b'
  have q7 := div_mul_of_digit q6 rfl c'
  have four : k = 0 ∨ k = 1 ∨ k = 2 ∨ k = 3 := by omega
  have bytes : (lmapOf f).toNat / 2 ^ (8 * k) % 4 = (f k).byte % 4 := by
    rcases four with rfl | rfl | rfl | rfl <;> simp only [Nat.reduceMul, Nat.reducePow] at * <;> omega
  have lanes : (lmapOf f).toNat / 2 ^ (32 + 4 * k) % 16 = (f k).lanes % 16 := by
    rcases four with rfl | rfl | rfl | rfl <;> simp only [Nat.reduceMul, Nat.reduceAdd, Nat.reducePow] at * <;> omega
  obtain ⟨-, hw⟩ := (hf k hk).byte_lt
  obtain ⟨hlt, hl, hh⟩ := (hf k hk).lanes_lt
  have high : (lmapOf f).toNat / 2 ^ (34 + 4 * k) = (lmapOf f).toNat / 2 ^ (32 + 4 * k) / 4 := by
    rw [Nat.div_div_eq_div_mul, show 34 + 4 * k = (32 + 4 * k) + 2 by omega, Nat.pow_add, show 2 ^ 2 = 4 from rfl]
  have widthOk : (lmapModule (lmapOf f) k).width = (f k).width := bytes.trans hw
  have lowOk : (lmapModule (lmapOf f) k).low = (f k).low := by
    show (lmapOf f).toNat / 2 ^ (32 + 4 * k) % 4 = _
    omega
  have highOk : (lmapModule (lmapOf f) k).high = (f k).high := by
    show (lmapOf f).toNat / 2 ^ (34 + 4 * k) % 4 = _
    omega
  cases hfk : f k
  simp_all only [lmapModule]

/-- What a module reaches in a training, before the port's missing modules are taken off (R428). -/
def trainingReached (r : Training) (v : BitVec 64) (m : Nat) : Module :=
  if h : m < 4 then
    let w := (nth r.widths ⟨m, h⟩).toNat
    let x := lmapModule v m
    { x with width := w, low := if w = 2 then 0 else x.low, high := if w = 1 then 0 else x.high }
  else { width := 3, low := 0, high := 0 }

theorem trainingReached_fits (r : Training) (v : BitVec 64) (m : Nat) : (trainingReached r v m).Fits := by
  have ⟨_, hl, hh⟩ := lmapModule_fits v m
  unfold trainingReached
  split
  next h =>
    refine ⟨(nth r.widths ⟨m, h⟩).isLt, ?_, ?_⟩
    · dsimp only; split <;> omega
    · dsimp only; split <;> omega
  next => exact noLane_fits

/-- The widths after a training: what each module reached, and no lane where the port has no module. -/
theorem lmapModule_trained (d : DieIx) (p : Fin 8) (v : BitVec 64) (r : Training) (k : Fin 4) :
    lmapModule (trained d p (lmapOf (trainingReached r v)) r) k.val =
      if portModules d p ≤ k.val then { width := 3, low := 0, high := 0 }
      else
        let w := nth r.widths k
        { width := w.toNat, low := if w = 2 then 0 else (lmapModule v k.val).low
          high := if w = 1 then 0 else (lmapModule v k.val).high } := by
  have hread {m : Nat} (hm : m < 4) : lmapModule (lmapOf (trainingReached r v)) m = trainingReached r v m :=
    lmapModule_lmapOf (fun m _ => trainingReached_fits r v m) hm
  rw [trained, lmapModule_lmapOf (fun m hm => ?_) k.isLt]
  · simp only [hread k.isLt, k.isLt, dif_pos, trainingReached, Fin.eta]
    have h2 : ((nth r.widths k).toNat = 2) ↔ nth r.widths k = 2 := ⟨fun h => BitVec.eq_of_toNat_eq h, fun h => by rw [h]; rfl⟩
    have h1 : ((nth r.widths k).toNat = 1) ↔ nth r.widths k = 1 := ⟨fun h => BitVec.eq_of_toNat_eq h, fun h => by rw [h]; rfl⟩
    simp only [h1, h2]
    split
    · rfl
    · split
      next h3 => rw [h3]
      next => rfl
  · have hfit := trainingReached_fits r v m
    simp only [hread hm, hm, dif_pos]
    split
    · exact noLane_fits
    · split
      · exact ⟨(by decide : 3 < 4), hfit.2⟩
      · exact hfit

/-! ### The outcome of a training -/

/-- Both ends of a link held down, and reported (R21). -/
def State.heldDown (s : State) (d : DieIx) (p : Fin 8) : State :=
  (s.modLink d p fun x => { x with down := true }).report (.linkDown d p)

theorem linkBecomes_heldDown (s : State) (d : DieIx) (p : Fin 8) :
    Claims.LinkBecomes s (s.heldDown d p) d p { s.portAt d p with down := true } (fun y => { y with down := true }) :=
  linkBecomes_report (linkBecomes_modLink s d p _) rfl

@[simp] theorem State.heldDown_dstate (s : State) (d : DieIx) (p : Fin 8) (e : DieIx) : (s.heldDown d p).dstate e = s.dstate e := by
  simp [State.heldDown, State.dstate]

theorem State.train_agrees {s : State} {d : DieIx} {p : Fin 8} {r : Training} (h : p = 7 ∨ r.partner = s.expectedId d p)
    (v : BitVec 64) : s.train d p r v = s.modLink d p fun x => { x with lmap := trained d p v r, run := 0, down := false } := by
  have hb : s.idAgrees d p r = true := by
    rcases h with rfl | h
    · rfl
    · simp [State.idAgrees, h]
  simp only [State.train, hb, if_true]

theorem State.train_disagrees {s : State} {d : DieIx} {p : Fin 8} {r : Training} (h : ¬ (p = 7 ∨ r.partner = s.expectedId d p))
    (v : BitVec 64) : s.train d p r v = s.heldDown d p := by
  have h7 : p.val ≠ 7 := fun h7 => h (Or.inl (Fin.ext h7))
  have hb : s.idAgrees d p r = false := by simp [State.idAgrees, h7, not_or.mp h]
  simp only [State.train, hb, Bool.false_eq_true, if_false]
  rfl

/-- R415: the die of an I/O port that has come out of its training with no lane. -/
theorem State.afterTraining_eq (s : State) (d : DieIx) (p : Fin 8) (b : Bool) :
    s.afterTraining d p b =
      if p = 7 ∧ (s.dstate d = 1 ∨ s.dstate d = 2) ∧ (b = false ∨ (lmapModule (s.portAt d p).lmap 0).width = 3)
      then s.loseDie d else s := by
  have h7 : p.val = 7 ↔ p = 7 := ⟨fun h => Fin.ext h, fun h => by rw [h]; rfl⟩
  simp only [State.afterTraining, Bool.and_eq_true, Bool.or_eq_true, decide_eq_true_eq, Bool.not_eq_true', h7]
  congr 1
  exact propext ⟨fun ⟨⟨a, b⟩, c⟩ => ⟨a, c, b⟩, fun ⟨a, c, b⟩ => ⟨⟨a, b⟩, c⟩⟩

/-- A link whose training takes a die with it, and one whose training does not. -/
theorem State.afterTraining_cases {t : State} {d : DieIx} {p : Fin 8} {b : Bool} {dead : Prop}
    (h : (p = 7 ∧ (t.dstate d = 1 ∨ t.dstate d = 2) ∧ (b = false ∨ (lmapModule (t.portAt d p).lmap 0).width = 3)) ↔ dead) :
    (dead → (t.afterTraining d p b).dstate d = 3) ∧ (¬ dead → t.afterTraining d p b = t) := by
  rw [State.afterTraining_eq]
  exact ⟨fun hd => by rw [if_pos (h.mpr hd)]; exact State.dstate_loseDie t d, fun hd => if_neg fun hc => hd (h.mp hc)⟩

theorem exec_linkTraining {s : State} {d : DieIx} {p : Fin 8} (r : Training) (hp : p ≠ 0) (hb : (s.portAt d p).busy = false)
    (hd : (s.portAt d p).down = false) :
    exec (.linkTraining d p r) s =
      .next ((if r.success then s.train d p r (lmapOf (trainingReached r (s.portAt d p).lmap)) else s.heldDown d p).afterTraining
        d p r.success) := by
  have hp' : p.val ≠ 0 := fun h => hp (Fin.ext h)
  show execLinkTraining d p r s = _
  simp only [execLinkTraining, hp', hb, hd, Bool.false_eq_true, or_self, if_false]
  rfl

end Sys2Proof.Machine

namespace Sys2Proof.Claims

open Sys2Proof.Machine

theorem linksTrain : LinksTrain := by
  intro d p r s hp hbusy hdown x good dead
  rw [exec_linkTraining r hp hbusy hdown]
  by_cases hg : good
  · obtain ⟨hok, hagree⟩ := hg
    let v := trained d p (lmapOf (trainingReached r x.lmap)) r
    let t := s.modLink d p fun x => { x with lmap := v, run := 0, down := false }
    have hlink : LinkBecomes s t d p { x with lmap := v, run := 0, down := false }
      (fun y => { y with lmap := v, run := 0, down := false }) := linkBecomes_modLink s d p _
    have hwidth : p = 7 → ((lmapModule (t.portAt d p).lmap 0).width = 3 ↔ nth r.widths 0 = 3) := by
      rintro rfl
      rw [hlink.near, show lmapModule v 0 = _ from lmapModule_trained d 7 x.lmap r 0]
      exact ⟨fun h => BitVec.eq_of_toNat_eq h, fun h => by rw [h]; rfl⟩
    have hdead : (p = 7 ∧ (t.dstate d = 1 ∨ t.dstate d = 2) ∧
        (true = false ∨ (lmapModule (t.portAt d p).lmap 0).width = 3)) ↔ dead := by
      have hio : t.dstate d = s.dstate d := by simp [t, State.dstate]
      rw [hio]
      constructor
      · rintro ⟨h7, hrun, h⟩
        exact ⟨h7, hrun, Or.inr ((hwidth h7).mp (h.resolve_left (by decide)))⟩
      · rintro ⟨h7, hrun, h⟩
        exact ⟨h7, hrun, Or.inr ((hwidth h7).mpr (h.resolve_left (by rw [hok]; decide)))⟩
    obtain ⟨hlost, hstays⟩ := State.afterTraining_cases hdead
    simp only [hok, if_true, State.train_agrees hagree]
    refine ⟨_, rfl, hlost, fun hn => ?_, fun ⟨_, hn⟩ => ?_, fun h => absurd ⟨hok, hagree⟩ h.1⟩
    · rw [hstays hn]; exact State.modLink_reqs ..
    · rw [hstays hn]
      exact ⟨State.modLink_io .., v, hlink, fun k => lmapModule_trained d p x.lmap r k⟩
  · have ht : (if r.success then s.train d p r (lmapOf (trainingReached r x.lmap)) else s.heldDown d p) = s.heldDown d p := by
      split
      next hok => exact State.train_disagrees (fun ha => hg ⟨hok, ha⟩) _
      next => rfl
    have hdead : (p = 7 ∧ ((s.heldDown d p).dstate d = 1 ∨ (s.heldDown d p).dstate d = 2) ∧
        (r.success = false ∨ (lmapModule ((s.heldDown d p).portAt d p).lmap 0).width = 3)) ↔ dead := by
      have hfail : p = 7 → r.success = false := fun h7 => Bool.eq_false_iff.mpr fun hok => hg ⟨hok, Or.inl h7⟩
      rw [State.heldDown_dstate]
      exact ⟨fun ⟨h7, hrun, _⟩ => ⟨h7, hrun, Or.inl (hfail h7)⟩, fun ⟨h7, hrun, _⟩ => ⟨h7, hrun, Or.inl (hfail h7)⟩⟩
    obtain ⟨hlost, hstays⟩ := State.afterTraining_cases hdead
    rw [ht]
    refine ⟨_, rfl, hlost, fun hn => ?_, fun h => absurd h.1 hg, fun ⟨_, hn⟩ => ?_⟩
    · rw [hstays hn]; exact State.modLink_reqs ..
    · rw [hstays hn]
      exact ⟨linkBecomes_heldDown s d p, by simp [State.heldDown]⟩

end Sys2Proof.Claims

open Sys2Proof Sys2Proof.Machine

/-- Settles O31: packets by the receiver's three ways of taking one, and training by the widths it reaches; whatever follows from
the loss of a die, the die stays lost. -/
theorem linksCarryPackets : Obligations.LinksCarryPackets := ⟨Claims.linkPacketsMove, Claims.linksTrain⟩
end

section
/-!
PROOFS. The landing of a response, and what an access of host memory comes to once the host has resolved its page (R30, R226,
R267, R338, R339).
-/
namespace Sys2Proof.Machine

/-! ### Requests answered, landed and removed -/

theorem reqBecomes_setReq {s : State} {r u : Req} {req : Nat} (h : s.findReq req = some u) (hr : r.id = req) :
    Claims.ReqBecomes s (s.setReq r) req r :=
  ⟨State.findReq_setReq_of_found h hr, fun _ hq => State.findReq_setReq_ne s r (hr ▸ hq)⟩

/-- The same, of a state that stands with the same requests. -/
theorem reqBecomes_setReq_of_reqs {s v : State} {r u : Req} {req : Nat} (hv : v.reqs = s.reqs) (h : s.findReq req = some u)
    (hr : r.id = req) : Claims.ReqBecomes s (v.setReq r) req r := by
  have hq : ∀ q, v.findReq q = s.findReq q := fun q => by rw [State.findReq, hv]; rfl
  obtain ⟨h1, h2⟩ := reqBecomes_setReq ((hq req).trans h) hr
  exact ⟨h1, fun q hne => (h2 q hne).trans (hq q)⟩

theorem State.findReq_removeReq (s : State) (id q : Nat) : (s.removeReq id).findReq q = if q = id then none else s.findReq q := by
  simp only [State.findReq, State.removeReq, List.find?_filter]
  split
  next hq => exact List.find?_eq_none.mpr fun r _ => by simp [hq]
  next hq =>
    congr 1
    funext r
    by_cases h : r.id = q <;> simp [h, hq]

/-- A request whose response has landed. -/
def Req.landed (r : Req) : Req := { r with stage := .landed }

/-- The end of a cycle that awaits the response of r stays open (R30). -/
def State.holdFor (s : State) (r : Req) : State :=
  if (s.tileAt r.die r.tile).phase = .finish ∧ r.kind.lands = true ∧ r.landsNow r.die r.tile (s.tileAt r.die r.tile).now = true then
    s.setTile r.die r.tile { s.tileAt r.die r.tile with heldOpen := true } else s

theorem State.holdFor_reqs (s : State) (r : Req) : (s.holdFor r).reqs = s.reqs := by
  unfold State.holdFor
  split <;> rfl

/-- A response that no stop has captured is written to no frame. -/
theorem State.markFrame_of_captured_none (s : State) {r : Req} (h : r.captured = none) : s.markFrame r = s := by
  simp [State.markFrame, h]

/-- A request that is done lands once no widening of it is left, unless it is a fence. -/
theorem State.mayLand_of_done {s : State} {r : Req} (hs : r.stage = .done) (hw : ∀ w ∈ s.widen, w.req ≠ some r.id) :
    s.mayLand r = true := by
  unfold State.mayLand
  split
  · simp_all
  · simpa using hw
  · simp_all

/-! ### Accesses of host memory -/

theorem region_host {l : Nat} (h : 0xC000000000 ≤ l) : region l = .host (l - 0xC000000000) := by
  have h1 : ¬ l < 0x0BE0000000 := by omega
  have h2 : ¬ l < 0x0C00000000 := by omega
  have h3 : ¬ (0x8000000000 ≤ l ∧ l < 0x8040000000) := by omega
  have h4 : ¬ (0x9000000000 ≤ l ∧ l < 0x9001000000) := by omega
  simp only [region, h1, h2, h3, h4, h, if_false, if_true]

section
variable {s : State} {r : Req} {p : Piece} {x : Place}
variable (hps : r.pieces = [p]) (hx : p.place = some x) (hl : 0xC000000000 ≤ x.local_)
include hx hl

theorem Piece.inHost_of_place : p.inHost = true := by
  simp [Piece.inHost, hx, hl]

theorem Piece.inWindow_of_host : p.inWindow = false := by
  simp [Piece.inWindow, hx, region_host hl]

include hps

/-- The page that the host is asked for is that of the request's one access. -/
theorem State.hostVa_of_piece (ha : r.away = none) : s.hostVa r = some p.va := by
  have known : (r.pieces.find? Piece.inHost).map (·.va) = some p.va := by
    simp [hps, Piece.inHost_of_place hx hl]
  unfold State.hostVa
  rw [known, ha]
  cases r.kind <;> rfl

theorem Req.unit_of_host_load {et : ElemType} {va : Word} (hk : r.kind = .load et va) : r.unit = .home := by
  simp [Req.unit, hk, hps, Piece.inWindow_of_host hx hl]

end

/-- A failure that no race record caused, of a request that is no copy item, is its answer (R226, R269). -/
theorem State.failReq_eq_setReq {s : State} {r : Req} {h : DieIx} {f : Failed} {bar : Bool} (hk : ∀ i, r.kind ≠ .copy i)
    (hf : refusal f = false) : s.failReq r h f bar = s.setReq (Claims.answer r h (r.failure f)) := by
  have hm : s.markRun r = s := by
    unfold State.markRun
    split
    · simp_all
    · rfl
  have hb : r.addsLater = false := by
    unfold Req.addsLater
    split
    · simp_all
    · rfl
  simp [State.failReq, State.failAlone, hf, hm, hb]
  rfl

theorem settled_of_not_awaits {s : State} (h : s.awaits = false) : settled s = .next s := by simp [settled, h]

/-! ### A page that is not there -/

/-- The accesses of a store item whose one access lies in a page that the host cannot make resident: the item fails with the page's
address, and performs nothing. -/
theorem ItemRun.moves_missing {s : State} {r : Req} {i : CopyItem} {op : RaceOp} {p : Piece} {x : Place} {ms : List Move} {data : List Byte}
    {c : BitVec 16} (hx : p.place = some x) (hl : 0xC000000000 ≤ x.local_) (he : i.engine = .se) (hm : ms ≠ []) :
    ({ s, gone := some (c, p.va) } : ItemRun).moves r i op ms [p] data =
      { s, gone := some (c, p.va), fail := some (c, p.va) } := by
  obtain ⟨m, ms, rfl⟩ := List.exists_cons_of_ne_nil hm
  have ends (a : ItemRun) (data : List Byte) : a.moves r i op ms [] data = a := by
    cases ms <;> simp [ItemRun.moves, he]
  have gone : missing (some (c, p.va)) x p.va = some (c, p.va) := by simp [missing, hl]
  simp [ItemRun.moves, he, ends, ItemRun.write, hx, gone, ItemRun.failed]

theorem State.markRun_ways (s : State) (r : Req) : (s.markRun r).ways = s.ways := by
  unfold State.markRun
  split
  · split <;> rfl
  · rfl

theorem State.markRun_reqs (s : State) (r : Req) : (s.markRun r).reqs = s.reqs := by
  unfold State.markRun
  split
  · split <;> rfl
  · rfl

theorem sameMemory_modTile (s : State) (d : DieIx) (k : TileIx) {f : Tile → Tile} (hf : ∀ x a, (f x).winByte a = x.winByte a) :
    Claims.SameMemory s (s.modTile d k f) := by
  refine ⟨fun e a => ?_, fun e j a => ?_, fun _ => rfl⟩
  · simp only [State.modTile, State.setTile, State.dieAt_modDie]
    split
    next h => rw [h]; rfl
    next => rfl
  · rw [State.tileAt_modTile]
    split
    next h => rw [hf, h.1, h.2]
    next => rfl

theorem sameMemory_markRun (s : State) (r : Req) : Claims.SameMemory s (s.markRun r) := by
  unfold State.markRun
  split
  · split
    · exact sameMemory_modTile s _ _ fun _ _ => rfl
    · exact ⟨fun _ _ => rfl, fun _ _ _ => rfl, fun _ => rfl⟩
  · exact ⟨fun _ _ => rfl, fun _ _ _ => rfl, fun _ => rfl⟩

/-- A store item whose page the host cannot make resident marks its run and is answered with cause and page (R338, R344). -/
theorem State.close_performCopy_missing {s : State} {r : Req} {i : CopyItem} {p : Piece} {x : Place} {h : DieIx} {c : BitVec 16}
    (hk : r.kind = .copy i) (hps : r.pieces = [p]) (hx : p.place = some x) (hl : 0xC000000000 ≤ x.local_) (he : i.engine = .se)
    (hi : i.indexVa = none) (hf : i.keyFail = 0) (hg : i.cmd.isKgath = false) (hb : i.blk 16 8 = 0)
    (hm : i.moves (i.index.getD 0) ≠ []) (hc : refusal (c, p.va) = false) :
    (s.performCopy r i (some (c, p.va))).close h =
      (s.markRun r).setReq (Claims.answer r h (i.response (i.flags (i.index.getD 0)) [] (some (c, p.va)))) := by
  have performed : s.performCopy r i (some (c, p.va)) =
      { s, req := r, resp := i.response (i.flags (i.index.getD 0)) [] (some (c, p.va)), fail := some (c, p.va) } := by
    simp only [State.performCopy, State.runItem, hi, hf, hb, hg, hps, ne_eq, not_true_eq_false, if_true, if_false, Bool.false_and,
      Bool.false_eq_true]
    rw [ItemRun.moves_missing hx hl he hm]
  have answered : r.addsLater = false := by simp [Req.addsLater, hk, hb]
  simp [performed, ItemEnd.close, hc, answered]
  rfl

/-! ### What an event of a request comes to -/

section
variable {s : State} {req : Nat} {r : Req} (hr : s.findReq req = some r)
include hr

/-- The landing of a response whose task stands. -/
theorem exec_responseLand (hl : s.mayLand r = true) (ho : r.orphan = false) :
    exec (.responseLand req) s = .next (((s.holdFor r).setReq r.landed).markFrame r.landed) := by
  show execResponseLand req s = _
  unfold execResponseLand
  rw [hr]
  dsimp only
  rw [if_neg (by simp [hl]), if_neg (by simp [ho])]
  rfl

/-- The response of a task that has ended is discarded. -/
theorem exec_responseLand_orphan (hl : s.mayLand r = true) (ho : r.orphan = true) :
    exec (.responseLand req) s = .next (s.removeReq r.id) := by
  show execResponseLand req s = _
  unfold execResponseLand
  rw [hr]
  simp [hl, ho]

theorem State.atUnit_of {u : Unit_} (hs : r.stage = .home) (hu : r.unit = u) (ht : s.inTurn r = true) (hp : s.pastPort r = true)
    (hb : ∀ p ∈ r.pieces, s.windowBusy p = false) : s.atUnit req u = some r := by
  have hb : r.pieces.any s.windowBusy = false := by simpa using hb
  simp [State.atUnit, hr, hs, hu, ht, hp, hb]

end

/-- The clauses on the landing of a response (R226). -/
theorem responseLand_becomes {s : State} {req : Nat} {r : Req} (hr : s.findReq req = some r) (hs : r.stage = .done)
    (hw : ∀ w ∈ s.widen, w.req ≠ some r.id) (ho : r.orphan = false) (hc : r.captured = none) :
    ∃ t, exec (.responseLand req) s = .next t ∧ Claims.ReqBecomes s t req { r with stage := .landed } ∧
      (let x := s.tileAt r.die r.tile
       let opens := x.phase = .finish ∧ r.kind.lands = true ∧ r.landsNow r.die r.tile x.now = true
       (¬ opens → t = { s with reqs := t.reqs }) ∧
       (opens → t = { s.setTile r.die r.tile { x with heldOpen := true } with reqs := t.reqs })) := by
  have hid : r.id = req := State.findReq_id hr
  have hcap : r.landed.captured = none := hc
  refine ⟨_, exec_responseLand hr (State.mayLand_of_done hs hw) ho, ?_⟩
  rw [State.markFrame_of_captured_none _ hcap]
  refine ⟨?_, fun hn => ?_, fun hn => ?_⟩
  · exact reqBecomes_setReq_of_reqs (r := r.landed) (State.holdFor_reqs s r) hr hid
  · rw [State.holdFor, if_neg hn]
    rfl
  · rw [State.holdFor, if_pos hn]
    rfl

theorem responseLand_discards {s : State} {req : Nat} {r : Req} (hr : s.findReq req = some r) (hs : r.stage = .done)
    (hw : ∀ w ∈ s.widen, w.req ≠ some r.id) (ho : r.orphan = true) :
    ∃ t, exec (.responseLand req) s = .next t ∧ t = { s with reqs := t.reqs } ∧ t.findReq req = none ∧
      ∀ q, q ≠ req → t.findReq q = s.findReq q := by
  have hid : r.id = req := State.findReq_id hr
  refine ⟨_, exec_responseLand_orphan hr (State.mayLand_of_done hs hw) ho, rfl, ?_, fun q hq => ?_⟩
  · rw [State.findReq_removeReq, if_pos hid.symm]
  · rw [State.findReq_removeReq, if_neg (hid ▸ hq)]

section
variable {s : State} {req : Nat} {r : Req} {p : Piece} {x : Place}
variable (hr : s.findReq req = some r) (hs : r.stage = .home) (ht : s.inTurn r = true) (hps : r.pieces = [p]) (hx : p.place = some x)
  (hl : 0xC000000000 ≤ x.local_) (ha : r.away = none) (hp : s.pastPort r = true)
include hr hs ht hps hx hl ha hp

/-- A load of a page that the host cannot make resident fails with cause 0x0021 (R267). -/
theorem hostPageResolved_load_fails {et : ElemType} {va : Word} (hk : r.kind = .load et va) :
    exec (.hostPageResolved req false) s = .next (s.setReq (Claims.answer r r.target { fault := some (0x0021, p.va) })) := by
  have hu : r.unit = .home := Req.unit_of_host_load hps hx hl hk
  have fails : s.failReq r r.target (0x0021, p.va) = s.setReq (Claims.answer r r.target { fault := some (0x0021, p.va) }) := by
    rw [State.failReq_eq_setReq (by simp [hk]) rfl]
    simp [Req.failure, hk]
  show execHostPageResolved req false s = _
  simpa [execHostPageResolved, hr, State.hostVa_of_piece hps hx hl ha, hk, hs, ht, hp, hu] using fails

/-- An item of class H is performed once the host has made its page resident (R339). -/
theorem hostPageResolved_resident {i : CopyItem} (hk : r.kind = .copy i) (hc : i.op.cls = 2) (hu : r.unit = .home) :
    exec (.hostPageResolved req true) s = settled (s.performHome r) := by
  show execHostPageResolved req true s = _
  simp [execHostPageResolved, hr, State.hostVa_of_piece hps hx hl ha, hk, hc, hs, ht, hp, hu]

/-- Its access to a page that the host cannot make resident fails with cause 0x0022 (R338). -/
theorem hostPageResolved_missing {i : CopyItem} (hk : r.kind = .copy i) (hc : i.op.cls = 2) (hu : r.unit = .home) :
    exec (.hostPageResolved req false) s = settled ((s.performCopy r i (some (0x0022, p.va))).close r.target) := by
  show execHostPageResolved req false s = _
  simp [execHostPageResolved, hr, State.hostVa_of_piece hps hx hl ha, hk, hc, hs, ht, hp, hu]

end

end Sys2Proof.Machine

open Sys2Proof Sys2Proof.Machine

theorem Sys2Proof.Claims.responsesLand : Claims.ResponsesLand := by
  intro req r s hr
  have hid : r.id = req := State.findReq_id hr
  refine ⟨fun hs _ hw ho hc => responseLand_becomes hr hs hw ho hc, fun hs _ hw ho => responseLand_discards hr hs hw ho, ?_, ?_, ?_⟩
  · intro et va p x hk hs ht hps hx hl ha hp
    exact ⟨_, hostPageResolved_load_fails hr hs ht hps hx hl ha hp hk, rfl, reqBecomes_setReq hr hid⟩
  · intro i p x hk hc hs hu ht hps hx hl ha hp hb hw
    have performed := settled_of_not_awaits hw
    refine ⟨_, (hostPageResolved_resident hr hs ht hps hx hl ha hp hk hc hu).trans performed, ?_⟩
    have at_ := State.atUnit_of hr hs hu ht hp (by simpa [hps] using hb)
    show execHomeAccess req [] s = _
    simp [execHomeAccess, at_, State.mayBegin, hk, State.evictAll, State.awayElse, ha, performed]
  · intro i p x hk hc hs hu ht hps hx hl ha hp hw he hi hf hg hb hm
    have closed := State.close_performCopy_missing (s := s) (h := r.target) (c := 0x0022) hk hps hx hl he hi hf hg hb hm rfl
    have calm : ((s.performCopy r i (some (0x0022, p.va))).close r.target).awaits = false := by
      rw [closed, ← hw]
      exact congrArg (fun w => decide (w = Ways.waits)) (State.markRun_ways s r)
    refine ⟨_, (hostPageResolved_missing hr hs ht hps hx hl ha hp hk hc hu).trans (settled_of_not_awaits calm), ?_, ?_⟩
    · rw [closed]
      exact sameMemory_markRun s r
    · rw [closed]
      exact reqBecomes_setReq_of_reqs (State.markRun_reqs s r) hr hid

end

section
/-!
PROOFS. A request that its home has performed stands there no longer, whatever else its answer sets off (R275, R290, R313,
R317, R404, R411, R465).
-/
namespace Sys2Proof.Machine

/-! ### A request past a stage -/

/-- No request of this number stands at the stage. -/
structure Past (g : Stage) (req : Nat) (s : State) : Prop where
  ne : ∀ u, s.findReq req = some u → u.stage ≠ g

theorem past_of_reqs {g : Stage} {req : Nat} {s t : State} (h : Past g req s) (ht : t.reqs = s.reqs) : Past g req t := by
  refine ⟨fun u hu => ?_⟩
  rw [State.findReq, ht] at hu
  exact h.ne u hu

theorem past_modCtx {g : Stage} {req : Nat} {s : State} (h : Past g req s) (d : DieIx) (q : Fin 16) (f : CtxDie → CtxDie) :
    Past g req (s.modCtx d q f) := past_of_reqs h (State.modCtx_reqs ..)

theorem past_setReq {g : Stage} {req : Nat} {s : State} {r : Req} (h : Past g req s) (hr : r.stage ≠ g) : Past g req (s.setReq r) := by
  refine ⟨fun u hu => ?_⟩
  rw [State.findReq_setReq] at hu
  split at hu
  · obtain ⟨-, -, rfl⟩ := Option.map_eq_some_iff.mp hu
    exact hr
  · exact h.ne u hu

theorem past_setReq_self {g : Stage} (s : State) {r : Req} (hr : r.stage ≠ g) : Past g r.id (s.setReq r) := by
  refine ⟨fun u hu => ?_⟩
  rw [State.findReq_setReq, if_pos rfl] at hu
  obtain ⟨-, -, rfl⟩ := Option.map_eq_some_iff.mp hu
  exact hr

/-- A chain of steps, each of which keeps the request past the stage. -/
theorem past_foldl {α : Type} {g : Stage} {req : Nat} {f : State → α → State} (hf : ∀ s a, Past g req s → Past g req (f s a))
    (l : List α) {s : State} (h : Past g req s) : Past g req (l.foldl f s) := by
  induction l generalizing s with
  | nil => exact h
  | cons a l ih => exact ih (hf s a h)

/-- A request that has been performed stands at its home no longer: it waits for its addition, or is answered (R269, R465). -/
structure Leaves (r u : Req) : Prop where
  id : u.id = r.id
  stage : u.stage ≠ .home

theorem leaves_answered (r : Req) (h : DieIx) (resp : Response) : Leaves r (r.answered h resp) where
  id := rfl
  stage := by unfold Req.answered; dsimp only; split <;> simp

theorem Req.answered_stage_ne_adding (r : Req) (h : DieIx) (resp : Response) : (r.answered h resp).stage ≠ .adding := by
  unfold Req.answered; dsimp only; split <;> simp

theorem leaves_adding (r : Req) (resp : Response) : Leaves r { r with resp, stage := .adding } := ⟨rfl, by simp⟩

section
variable (s : State) (r : Req) (h : DieIx)

theorem State.finishReq_eq (resp : Response) : ∃ u, Leaves r u ∧ s.finishReq r h resp = s.setReq u := by
  unfold State.finishReq
  split
  · exact ⟨_, leaves_adding r resp, rfl⟩
  · exact ⟨_, leaves_answered r h resp, rfl⟩

theorem State.failReq_eq (f : Failed) (bar : Bool) : ∃ u, ∃ v : State, Leaves r u ∧ s.failReq r h f bar = v.setReq u := by
  unfold State.failReq State.failAlone
  generalize State.markRun _ _ = v
  split
  · exact ⟨_, v, leaves_adding r (r.failure f), rfl⟩
  · exact ⟨_, v, leaves_answered r h (r.failure f), rfl⟩

theorem State.scheduleFault_eq (slot : Nat) : ∃ u, Leaves r u ∧ s.scheduleFault r h slot = s.setReq u := by
  simp only [State.scheduleFault]
  split
  · exact ⟨_, leaves_adding r _, rfl⟩
  · exact ⟨_, leaves_answered r h _, rfl⟩

end

theorem past_setReq_leaves {r u : Req} (h : Leaves r u) (s : State) : Past .home r.id (s.setReq u) :=
  h.id ▸ past_setReq_self s h.stage

section
variable (s : State) (r : Req) (h : DieIx)

theorem past_finishReq_self (resp : Response) : Past .home r.id (s.finishReq r h resp) := by
  obtain ⟨u, hu, he⟩ := s.finishReq_eq r h resp
  exact he ▸ past_setReq_leaves hu s

theorem past_failReq_self (f : Failed) (bar : Bool) : Past .home r.id (s.failReq r h f bar) := by
  obtain ⟨u, v, hu, he⟩ := s.failReq_eq r h f bar
  exact he ▸ past_setReq_leaves hu v

theorem past_scheduleFault_self (slot : Nat) : Past .home r.id (s.scheduleFault r h slot) := by
  obtain ⟨u, hu, he⟩ := s.scheduleFault_eq r h slot
  exact he ▸ past_setReq_leaves hu s

variable {s} {req : Nat} (hs : Past .home req s)
include hs

theorem past_finishReq (resp : Response) : Past .home req (s.finishReq r h resp) := by
  obtain ⟨u, hu, he⟩ := s.finishReq_eq r h resp
  exact he ▸ past_setReq hs hu.stage

theorem past_scheduleFault (slot : Nat) : Past .home req (s.scheduleFault r h slot) := by
  obtain ⟨u, hu, he⟩ := s.scheduleFault_eq r h slot
  exact he ▸ past_setReq hs hu.stage

/-! ### What an answer sets off -/

theorem past_dropContributions (d : DieIx) (q : Fin 16) : Past .home req (s.dropContributions d q) := by
  refine past_foldl (fun s x hs => past_foldl (fun s w hs => ?_) _ hs) _ hs
  split
  · exact past_scheduleFault _ _ hs _
  · exact hs

theorem past_fireOn (d : DieIx) (q : Fin 16) : Past .home req (s.fireOn d q) :=
  past_of_reqs (past_dropContributions hs d q) (by simp only [State.fireOn, State.modDie_reqs, State.modCtx_reqs])

theorem past_fireBarrier (d : DieIx) (q : Fin 16) : Past .home req (s.fireBarrier d q) := by
  have fires (s : State) (p : DieIx × Fin 16) (hs : Past .home req s) : Past .home req (s.fireOn p.1 p.2) := past_fireOn hs p.1 p.2
  simp only [State.fireBarrier]
  exact past_modCtx (past_foldl fires _ hs) _ _ _

theorem past_fireIfFull (d : DieIx) (q : Fin 16) : Past .home req (s.fireIfFull d q) := by
  simp only [State.fireIfFull]
  split
  · exact past_fireBarrier hs d q
  · exact hs

theorem past_arrive (q : Fin 16) : Past .home req (s.arrive r h q) := by
  unfold State.arrive
  split
  · exact hs
  · split
    · exact hs
    · split
      · exact hs
      · dsimp only
        exact past_fireIfFull (past_modCtx (past_modCtx hs ..) ..) h q

theorem past_writeTarget (x : RedSlot) : Past .home req (s.writeTarget r x) := by
  refine past_foldl (fun s p hs => ?_) _ hs
  have checked := accessed_fullCheck s r.die (r.who s) .both (x.tbase + wordOf (foldBytes x.et * p.1))
  dsimp only
  split
  next he => rw [he] at checked; exact past_of_reqs hs checked.reqs
  next he =>
    rw [he] at checked
    split
    next hw => exact past_of_reqs hs ((accessed_placeWrite hw).reqs.trans checked.reqs)
    next => exact past_of_reqs hs checked.reqs

theorem past_foldWaiting (d : DieIx) (q : Fin 16) (i n : Nat) : Past .home req (s.foldWaiting d q i n) := by
  induction n generalizing s with
  | zero => exact hs
  | succ n ih =>
    unfold State.foldWaiting
    split
    · exact hs
    · split
      · exact hs
      · dsimp only
        split
        · exact past_modCtx hs ..
        next r _ =>
          have folded (y : RedSlot) (resp : Response) : Past .home req ((s.modCtx d q fun c => c.setRed i y).finishReq r d resp) :=
            past_finishReq r d (past_modCtx hs ..) resp
          refine ih ?_
          split
          · exact past_writeTarget r (folded _ _) _
          · exact folded _ _

theorem past_refuseSpent (d : DieIx) (q : Fin 16) (i : Nat) : Past .home req (s.refuseSpent d q i) := by
  unfold State.refuseSpent
  split
  · exact hs
  · dsimp only
    split
    · exact hs
    · refine past_foldl (fun s w hs => ?_) _ (past_modCtx hs ..)
      split
      · exact past_scheduleFault _ _ hs _
      · exact hs

end

/-! ### What a home does -/

/-- A contribution waits for its turn, has been folded, or is refused (R316, R317). -/
theorem past_contribute (s : State) (r : Req) (c : CopyItem) (d : DieIx) : Past .home r.id (s.contribute r c d) := by
  unfold State.contribute
  dsimp only
  split
  · exact past_scheduleFault_self _ _ _ _
  · split
    · exact past_scheduleFault_self _ _ _ _
    · split
      · exact past_scheduleFault_self _ _ _ _
      next q _ x _ _ =>
        have waits (v : State) : Past .home r.id (v.setReq { r with stage := .waiting }) :=
          past_setReq_self v (r := { r with stage := .waiting }) (by simp)
        exact past_refuseSpent (past_foldWaiting (waits _) _ _ _ _) _ _ _

theorem past_contributeAway (s : State) (r : Req) (c : CopyItem) : Past .home r.id (s.contributeAway r c) := by
  unfold State.contributeAway
  split
  · exact past_finishReq_self _ _ _ _
  · exact past_failReq_self _ _ _ _ _

/-- An operation on a trigger counter is answered (R410, R411). -/
theorem past_performCounter (s : State) (r : Req) (sel v : Word) (set : Option Bool) :
    Past .home r.id (s.performCounter r sel v set) := by
  unfold State.performCounter
  dsimp only
  split
  · exact past_finishReq_self _ _ _ _
  · split
    · split
      · exact past_finishReq_self _ _ _ _
      · exact past_failReq_self _ _ _ _ _
    · split
      · exact past_failReq_self _ _ _ _ _
      · split
        · exact past_finishReq_self _ _ _ _
        · split <;> exact past_finishReq_self _ _ _ _

theorem State.markFrame_reqs (s : State) (r : Req) : (s.markFrame r).reqs = s.reqs := by
  unfold State.markFrame
  split
  · rfl
  · split
    · rfl
    · dsimp only
      split
      · rfl
      · split <;> rfl

/-- What a chain of accesses that has come through has done. -/
theorem exists_ok_of_bind_eq_ok {ε α β : Type} {x : Except ε α} {f : α → Except ε β} {b : β} (h : x.bind f = .ok b) :
    ∃ a, x = .ok a ∧ f a = .ok b := by
  cases x with
  | error e => cases h
  | ok a => exact ⟨a, rfl, h⟩

/-- A widening changes no request and no other widening (R290). -/
theorem onlyDies_applyWidening {s t : State} {w : Widening} (h : s.applyWidening w = .ok t) : OnlyDies s t := by
  simp only [State.applyWidening] at h
  obtain ⟨a, ha, h⟩ := exists_ok_of_bind_eq_ok h
  obtain ⟨b, hb, h⟩ := exists_ok_of_bind_eq_ok h
  have reads := (onlyDies_dramRead ha).trans (onlyDies_dramRead hb)
  split at h
  · cases h
    exact reads
  · obtain ⟨c, hc, h⟩ := exists_ok_of_bind_eq_ok h
    exact (reads.trans (onlyDies_dramWrite hc)).trans (onlyDies_dramWrite h)

/-! ### The events -/

section
variable {s : State} {req : Nat} {r : Req} (hr : s.findReq req = some r)
include hr

theorem movesOn_of_past {i : Instr} {g : Stage} {t : State} (he : exec i s = .next t) (ht : Past g r.id t) :
    Claims.MovesOn s i req fun u => u.stage ≠ g :=
  ⟨t, he, State.findReq_id hr ▸ ht.ne⟩

/-- An addition to a barrier object answers its request, whether it is made, overflows or fails (R399, R465). -/
theorem barrierAdd_answers {i : CopyItem} {p : Piece} {ps : List Piece} {x : Place} (hs : r.stage = .adding) (hk : r.kind = .copy i)
    (hps : r.pieces = p :: ps) (hx : p.place = some x) (hl : s.linkedTo r.target x.die = true) :
    ∃ (v : State) (h : DieIx) (resp : Response), exec (.barrierAdd req) s = .next (v.setReq (r.answered h resp)) := by
  have run : exec (.barrierAdd req) s = execBarrierAdd req s := rfl
  simp only [run, execBarrierAdd, hr, hs, hk, hps, hx, hl, List.head?_cons, Bool.not_true, Bool.false_eq_true, if_false]
  split <;> exact ⟨_, _, _, rfl⟩

theorem movesOn_contributionArrival {c : CopyItem} (hs : r.stage = .home) (hk : r.kind = .copy c) (hc : c.cmd.isCred = true)
    (ht : s.inTurn r = true)
    (hw : ∀ s1, s.trackPieces r .syncWrite (if c.blk 16 8 = 0 then r.pieces else r.pieces.drop 1) = .ok s1 →
      (s1.contribute r c r.target).awaits = false) :
    Claims.MovesOn s (.contributionArrival req) req fun u => u.stage ≠ .home := by
  have run : exec (.contributionArrival req) s = execContributionArrival req s := rfl
  simp only [execContributionArrival, hr, hs, hk, hc, ht, decide_true, Bool.and_true, if_true] at run
  split at run
  · exact movesOn_of_past hr run (past_contributeAway s r c)
  · split at run
    · exact movesOn_of_past hr run (past_failReq_self _ _ _ _ _)
    next s1 h1 => exact movesOn_of_past hr (run.trans (settled_of_not_awaits (hw s1 h1))) (past_contribute s1 r c r.target)

theorem movesOn_ssyncArrival (ha : s.atUnit req .arrival = some r)
    (hl : ∀ h, s.barrierHome r.die = some h → s.linkedTo r.die (s.dieAt h).id = true) :
    Claims.MovesOn s (.ssyncArrival req) req fun u => u.stage ≠ .home := by
  have run : exec (.ssyncArrival req) s = execSsyncArrival req s := rfl
  simp only [execSsyncArrival, ha] at run
  split at run
  · split at run
    · exact movesOn_of_past hr run (past_finishReq_self _ _ _ _)
    · exact movesOn_of_past hr run (past_failReq_self _ _ _ _ _)
  next h hh =>
    split at run
    · exact movesOn_of_past hr run (past_failReq_self _ _ _ _ _)
    · rw [if_pos (hl h hh)] at run
      exact movesOn_of_past hr run (past_arrive _ _ (past_finishReq_self _ _ _ _) _)

theorem movesOn_triggerCounterChange {sel v : Word} {set : Option Bool} (hs : r.stage = .home)
    (hk : r.kind = .tcrd sel ∧ v = 0 ∧ set = none ∨ ∃ b, r.kind = .tcadd sel v b ∧ set = some b)
    (hl : s.linkedTo r.die (sel.extractLsb' 16 12) = true) (hw : (s.performCounter r sel v set).awaits = false) :
    Claims.MovesOn s (.triggerCounterChange req) req fun u => u.stage ≠ .home := by
  have run : exec (.triggerCounterChange req) s = settled (s.performCounter r sel v set) := by
    show execTriggerCounterChange req s = _
    rcases hk with ⟨hk, rfl, rfl⟩ | ⟨b, hk, rfl⟩ <;> simp [execTriggerCounterChange, hr, hs, hk, hl]
  exact movesOn_of_past hr (run.trans (settled_of_not_awaits hw)) (past_performCounter s r sel v set)

theorem movesOn_responseLand (hl : s.mayLand r = true) :
    Claims.MovesOn s (.responseLand req) req fun u => r.orphan = false ∧ u.stage = .landed := by
  have hid : r.id = req := State.findReq_id hr
  cases ho : r.orphan with
  | true =>
    refine ⟨_, exec_responseLand_orphan hr hl ho, fun u hu => ?_⟩
    rw [State.findReq_removeReq, if_pos hid.symm] at hu
    cases hu
  | false =>
    refine ⟨_, exec_responseLand hr hl ho, fun u hu => ⟨rfl, ?_⟩⟩
    have landed := (reqBecomes_setReq_of_reqs (r := r.landed) (State.holdFor_reqs s r) hr hid).1
    rw [State.findReq, State.markFrame_reqs] at hu
    exact Option.some.inj (hu.symm.trans landed) ▸ rfl

end

section
variable {s : State} {index : Nat} {w : Widening} (hw : s.widen[index]? = some w) (hl : s.linkedTo w.home (s.dieAt w.die).id = true)
include hw hl

/-- A widening whose accesses succeed. -/
theorem exec_crustWiden_of_ok {t : State} (ht : ({ s with widen := s.widen.eraseIdx index } : State).applyWidening w = .ok t) :
    exec (.crustWiden index) s = .next t := by
  show execCrustWiden index s = _
  simp only [execCrustWiden, hw, hl, ht, Bool.not_true, Bool.false_eq_true, if_false]

/-- One of which an access fails: the write that it belongs to reports it. -/
theorem exec_crustWiden_of_error {f : Failed}
    (hf : ({ s with widen := s.widen.eraseIdx index } : State).applyWidening w = .error f) :
    ∃ reqs, exec (.crustWiden index) s = .next { s with widen := s.widen.eraseIdx index, reqs } := by
  refine ⟨s.reqs.map fun r => if w.req = some r.id then { r with resp := r.failure f } else r, ?_⟩
  show execCrustWiden index s = _
  simp only [execCrustWiden, hw, hl, hf, Bool.not_true, Bool.false_eq_true, if_false]

/-- Either way it is gone (R250, R290). -/
theorem exec_crustWiden_widen : ∃ t, exec (.crustWiden index) s = .next t ∧ t.widen = s.widen.eraseIdx index := by
  cases h : ({ s with widen := s.widen.eraseIdx index } : State).applyWidening w with
  | ok t => exact ⟨t, exec_crustWiden_of_ok hw hl h, (onlyDies_applyWidening h).widen⟩
  | error f =>
    obtain ⟨reqs, run⟩ := exec_crustWiden_of_error hw hl h
    exact ⟨_, run, rfl⟩

end

end Sys2Proof.Machine

open Sys2Proof Sys2Proof.Machine

theorem Sys2Proof.Claims.homesAnswer : Claims.HomesAnswer := by
  intro req r s hr
  refine ⟨?_, ?_, ?_, ?_, ?_, ?_⟩
  · intro i p ps x hs hk hps hx hl
    obtain ⟨v, h, resp, run⟩ := barrierAdd_answers hr hs hk hps hx hl
    exact movesOn_of_past hr run (past_setReq_self v (r := r.answered h resp) (Req.answered_stage_ne_adding r h resp))
  · intro c hs hk hc ht hw
    exact movesOn_contributionArrival hr hs hk hc ht hw
  · intro ha hl
    exact movesOn_ssyncArrival hr (State.atUnit_of hr ha.stage ha.unit ha.turn ha.links ha.free) hl
  · intro sel v set hs hk hl hw
    exact movesOn_triggerCounterChange hr hs hk hl hw
  · intro index w hw hl
    exact exec_crustWiden_widen hw hl
  · rintro (⟨hs, hw⟩ | ⟨c, hk, hs, hf⟩)
    · exact movesOn_responseLand hr (State.mayLand_of_done hs hw)
    · exact movesOn_responseLand hr (by simp [State.mayLand, hk, hs, hf])

end

section
/-!
PROOFS. An access to sectors without poison comes through while the slices have room, and what it then leaves of the die (R249,
R250, R311).
-/
namespace Sys2Proof.Machine

/-! ### The die behind its slices -/

/-- What a fetch into the slices leaves of a die. -/
structure Cached (x y : Die) : Prop where
  dram : y.dram = x.dram
  poison : y.poison = x.poison
  tiles : y.tiles = x.tiles

theorem Cached.refl (x : Die) : Cached x x := ⟨rfl, rfl, rfl⟩

theorem Cached.trans {x y z : Die} (h : Cached x y) (k : Cached y z) : Cached x z :=
  ⟨k.dram.trans h.dram, k.poison.trans h.poison, k.tiles.trans h.tiles⟩

/-- The slices have room for n sectors more: none of them is full before, or any of their lines can leave (R311). -/
def Roomy (n : Nat) (x : Die) : Prop := x.races = [] ∨ x.slices.length + n < 32768

theorem Roomy.mono {m n : Nat} {x : Die} (h : Roomy n x) (hm : m ≤ n) : Roomy m x :=
  h.imp id fun h => by omega

theorem fill_races (x : Die) (k : Nat) : (x.fill k).races = x.races := by
  unfold Die.fill; split <;> rfl

theorem fill_slices (x : Die) (k : Nat) : (x.fill k).slices = x.slices := by
  unfold Die.fill; split <;> rfl

theorem cached_fill (x : Die) (k : Nat) : Cached x (x.fill k) := by
  unfold Die.fill; split <;> exact ⟨rfl, rfl, rfl⟩

theorem roomy_fill {n : Nat} {x : Die} (h : Roomy n x) (k : Nat) : Roomy n (x.fill k) := by
  unfold Roomy
  rw [fill_races, fill_slices]
  exact h

theorem cached_refill (x : Die) (line : Nat) : Cached x (x.refill line) := by
  unfold Die.refill; split <;> exact ⟨rfl, rfl, rfl⟩

theorem refill_slices (x : Die) (line : Nat) : (x.refill line).slices = x.slices := by
  unfold Die.refill; split <;> rfl

theorem refill_races_nil {x : Die} (h : x.races = []) (line : Nat) : (x.refill line).races = [] := by
  simp [Die.refill, h]

theorem cached_hold (x : Die) (dirty : Bool) (k : Nat) : Cached x (x.hold dirty k) := by
  have h := cached_refill x (lineOfSector k)
  exact ⟨h.dram, h.poison, h.tiles⟩

/-- A list's members on either side of a key are no more than its members. -/
theorem length_filter_lt_add_length_filter_gt {α : Type} (f : α → Nat) (k : Nat) (l : List α) :
    (l.filter fun c => decide (f c < k)).length + (l.filter fun c => decide (k < f c)).length ≤ l.length := by
  induction l with
  | nil => simp
  | cons c l ih =>
    simp only [List.filter_cons, decide_eq_true_eq]
    split <;> split <;> simp only [List.length_cons] <;> omega

/-- A slice holds one sector more at the most. -/
theorem length_slices_hold (x : Die) (dirty : Bool) (k : Nat) : (x.hold dirty k).slices.length ≤ x.slices.length + 1 := by
  have h := length_filter_lt_add_length_filter_gt CacheSector.sector k x.slices
  simp only [Die.hold, List.length_append, List.length_singleton, refill_slices]
  omega

theorem roomy_hold {n : Nat} {x : Die} (h : Roomy (n + 1) x) (dirty : Bool) (k : Nat) : Roomy n (x.hold dirty k) := by
  refine h.imp (fun h => refill_races_nil h _) fun h => ?_
  have := length_slices_hold x dirty k
  omega

/-! ### Room in the slices -/

/-- A change of die d in its slices only. -/
structure Fetched (d : DieIx) (s t : State) : Prop where
  here : Cached (s.dieAt d) (t.dieAt d)
  others : ∀ e, e ≠ d → t.dieAt e = s.dieAt e
  rest : OnlyDies s t

theorem Fetched.refl (d : DieIx) (s : State) : Fetched d s s := ⟨.refl _, fun _ _ => rfl, .refl s⟩

theorem Fetched.trans {d : DieIx} {s t u : State} (h : Fetched d s t) (k : Fetched d t u) : Fetched d s u :=
  ⟨h.here.trans k.here, fun e he => (k.others e he).trans (h.others e he), h.rest.trans k.rest⟩

theorem State.dieAt_modDie_ne (s : State) {d e : DieIx} (h : e ≠ d) (f : Die → Die) : (s.modDie d f).dieAt e = s.dieAt e := by
  rw [State.dieAt_modDie, if_neg h]

theorem fetched_modDie {s : State} {d : DieIx} {f : Die → Die} (h : Cached (s.dieAt d) (f (s.dieAt d))) : Fetched d s (s.modDie d f) where
  here := by rw [State.dieAt_modDie_same]; exact h
  others _ he := s.dieAt_modDie_ne he f
  rest := onlyDies_modDie s d f

/-- A die whose slices hold no sector of a line. -/
def Die.dropLine (line : Nat) (x : Die) : Die := { x with slices := x.slices.filter fun c => decide (lineOfSector c.sector ≠ line) }

/-- A line without race records leaves its slice. -/
theorem State.evictLine_of_races_nil {s : State} {d : DieIx} (h : (s.dieAt d).races = []) (line : Nat) :
    s.evictLine d line = some (s.modDie d (Die.dropLine line)) := by
  have spill (k : Nat) : s.spillSector d k = some s := by simp [State.spillSector, Die.race, h]
  simp only [State.evictLine, spill, Option.bind_some, Option.map_some]
  rfl

theorem State.makeRoom_of_roomy {s : State} {d : DieIx} {n : Nat} (h : Roomy n (s.dieAt d)) (line : Nat) :
    ∃ t, s.makeRoom d line = some t ∧ Fetched d s t ∧ Roomy n (t.dieAt d) := by
  simp only [State.makeRoom]
  split
  · exact ⟨s, rfl, .refl d s, h⟩
  next hf =>
    have hfull : (s.dieAt d).sliceFull (lineChannel line) = true := by simp_all
    obtain ⟨hlen, hheld⟩ : 32768 ≤ (s.dieAt d).slices.length ∧ 32768 ≤ ((s.dieAt d).linesHeld (lineChannel line)).length := by
      simpa [Die.sliceFull] using hfull
    have hraces : (s.dieAt d).races = [] := h.resolve_right (by omega)
    obtain ⟨l, ls, hl⟩ := List.exists_cons_of_length_pos (by omega : 0 < ((s.dieAt d).linesHeld (lineChannel line)).length)
    refine ⟨s.modDie d (Die.dropLine l), ?_, fetched_modDie ⟨rfl, rfl, rfl⟩, ?_⟩
    · rw [hl, List.findSome?_cons, State.evictLine_of_races_nil hraces]
    · rw [State.dieAt_modDie_same]
      exact .inl hraces

theorem State.roomFor_of_roomy {s : State} {d : DieIx} {n : Nat} (h : Roomy n (s.dieAt d)) (va : Word) (l : Nat) (ks : List Nat) :
    ∃ t, s.roomFor d va l ks = .ok t ∧ Fetched d s t ∧ Roomy n (t.dieAt d) := by
  induction ks generalizing s with
  | nil => exact ⟨s, rfl, .refl d s, h⟩
  | cons k ks ih =>
    obtain ⟨s1, h1, hs1, hr1⟩ := State.makeRoom_of_roomy h (lineOfSector k)
    obtain ⟨t, ht, hst, hrt⟩ := ih hr1
    exact ⟨t, by simp only [State.roomFor, h1, ht], hs1.trans hst, hrt⟩

/-! ### Accesses to DRAM -/

/-- None of the sectors of n bytes at l is poisoned. -/
def Clean (x : Die) (l n : Nat) : Prop := ∀ k ∈ x.poison, ¬ (l / 32 ≤ k ∧ k ≤ (l + n - 1) / 32)

theorem mem_sectorsOf {l n k : Nat} : k ∈ sectorsOf l n ↔ l / 32 ≤ k ∧ k ≤ (l + n - 1) / 32 := by
  simp only [sectorsOf, sectorOf, List.mem_map, List.mem_range]
  constructor
  · rintro ⟨i, hi, rfl⟩
    omega
  · rintro ⟨h1, h2⟩
    exact ⟨k - l / 32, by omega, by omega⟩

theorem Clean.not_mem_poison {x : Die} {l n k : Nat} (h : Clean x l n) (hk : k ∈ sectorsOf l n) : k ∉ x.poison :=
  fun hp => h k hp (mem_sectorsOf.mp hk)

theorem length_sectorsOf_two (l : Nat) : (sectorsOf l 2).length ≤ 2 := by
  simp only [sectorsOf, sectorOf, List.length_map, List.length_range]
  omega

/-- A sector is fetched, unless it is to be written as a whole, and held. -/
def Die.take (whole : Nat → Bool) (dirty : Bool) (x : Die) (k : Nat) : Die := (if whole k then x else x.fill k).hold dirty k

theorem cached_take (whole : Nat → Bool) (dirty : Bool) (x : Die) (k : Nat) : Cached x (x.take whole dirty k) := by
  unfold Die.take
  split
  · exact cached_hold x dirty k
  · exact (cached_fill x k).trans (cached_hold _ dirty k)

theorem roomy_take {n : Nat} {x : Die} (whole : Nat → Bool) (dirty : Bool) (h : Roomy (n + 1) x) (k : Nat) :
    Roomy n (x.take whole dirty k) := by
  unfold Die.take
  split
  · exact roomy_hold h dirty k
  · exact roomy_hold (roomy_fill h k) dirty k

/-- The sectors of an access come into the slices one after another. -/
theorem cached_foldl_take (whole : Nat → Bool) (dirty : Bool) (n : Nat) (ks : List Nat) (x : Die) (h : Roomy (n + ks.length) x) :
    Cached x (ks.foldl (Die.take whole dirty) x) ∧ Roomy n (ks.foldl (Die.take whole dirty) x) := by
  induction ks generalizing x with
  | nil => exact ⟨.refl x, h⟩
  | cons k ks ih =>
    obtain ⟨hc, hn⟩ := ih (x.take whole dirty k) (roomy_take whole dirty h k)
    exact ⟨(cached_take whole dirty x k).trans hc, hn⟩

/-- A read of two bytes. -/
theorem State.dramRead_two {s : State} {d : DieIx} {n l : Nat} (hr : Roomy (n + 2) (s.dieAt d)) (hc : Clean (s.dieAt d) l 2) (va : Word) :
    ∃ t, s.dramRead d va l 2 = .ok (t, (s.dieAt d).dram.bytes l 2) ∧ Fetched d s t ∧ Roomy n (t.dieAt d) := by
  have clean : (s.dieAt d).poisonAt l 2 = none :=
    List.find?_eq_none.mpr fun k hk => by simpa using hc.not_mem_poison hk
  obtain ⟨s1, h1, hs1, hr1⟩ := State.roomFor_of_roomy hr va l (sectorsOf l 2)
  obtain ⟨cached, roomy⟩ := cached_foldl_take (fun _ => false) false n (sectorsOf l 2) (s1.dieAt d)
    (hr1.mono (Nat.add_le_add_left (length_sectorsOf_two l) n))
  refine ⟨s1.modDie d fun y => (sectorsOf l 2).foldl (Die.take (fun _ => false) false) y, ?_, hs1.trans (fetched_modDie cached), ?_⟩
  · simp only [State.dramRead, clean, h1]
    rfl
  · rw [State.dieAt_modDie_same]
    exact roomy

/-- What a write of DRAM leaves: die d holds the bytes, and bears no new mark of poison. -/
structure Stored (d : DieIx) (m : Mem) (s t : State) : Prop where
  dram : (t.dieAt d).dram = m
  poison : ∀ k ∈ (t.dieAt d).poison, k ∈ (s.dieAt d).poison
  tiles : (t.dieAt d).tiles = (s.dieAt d).tiles
  others : ∀ e, e ≠ d → t.dieAt e = s.dieAt e
  rest : OnlyDies s t

theorem Fetched.stored {d : DieIx} {s t : State} (h : Fetched d s t) : Stored d (s.dieAt d).dram s t :=
  ⟨h.here.dram, fun _ hk => h.here.poison ▸ hk, h.here.tiles, h.others, h.rest⟩

theorem Stored.trans {d : DieIx} {m m' : Mem} {s t u : State} (h : Stored d m s t) (k : Stored d m' t u) : Stored d m' s u :=
  ⟨k.dram, fun j hj => h.poison j (k.poison j hj), k.tiles.trans h.tiles, fun e he => (k.others e he).trans (h.others e he), h.rest.trans k.rest⟩

theorem Stored.clean {d : DieIx} {m : Mem} {s t : State} {l n : Nat} (h : Stored d m s t) (hc : Clean (s.dieAt d) l n) :
    Clean (t.dieAt d) l n := fun k hk => hc k (h.poison k hk)

theorem Stored.tileAt {d : DieIx} {m : Mem} {s t : State} (h : Stored d m s t) (e : DieIx) (k : TileIx) : t.tileAt e k = s.tileAt e k := by
  by_cases he : e = d
  · rw [State.tileAt, he, h.tiles]; rfl
  · rw [State.tileAt, h.others e he]; rfl

/-- A write of two bytes. -/
theorem State.dramWrite_two {s : State} {d : DieIx} {n l : Nat} {bs : List Byte} (hb : bs.length = 2) (hr : Roomy (n + 2) (s.dieAt d))
    (hc : Clean (s.dieAt d) l 2) (va : Word) :
    ∃ t, s.dramWrite d va l bs = .ok t ∧ Stored d ((s.dieAt d).dram.write l bs) s t ∧ Roomy n (t.dieAt d) := by
  have clean : (sectorsOf l bs.length).find? (fun k => (s.dieAt d).poison.contains k &&
      !(decide (l ≤ k * 32) && decide (k * 32 + 32 ≤ l + bs.length))) = none := by
    rw [hb]
    exact List.find?_eq_none.mpr fun k hk => by simp [hc.not_mem_poison hk]
  obtain ⟨s1, h1, hs1, hr1⟩ := State.roomFor_of_roomy hr va l (sectorsOf l bs.length)
  obtain ⟨cached, roomy⟩ := cached_foldl_take (fun k => decide (l ≤ k * 32) && decide (k * 32 + 32 ≤ l + bs.length)) true n
    (sectorsOf l bs.length) (s1.dieAt d) (hr1.mono (Nat.add_le_add_left (hb ▸ length_sectorsOf_two l) n))
  have data := hs1.here.trans cached
  refine ⟨_, by simp only [State.dramWrite, clean, h1]; rfl, ⟨?_, ?_, ?_, fun e he => ?_, hs1.rest.trans (onlyDies_modDie ..)⟩, ?_⟩
  · rw [State.dieAt_modDie_same]
    exact congrArg (fun m => m.write l bs) data.dram
  · rw [State.dieAt_modDie_same]
    exact fun k hk => data.poison ▸ (List.mem_filter.mp hk).1
  · rw [State.dieAt_modDie_same]
    exact data.tiles
  · rw [State.dieAt_modDie_ne _ he, hs1.others e he]
  · rw [State.dieAt_modDie_same]
    exact roomy

end Sys2Proof.Machine
end

section
/-!
PROOFS. The widening of a key page's crust: the bounds of one channel move, and no other byte does (R288, R290).
-/
namespace Sys2Proof.Machine

/-! ### Bytes and values -/

theorem length_bytesOf (n w : Nat) : (bytesOf n w).length = n := by
  induction n generalizing w with
  | zero => rfl
  | succ n ih => simp [bytesOf, ih]

theorem valueOf_bytesOf {n w : Nat} (h : w < 256 ^ n) : valueOf (bytesOf n w) = w := by
  induction n generalizing w with
  | zero => simp_all [bytesOf, valueOf]
  | succ n ih =>
    have hd : w / 256 < 256 ^ n := by rw [Nat.div_lt_iff_lt_mul (by decide)]; omega
    simp only [bytesOf, valueOf, ih hd, BitVec.toNat_ofNat]
    omega

theorem valueOf_lt (bs : List Byte) : valueOf bs < 256 ^ bs.length := by
  induction bs with
  | nil => simp [valueOf]
  | cons b bs ih =>
    have hb : b.toNat < 256 := b.isLt
    simp only [valueOf, List.length_cons, Nat.pow_succ]
    omega

theorem Mem.value_lt {m : Mem} (h : m.wf = true) (a n : Nat) : m.value a n < 256 ^ n := by
  have hl : (m.bytes a n).length = n := by rw [Mem.bytes_eq m a n h, List.length_map, List.length_range]
  simpa only [Mem.value, hl] using valueOf_lt (m.bytes a n)

/-- What was written is read. -/
theorem Mem.value_write_same {m : Mem} (h : m.wf = true) (a : Nat) {n w : Nat} (hw : w < 256 ^ n) :
    (m.write a (bytesOf n w)).value a n = w := by
  have bytes : (m.write a (bytesOf n w)).bytes a n = bytesOf n w := by
    rw [Mem.bytes_eq _ a n (Mem.wf_write m a _ h)]
    refine List.ext_getElem (by simp [length_bytesOf]) fun i hi hj => ?_
    have hin : i < n := by simpa using hi
    simp [Mem.read_write, length_bytesOf, hin, List.getD_eq_getElem?_getD]
  rw [Mem.value, bytes, valueOf_bytesOf hw]

/-- A write beside the bytes leaves their value. -/
theorem Mem.value_write_outside {m : Mem} (h : m.wf = true) {a b n : Nat} {bs : List Byte} (hd : a + n ≤ b ∨ b + bs.length ≤ a) :
    (m.write b bs).value a n = m.value a n := by
  rw [Mem.value, Mem.value, Mem.bytes_eq _ a n (Mem.wf_write m b _ h), Mem.bytes_eq _ a n h]
  congr 1
  refine List.map_congr_left fun i hi => Mem.read_write_outside m b bs _ ?_
  have := List.mem_range.mp hi
  omega

/-! ### The bounds of a channel -/

/-- With no flag of FPCTL set a minimum or maximum is one of its operands, or the canonical NaN (R96). -/
theorem Fmt.select_mem (f : Fmt) (big : Bool) (a b : Nat) :
    f.select {} big a b = a ∨ f.select {} big a b = b ∨ f.select {} big a b = f.nan := by
  have flush (w : Nat) : RoundCtx.flushIn {} f w = w := by simp [RoundCtx.flushIn, RoundCtx.daz]
  simp only [Fmt.select, flush]
  split
  · exact .inr (.inr rfl)
  · exact .inr (.inl rfl)
  · exact .inl rfl
  · cases big <;> simp only [if_true, Bool.false_eq_true, if_false] <;> split <;> simp

theorem select_bf16_lt (big : Bool) {a b : Nat} (ha : a < 65536) (hb : b < 65536) : ElemType.bf16.fmt.select {} big a b < 65536 := by
  have hn : ElemType.bf16.fmt.nan < 65536 := by decide
  rcases Fmt.select_mem ElemType.bf16.fmt big a b with h | h | h <;> omega

/-- The bounds are encodings of bf16. -/
theorem widenBounds_lt {mn mx v : Nat} (h1 : mn < 65536) (h2 : mx < 65536) (hv : v < 65536) :
    (widenBounds mn mx v).1 < 65536 ∧ (widenBounds mn mx v).2 < 65536 := by
  unfold widenBounds
  split
  · exact ⟨h1, h2⟩
  · split
    · decide
    · exact ⟨select_bf16_lt false h1 hv, select_bf16_lt true h2 hv⟩

theorem widenBounds_of_nan_bound {mn mx : Nat} (v : Nat) (h : ElemType.bf16.fmt.value mn = .nan ∨ ElemType.bf16.fmt.value mx = .nan) :
    widenBounds mn mx v = (mn, mx) := by
  simp [widenBounds, isNan16, h]

theorem widenBounds_of_nan_value {mn mx v : Nat} (h1 : ElemType.bf16.fmt.value mn ≠ .nan) (h2 : ElemType.bf16.fmt.value mx ≠ .nan)
    (hv : ElemType.bf16.fmt.value v = .nan) : widenBounds mn mx v = (0xFF80, 0x7F80) := by
  simp [widenBounds, isNan16, h1, h2, hv]

theorem widenBounds_of_numbers {mn mx v : Nat} (h1 : ElemType.bf16.fmt.value mn ≠ .nan) (h2 : ElemType.bf16.fmt.value mx ≠ .nan)
    (hv : ElemType.bf16.fmt.value v ≠ .nan) :
    widenBounds mn mx v = (ElemType.bf16.fmt.select {} false mn v, ElemType.bf16.fmt.select {} true mx v) := by
  simp [widenBounds, isNan16, h1, h2, hv]

/-! ### The crust -/

/-- The place of a channel's MIN, and that of its MAX. -/
def Widening.lo (w : Widening) : Nat := w.crust + 2 * w.chan
def Widening.hi (w : Widening) : Nat := w.crust + 2 * w.dh + 2 * w.chan

/-- A channel's bounds as they become. -/
def Widening.bounds (w : Widening) (m : Mem) : Nat × Nat := widenBounds (m.value w.lo 2) (m.value w.hi 2) w.value.toNat

/-- A memory in which a channel's bounds have been widened, and nothing else has changed. -/
structure Widened (w : Widening) (m m' : Mem) : Prop where
  min : m'.value w.lo 2 = (w.bounds m).1
  max : m'.value w.hi 2 = (w.bounds m).2
  others : ∀ a, ¬ (w.lo ≤ a ∧ a < w.lo + 2) → ¬ (w.hi ≤ a ∧ a < w.hi + 2) → m'.read a = m.read a

theorem Widened.bounds_eq {w : Widening} {m m' : Mem} {mn mx : Nat} (h : Widened w m m') (hb : w.bounds m = (mn, mx)) :
    m'.value w.lo 2 = mn ∧ m'.value w.hi 2 = mx :=
  ⟨h.min.trans (congrArg Prod.fst hb), h.max.trans (congrArg Prod.snd hb)⟩

theorem widened_write {w : Widening} {m : Mem} (hw : w.chan < w.dh) (hm : m.wf = true) :
    Widened w m ((m.write w.lo (bytesOf 2 (w.bounds m).1)).write w.hi (bytesOf 2 (w.bounds m).2)) := by
  have apart : w.lo + 2 ≤ w.hi := by simp only [Widening.lo, Widening.hi]; omega
  obtain ⟨h1, h2⟩ := widenBounds_lt (Mem.value_lt hm w.lo 2) (Mem.value_lt hm w.hi 2) w.value.isLt
  have wf := Mem.wf_write m w.lo (bytesOf 2 (w.bounds m).1) hm
  refine ⟨?_, Mem.value_write_same wf w.hi h2, fun a ha hb => ?_⟩
  · rw [Mem.value_write_outside wf (.inl apart), Mem.value_write_same hm w.lo h1]
  · rw [Mem.read_write_outside _ _ _ _ (by rw [length_bytesOf]; omega), Mem.read_write_outside _ _ _ _ (by rw [length_bytesOf]; omega)]

/-- A widening at a die whose slices have room, of a channel whose bytes bear no poison. -/
theorem State.applyWidening_ok {s : State} {w : Widening} (hw : w.chan < w.dh) (hm : (s.dieAt w.die).dram.wf = true)
    (hr : Roomy 8 (s.dieAt w.die)) (hlo : Clean (s.dieAt w.die) w.lo 2) (hhi : Clean (s.dieAt w.die) w.hi 2) :
    ∃ t m, s.applyWidening w = .ok t ∧ Stored w.die m s t ∧ Widened w (s.dieAt w.die).dram m := by
  have place : w.crust + 2 * w.chan + 2 * w.dh = w.hi := by simp only [Widening.hi]; omega
  obtain ⟨s1, read1, f1, r1⟩ := State.dramRead_two (n := 6) hr hlo (w.va + BitVec.ofNat 64 (w.lo - w.crust))
  obtain ⟨s2, read2, f2, r2⟩ := State.dramRead_two (n := 4) r1 (f1.stored.clean hhi) (w.va + BitVec.ofNat 64 (w.hi - w.crust))
  rw [f1.here.dram] at read2
  have fetched := (f1.trans f2).stored
  obtain ⟨s3, write1, st1, r3⟩ := State.dramWrite_two (n := 2) (length_bytesOf 2 (w.bounds (s.dieAt w.die).dram).1) r2
    (fetched.clean hlo) (w.va + BitVec.ofNat 64 (w.lo - w.crust))
  obtain ⟨s4, write2, st2, -⟩ := State.dramWrite_two (n := 0) (length_bytesOf 2 (w.bounds (s.dieAt w.die).dram).2) r3
    ((fetched.trans st1).clean hhi) (w.va + BitVec.ofNat 64 (w.hi - w.crust))
  have stored := (fetched.trans st1).trans st2
  rw [st1.dram, fetched.dram] at stored
  have applied : s.applyWidening w = if (w.bounds (s.dieAt w.die).dram).1 = (s.dieAt w.die).dram.value w.lo 2 ∧
      (w.bounds (s.dieAt w.die).dram).2 = (s.dieAt w.die).dram.value w.hi 2 then .ok s2
      else (s2.dramWrite w.die (w.va + BitVec.ofNat 64 (w.lo - w.crust)) w.lo (bytesOf 2 (w.bounds (s.dieAt w.die).dram).1)).bind fun s3 =>
        s3.dramWrite w.die (w.va + BitVec.ofNat 64 (w.hi - w.crust)) w.hi (bytesOf 2 (w.bounds (s.dieAt w.die).dram).2) := by
    simp only [State.applyWidening, place]
    change (s.dramRead w.die (w.va + BitVec.ofNat 64 (w.lo - w.crust)) w.lo 2).bind _ = _
    rw [read1]
    change (s1.dramRead w.die (w.va + BitVec.ofNat 64 (w.hi - w.crust)) w.hi 2).bind _ = _
    rw [read2]
    rfl
  by_cases same : (w.bounds (s.dieAt w.die).dram).1 = (s.dieAt w.die).dram.value w.lo 2 ∧
      (w.bounds (s.dieAt w.die).dram).2 = (s.dieAt w.die).dram.value w.hi 2
  · refine ⟨s2, _, ?_, fetched, same.1.symm, same.2.symm, fun _ _ _ => rfl⟩
    rw [applied, if_pos same]
  · refine ⟨s4, _, ?_, stored, widened_write hw hm⟩
    rw [applied, if_neg same, write1]
    exact write2

end Sys2Proof.Machine

open Sys2Proof Sys2Proof.Machine

theorem Sys2Proof.Claims.crustWidens : Claims.CrustWidens := by
  intro index w s hw hc hl hroom hlo hhi
  have room : Roomy 8 (s.dieAt w.die) := hroom
  obtain ⟨t, m, run, stored, widened⟩ :=
    State.applyWidening_ok (s := { s with widen := s.widen.eraseIdx index }) hc hlo.wf room hlo.clean hhi.clean
  refine ⟨t, exec_crustWiden_of_ok hw hl run, stored.rest.widen, stored.rest.reqs, stored.others, stored.tileAt, ?_⟩
  rw [stored.dram]
  exact ⟨fun h => widened.bounds_eq (widenBounds_of_nan_bound _ h),
    fun ⟨h1, h2, hv⟩ => widened.bounds_eq (widenBounds_of_nan_value h1 h2 hv),
    fun ⟨h1, h2, hv⟩ => widened.bounds_eq (widenBounds_of_numbers h1 h2 hv), widened.others⟩

/-- Settles O47: a response lands once nothing is left of its request's work, a widening moves the bounds of its channel and nothing
else, and whatever a home performs leaves its request answered, waiting for what it has begun, or landed. -/
theorem responsesReturn : Obligations.ResponsesReturn :=
  ⟨Claims.responsesLand, Claims.crustWidens, Claims.homesAnswer⟩

end

section
/-!
PROOFS. The state after package cold reset, item by item as the state cards' Reset columns give it (R28, R415, R436), and the canonical form of
its memories.
-/
namespace Sys2Proof.Machine

@[simp] theorem State.dieAt_reset (d : DieIx) : State.reset.dieAt d = Die.reset d := nth_ofFn _ d

@[simp] theorem Die.tiles_reset (d : DieIx) (k : TileIx) : nth (Die.reset d).tiles k = Tile.reset k := nth_ofFn _ k

@[simp] theorem State.tileAt_reset (d : DieIx) (k : TileIx) : State.reset.tileAt d k = Tile.reset k := by
  rw [State.tileAt, State.dieAt_reset, Die.tiles_reset]

/-! ### The memories -/

theorem Tile.memOk_reset (k : TileIx) : (Tile.reset k).memOk = true := rfl

theorem Die.memOk_reset (d : DieIx) : (Die.reset d).memOk = true :=
  (Die.memOk_iff _).mpr ⟨Mem.wf_nil, fun k => by rw [Die.tiles_reset]; exact Tile.memOk_reset k⟩

theorem State.memOk_reset : State.reset.memOk = true :=
  (State.memOk_iff _).mpr ⟨Mem.wf_nil, fun d => by rw [State.dieAt_reset]; exact Die.memOk_reset d⟩

/-! ### The registers -/

/-- POSN holds the tile index in bits [31:24] (R28): an index is below 64, so that no bit of it is lost. -/
theorem Tile.posn_reset (k : TileIx) : (Tile.reset k).posn.toNat / 2 ^ 24 = k.val := by
  have fits : k.val * 2 ^ 24 < 2 ^ 32 := by omega
  rw [Tile.reset, BitVec.toNat_ofNat, Nat.mod_eq_of_lt fits, Nat.mul_div_cancel _ (by decide)]

/-- x0 reads as zero always, the others since they hold zero (R115). -/
theorem CcState.readX_reset (r : Fin 32) : ({} : CcState).readX r = 0 := by
  unfold CcState.readX
  split
  · rfl
  · exact nth_replicate _ r

theorem MatrixState.planeRow_reset (p : Fin 2) (r : Fin 128) : nth (nth ({} : MatrixState).planes p).rows r = 0 := by
  rw [show nth ({} : MatrixState).planes p = {} from nth_replicate _ p]
  exact nth_replicate _ r

theorem MatrixState.accRow_reset (q : Fin 4) (r : Fin 128) : nth (nth ({} : MatrixState).acc q) r = 0 := by
  rw [show nth ({} : MatrixState).acc q = Vector.replicate 128 0 from nth_replicate _ q]
  exact nth_replicate _ r

theorem Tile.seq_reset (k : TileIx) (j : Fin 4) : nth (Tile.reset k).seqs j = {} := nth_replicate _ j

end Sys2Proof.Machine

open Sys2Proof Sys2Proof.Machine

theorem Sys2Proof.Claims.tileAtReset (k : TileIx) : Claims.TileAtReset k (Tile.reset k) := by
  refine ⟨Tile.posn_reset k, rfl, rfl, ?x, ?b, ?g, ?n, rfl, rfl, rfl, rfl, rfl, rfl, rfl, ?v, ?q, ?streams, rfl, ?planes, ?acc, ?nests, ?sems,
    ?seqs, rfl, rfl, rfl, rfl, ?slots, rfl, rfl⟩
  case x => exact CcState.readX_reset
  case planes => exact MatrixState.planeRow_reset
  case acc => exact MatrixState.accRow_reset
  case nests => exact fun j => ⟨nth_replicate _ j, nth_replicate _ j⟩
  case seqs => exact fun j => by rw [Tile.seq_reset]; exact ⟨rfl, rfl⟩
  all_goals exact fun r => nth_replicate _ r

theorem Sys2Proof.Claims.dieAtReset (d : DieIx) : Claims.DieAtReset (Die.reset d) :=
  ⟨rfl, rfl, rfl, rfl, rfl, rfl, rfl, rfl, rfl, rfl, rfl, fun e => nth_replicate _ e, fun p => nth_replicate _ p, rfl⟩

/-- Settles O59: reset builds every die and tile alike, but for what is fused, from the values of the state cards. -/
theorem resetValues : Obligations.ResetValues := by
  refine ⟨State.memOk_reset, rfl, rfl, fun d => ⟨nth_replicate _ d, ?_⟩, fun d k => ?_⟩
  · rw [State.dieAt_reset]
    exact Claims.dieAtReset d
  · rw [State.tileAt_reset]
    exact Claims.tileAtReset k

end
